-- ==== Sys2Proof/Word.lean ====
section
/-! DEFINITION. The word types of the Swefisa (spec 00 R2, R3) and their plainest arithmetic. -/

namespace Sys2Proof

/-- A 64-bit word: a general register, a channel word, a state register (R3, R25). -/
abbrev Word := BitVec 64

/-- A byte (R3). -/
abbrev Byte := BitVec 8

/-- A 32-bit instruction word (R3, R51). -/
abbrev IWord := BitVec 32

/-- The value of a general register field: g0 to g31 (R53). -/
abbrev Reg := BitVec 5

/-- The value of a vector register field: v0 to v31 (R53). -/
abbrev VReg := BitVec 5

/-- The value of a predicate or mask register field (R53). -/
abbrev PReg := BitVec 3

/-- The number of a core in the whole pod: package · 2,048 + package core number (R11). -/
abbrev CoreId := Nat

/-- The number of a context slot in the whole pod: core number · 2,048 + context index (R34). -/
abbrev Slot := Nat

/-- The number of an endpoint in the whole pod: core number · 1,024 + endpoint index (R47). -/
abbrev EpId := Nat

/-- The bits `hi` to `lo` of a word, as a number. -/
def bits {n : Nat} (x : BitVec n) (hi lo : Nat) : Nat := x.toNat / 2 ^ lo % 2 ^ (hi + 1 - lo)

/-- One bit of a word. -/
def bit {n : Nat} (x : BitVec n) (i : Nat) : Bool := x.getLsbD i

/-- `x` with the bits `hi` to `lo` replaced by the low bits of `v`. -/
def setBits {n : Nat} (x : BitVec n) (hi lo v : Nat) : BitVec n :=
  BitVec.ofNat n (x.toNat - bits x hi lo * 2 ^ lo + v % 2 ^ (hi + 1 - lo) * 2 ^ lo)

/-- The signed value of the low `w` bits of a number: v − 2^w · v[w−1]. -/
def signedOf (w v : Nat) : Int :=
  if v % 2 ^ w < 2 ^ (w - 1) then (v % 2 ^ w : Nat) else (v % 2 ^ w : Nat) - (2 ^ w : Nat)

/-- The low `w` bits of an integer, as a number. -/
def wrapInt (w : Nat) (i : Int) : Nat := (i % (2 ^ w : Nat)).toNat

end Sys2Proof
end

