-- ==== Sys2Proof/Syntax.lean ====
section
/-! DEFINITION. Sys2Proof/Syntax.lean: the ONE inductive of the Swefisa's steps, one constructor per row of the
opcode table: the 202 instruction words, with their fields at the width the encoding gives them (R52 to R66), and
the 131 events (95_what_each_step_holds.md), with what says which occurrence it is: a core, a context slot, the
position of a message in flight, or the data an outside agent brings. -/

namespace Sys2Proof

/-- Where an uncorrectable error is found (R368). -/
inductive ErrPlace where
  /-- a granule of scratchpad, common store or HBM, by its location number -/
  | memory (loc : Nat)
  /-- a line of a cluster cache, by the location number of the HBM line -/
  | cacheLine (loc : Nat)
  /-- a byte of the context record of a slot, by its offset in the record -/
  | context (k : Slot) (o : Nat)
  /-- a byte of the vector extension of a slot, by its offset in the extension -/
  | extension (k : Slot) (o : Nat)
  /-- an endpoint entry; `counts` when the error is in word 3, which holds HEAD and TAIL (R377) -/
  | endpoint (e : EpId) (counts : Bool)
  /-- a step-buffer entry, by its place in the list of entries -/
  | stepEntry (n : Nat)
  /-- an almanac store entry: cluster, directory index, entry index -/
  | almanac (cl i entry : Nat)
  /-- register file, queue entry, router or scheduler state of a compute die -/
  | dieState (die : Nat)
deriving DecidableEq, Repr

/-- What the patrol scrubber finds (R369). -/
inductive ScrubFinding where
  | clean | corrected | uncorrectable
deriving DecidableEq, Repr

/-- A step of the machine: an instruction word's instruction, or an event. -/
inductive Instr where
  /-- ADD (R113). Writes g[a] + g[b] modulo 2^64 to g[d]. -/
  | add (d : BitVec 5) (a : BitVec 5) (b : BitVec 5)
  /-- SUB (R113). Writes g[a] - g[b] modulo 2^64 to g[d]. -/
  | sub (d : BitVec 5) (a : BitVec 5) (b : BitVec 5)
  /-- MUL (R113). Writes the low 64 bits of the product of g[a] and g[b] to g[d]. -/
  | mul (d : BitVec 5) (a : BitVec 5) (b : BitVec 5)
  /-- MULH (R113). Writes the high 64 bits of the signed product of g[a] and g[b] to g[d]. -/
  | mulh (d : BitVec 5) (a : BitVec 5) (b : BitVec 5)
  /-- MULHZ (R113). Writes the high 64 bits of the unsigned product of g[a] and g[b] to g[d]. -/
  | mulhz (d : BitVec 5) (a : BitVec 5) (b : BitVec 5)
  /-- DIV (R113). Signed division truncating toward zero, with the fixed results for division by zero and overflow. -/
  | div (d : BitVec 5) (a : BitVec 5) (b : BitVec 5)
  /-- DIVZ (R113). Unsigned division, giving all ones on division by zero. -/
  | divz (d : BitVec 5) (a : BitVec 5) (b : BitVec 5)
  /-- REM (R113). Signed remainder taking the dividend's sign. -/
  | rem (d : BitVec 5) (a : BitVec 5) (b : BitVec 5)
  /-- REMZ (R113). Unsigned remainder, giving the dividend on division by zero. -/
  | remz (d : BitVec 5) (a : BitVec 5) (b : BitVec 5)
  /-- AND (R113). Writes the bitwise AND of g[a] and g[b] to g[d]. -/
  | andR (d : BitVec 5) (a : BitVec 5) (b : BitVec 5)
  /-- OR (R113). Writes the bitwise OR of g[a] and g[b] to g[d]. -/
  | orR (d : BitVec 5) (a : BitVec 5) (b : BitVec 5)
  /-- XOR (R113). Writes the bitwise XOR of g[a] and g[b] to g[d]. -/
  | xorR (d : BitVec 5) (a : BitVec 5) (b : BitVec 5)
  /-- ANDN (R113). Writes g[a] AND NOT g[b] to g[d]. -/
  | andn (d : BitVec 5) (a : BitVec 5) (b : BitVec 5)
  /-- SHL (R113). Shifts g[a] left by g[b][5:0]. -/
  | shl (d : BitVec 5) (a : BitVec 5) (b : BitVec 5)
  /-- SHR (R113). Shifts g[a] right logically by g[b][5:0]. -/
  | shr (d : BitVec 5) (a : BitVec 5) (b : BitVec 5)
  /-- SAR (R113). Shifts g[a] right arithmetically by g[b][5:0]. -/
  | sar (d : BitVec 5) (a : BitVec 5) (b : BitVec 5)
  /-- ROT (R113). Rotates g[a] left by g[b][5:0]. -/
  | rot (d : BitVec 5) (a : BitVec 5) (b : BitVec 5)
  /-- MIN (R113). Writes the signed minimum of g[a] and g[b]. -/
  | minS (d : BitVec 5) (a : BitVec 5) (b : BitVec 5)
  /-- MAX (R113). Writes the signed maximum of g[a] and g[b]. -/
  | maxS (d : BitVec 5) (a : BitVec 5) (b : BitVec 5)
  /-- MINZ (R113). Writes the unsigned minimum of g[a] and g[b]. -/
  | minZ (d : BitVec 5) (a : BitVec 5) (b : BitVec 5)
  /-- MAXZ (R113). Writes the unsigned maximum of g[a] and g[b]. -/
  | maxZ (d : BitVec 5) (a : BitVec 5) (b : BitVec 5)
  /-- CLZ (R113). Counts the leading zero bits of g[a], 64 for zero. -/
  | clz (d : BitVec 5) (a : BitVec 5)
  /-- CTZ (R113). Counts the trailing zero bits of g[a], 64 for zero. -/
  | ctz (d : BitVec 5) (a : BitVec 5)
  /-- POPC (R113). Counts the one bits of g[a]. -/
  | popc (d : BitVec 5) (a : BitVec 5)
  /-- SEXT (R113). Sign-extends the low 8, 16 or 32 bits of g[a] chosen by fn[6:5]. -/
  | sext (d : BitVec 5) (a : BitVec 5) (w : BitVec 2)
  /-- ZEXT (R113). Zero-extends the low 8, 16 or 32 bits of g[a] chosen by fn[6:5]. -/
  | zext (d : BitVec 5) (a : BitVec 5) (w : BitVec 2)
  /-- BFX (R113). Extracts a bit field of g[a] whose position and width come from g[b]. -/
  | bfx (d : BitVec 5) (a : BitVec 5) (b : BitVec 5)
  /-- BFI (R113). Inserts a bit field of g[a] into g[d] at the position and width given by g[b]. -/
  | bfi (d : BitVec 5) (a : BitVec 5) (b : BitVec 5)
  /-- SEL (R113). Writes g[a] when the named predicate is 1, else g[b]. -/
  | sel (d : BitVec 5) (a : BitVec 5) (b : BitVec 5) (p : BitVec 3)
  /-- ADDA (R113). Adds g[b] to pointer bits [55:0] of g[a] modulo 2^56, keeping the tag byte. -/
  | adda (d : BitVec 5) (a : BitVec 5) (b : BitVec 5)
  /-- TAGS (R113). Replaces the tag byte of g[a] with g[b][7:0]. -/
  | tags (d : BitVec 5) (a : BitVec 5) (b : BitVec 5)
  /-- TAGG (R113). Writes the tag byte of g[a], zero-extended. -/
  | tagg (d : BitVec 5) (a : BitVec 5)
  /-- ADDI (R115). Adds a sign-extended 16-bit immediate to g[a]. -/
  | addi (d : BitVec 5) (a : BitVec 5) (i : BitVec 16)
  /-- ANDI (R115). ANDs g[a] with a zero-extended 16-bit immediate. -/
  | andi (d : BitVec 5) (a : BitVec 5) (i : BitVec 16)
  /-- ORI (R115). ORs g[a] with a zero-extended 16-bit immediate. -/
  | ori (d : BitVec 5) (a : BitVec 5) (i : BitVec 16)
  /-- XORI (R115). XORs g[a] with a zero-extended 16-bit immediate. -/
  | xori (d : BitVec 5) (a : BitVec 5) (i : BitVec 16)
  /-- SHLI (R115). Shifts g[a] left by an immediate count. -/
  | shli (d : BitVec 5) (a : BitVec 5) (n : BitVec 6)
  /-- SHRI (R115). Shifts g[a] right logically by an immediate count. -/
  | shri (d : BitVec 5) (a : BitVec 5) (n : BitVec 6)
  /-- SARI (R115). Shifts g[a] right arithmetically by an immediate count. -/
  | sari (d : BitVec 5) (a : BitVec 5) (n : BitVec 6)
  /-- ROTI (R115). Rotates g[a] left by an immediate count. -/
  | roti (d : BitVec 5) (a : BitVec 5) (n : BitVec 6)
  /-- MOVZ (R115). Places a 16-bit immediate at a 16-bit shift and clears the other bits of g[d]. -/
  | movz (d : BitVec 5) (s : BitVec 2) (i : BitVec 16)
  /-- MOVK (R115). Replaces one 16-bit field of g[d] with an immediate, keeping the other bits. -/
  | movk (d : BitVec 5) (s : BitVec 2) (i : BitVec 16)
  /-- CMP (R116). Compares g[a] with g[b] under a condition and writes a predicate. -/
  | cmp (d : BitVec 3) (a : BitVec 5) (b : BitVec 5) (c : BitVec 4)
  /-- CMPI (R116). Compares g[a] with a sign-extended 15-bit immediate and writes a predicate. -/
  | cmpi (p : BitVec 3) (c : BitVec 3) (a : BitVec 5) (i : BitVec 15)
  /-- PAND (R117). Writes the AND of two predicates. -/
  | pand (d : BitVec 3) (a : BitVec 3) (b : BitVec 3)
  /-- POR (R117). Writes the OR of two predicates. -/
  | por (d : BitVec 3) (a : BitVec 3) (b : BitVec 3)
  /-- PXOR (R117). Writes the XOR of two predicates. -/
  | pxor (d : BitVec 3) (a : BitVec 3) (b : BitVec 3)
  /-- PANDN (R117). Writes pa AND NOT pb. -/
  | pandn (d : BitVec 3) (a : BitVec 3) (b : BitVec 3)
  /-- PNOR (R117). Writes NOT (pa OR pb). -/
  | pnor (d : BitVec 3) (a : BitVec 3) (b : BitVec 3)
  /-- BR (R118). Branches PC-relative when the predicate XOR neg is 1. -/
  | br (p : BitVec 3) (n : BitVec 1) (d : BitVec 22)
  /-- J (R118). Jumps PC-relative. -/
  | j (d : BitVec 26)
  /-- JAL (R118). Writes PC + 4 to g31 and jumps PC-relative. -/
  | jal (d : BitVec 26)
  /-- JALR (R118). Jumps to g[a] and writes the link to g[d], trapping MISALIGN on an unaligned target. -/
  | jalr (d : BitVec 5) (a : BitVec 5)
  /-- FADD (R119). Floating-point addition rounded once with FMTCTL.RM, ORing flags. -/
  | fadd (d : BitVec 5) (a : BitVec 5) (b : BitVec 5) (t : BitVec 2)
  /-- FSUB (R119). Floating-point subtraction rounded once. -/
  | fsub (d : BitVec 5) (a : BitVec 5) (b : BitVec 5) (t : BitVec 2)
  /-- FMUL (R119). Floating-point multiplication rounded once. -/
  | fmul (d : BitVec 5) (a : BitVec 5) (b : BitVec 5) (t : BitVec 2)
  /-- FMA (R119). Fused multiply-add of g[a]·g[b] + g[d] rounded once. -/
  | fma (d : BitVec 5) (a : BitVec 5) (b : BitVec 5) (t : BitVec 2)
  /-- FDIV (R119). Floating-point division rounded once, setting DZ on finite nonzero over zero. -/
  | fdiv (d : BitVec 5) (a : BitVec 5) (b : BitVec 5) (t : BitVec 2)
  /-- FSQRT (R119). Floating-point square root rounded once. -/
  | fsqrt (d : BitVec 5) (a : BitVec 5) (t : BitVec 2)
  /-- FMIN (R120). Returns the smaller operand, -0 below +0, a NaN losing to a number. -/
  | fmin (d : BitVec 5) (a : BitVec 5) (b : BitVec 5) (t : BitVec 2)
  /-- FMAX (R120). Returns the larger operand, a NaN losing to a number. -/
  | fmax (d : BitVec 5) (a : BitVec 5) (b : BitVec 5) (t : BitVec 2)
  /-- FCMP (R121). Compares two floating values under EQ, LT, LE or UN and writes a predicate. -/
  | fcmp (d : BitVec 3) (a : BitVec 5) (b : BitVec 5) (c : BitVec 2) (t : BitVec 2)
  /-- FCVT_TO_S64 (R122). Converts a floating value to signed 64 bits by R95. -/
  | fcvtToS64 (d : BitVec 5) (a : BitVec 5) (t : BitVec 2)
  /-- FCVT_TO_Z64 (R122). Converts a floating value to unsigned 64 bits by R95. -/
  | fcvtToZ64 (d : BitVec 5) (a : BitVec 5) (t : BitVec 2)
  /-- FCVT_FROM_S64 (R122). Converts a signed 64-bit integer to floating format F. -/
  | fcvtFromS64 (d : BitVec 5) (a : BitVec 5) (t : BitVec 2)
  /-- FCVT_FROM_Z64 (R122). Converts an unsigned 64-bit integer to floating format F. -/
  | fcvtFromZ64 (d : BitVec 5) (a : BitVec 5) (t : BitVec 2)
  /-- FCVT_FLOAT (R122). Converts a value of float type G to float type F. -/
  | fcvtFloat (d : BitVec 5) (a : BitVec 5) (g : BitVec 2) (t : BitVec 2)
  /-- FCLASS (R121). Writes a one-hot 10-bit class mask of a floating value. -/
  | fclass (d : BitVec 5) (a : BitVec 5) (t : BitVec 2)
  /-- LDT (R124). Loads one typed element through a tagged pointer and converts it to register type F. -/
  | ldt (d : BitVec 5) (a : BitVec 5) (b : BitVec 5) (t : BitVec 2)
  /-- STT (R125). Converts g[d] to the pointer's format and stores one typed element. -/
  | stt (d : BitVec 5) (a : BitVec 5) (b : BitVec 5) (t : BitVec 2)
  /-- LD (R218). Plain load of 1 to 8 bytes, sign- or zero-extended. -/
  | ld (d : BitVec 5) (a : BitVec 5) (z : BitVec 2) (s : BitVec 1) (o : BitVec 10)
  /-- ST (R218). Plain store of 1 to 8 bytes into the store queue, a contribution on STEP pages. -/
  | st (d : BitVec 5) (a : BitVec 5) (z : BitVec 2) (o : BitVec 10)
  /-- LDA (R218). Load that is an acquire at its scope. -/
  | lda (d : BitVec 5) (a : BitVec 5) (z : BitVec 2) (c : BitVec 4) (o : BitVec 9)
  /-- STL (R218). Store that is a release at its scope. -/
  | stl (d : BitVec 5) (a : BitVec 5) (z : BitVec 2) (c : BitVec 4) (o : BitVec 9)
  /-- AMO_ADD (R220). Atomic wrapping add at the home, returning the old value. -/
  | amoAdd (d : BitVec 5) (a : BitVec 5) (b : BitVec 5) (z : BitVec 1) (c : BitVec 4) (o : BitVec 2)
  /-- AMO_AND (R220). Atomic bitwise AND at the home. -/
  | amoAnd (d : BitVec 5) (a : BitVec 5) (b : BitVec 5) (z : BitVec 1) (c : BitVec 4) (o : BitVec 2)
  /-- AMO_OR (R220). Atomic bitwise OR at the home. -/
  | amoOr (d : BitVec 5) (a : BitVec 5) (b : BitVec 5) (z : BitVec 1) (c : BitVec 4) (o : BitVec 2)
  /-- AMO_XOR (R220). Atomic bitwise XOR at the home. -/
  | amoXor (d : BitVec 5) (a : BitVec 5) (b : BitVec 5) (z : BitVec 1) (c : BitVec 4) (o : BitVec 2)
  /-- AMO_MIN (R220). Atomic signed minimum at the home. -/
  | amoMin (d : BitVec 5) (a : BitVec 5) (b : BitVec 5) (z : BitVec 1) (c : BitVec 4) (o : BitVec 2)
  /-- AMO_MAX (R220). Atomic signed maximum at the home. -/
  | amoMax (d : BitVec 5) (a : BitVec 5) (b : BitVec 5) (z : BitVec 1) (c : BitVec 4) (o : BitVec 2)
  /-- AMO_MINZ (R220). Atomic unsigned minimum at the home. -/
  | amoMinz (d : BitVec 5) (a : BitVec 5) (b : BitVec 5) (z : BitVec 1) (c : BitVec 4) (o : BitVec 2)
  /-- AMO_MAXZ (R220). Atomic unsigned maximum at the home. -/
  | amoMaxz (d : BitVec 5) (a : BitVec 5) (b : BitVec 5) (z : BitVec 1) (c : BitVec 4) (o : BitVec 2)
  /-- AMO_SWAP (R220). Atomic exchange at the home. -/
  | amoSwap (d : BitVec 5) (a : BitVec 5) (b : BitVec 5) (z : BitVec 1) (c : BitVec 4) (o : BitVec 2)
  /-- AMO_FADD (R220). Atomic floating add rounded RNE at the home, in arrival order. -/
  | amoFadd (d : BitVec 5) (a : BitVec 5) (b : BitVec 5) (z : BitVec 1) (c : BitVec 4) (o : BitVec 2)
  /-- ORDADD (R223). Ordered floating contribution into a common-store bank's ordered-add entry. -/
  | ordadd (d : BitVec 5) (a : BitVec 5) (b : BitVec 5) (z : BitVec 1) (c : BitVec 4) (o : BitVec 2)
  /-- CAS (R220). Compare-and-swap at the home, returning the old value. -/
  | cas (d : BitVec 5) (a : BitVec 5) (b : BitVec 5) (z : BitVec 1) (c : BitVec 4) (o : BitVec 2)
  /-- FENCE (R179). Imposes the selected LL, LS, SL and SS orders at the drain class of its scope. -/
  | fence (c : BitVec 4) (o : BitVec 4)
  /-- FENCESC (R181). Drains at system class and waits for the next heartbeat tick, placing the fence in the SC order. -/
  | fencesc
  /-- WAITA (R227). Compares a word and, if equal, arms a wait on its line and parks until a write, deadline or spurious wake. -/
  | waita (d : BitVec 5) (a : BitVec 5) (b : BitVec 5)
  /-- VADD (R131). Masked integer lane addition. -/
  | vadd (d : BitVec 5) (a : BitVec 5) (b : BitVec 5) (t : BitVec 4) (m : BitVec 4)
  /-- VSUB (R131). Masked integer lane subtraction. -/
  | vsub (d : BitVec 5) (a : BitVec 5) (b : BitVec 5) (t : BitVec 4) (m : BitVec 4)
  /-- VMUL (R131). Masked integer lane multiplication, low bits. -/
  | vmul (d : BitVec 5) (a : BitVec 5) (b : BitVec 5) (t : BitVec 4) (m : BitVec 4)
  /-- VMULH (R131). Masked integer lane multiplication, high bits. -/
  | vmulh (d : BitVec 5) (a : BitVec 5) (b : BitVec 5) (t : BitVec 4) (m : BitVec 4)
  /-- VMIN (R131). Masked integer lane minimum. -/
  | vmin (d : BitVec 5) (a : BitVec 5) (b : BitVec 5) (t : BitVec 4) (m : BitVec 4)
  /-- VMAX (R131). Masked integer lane maximum. -/
  | vmax (d : BitVec 5) (a : BitVec 5) (b : BitVec 5) (t : BitVec 4) (m : BitVec 4)
  /-- VSHL (R131). Masked integer lane left shift. -/
  | vshl (d : BitVec 5) (a : BitVec 5) (b : BitVec 5) (t : BitVec 4) (m : BitVec 4)
  /-- VSHR (R131). Masked integer lane right shift. -/
  | vshr (d : BitVec 5) (a : BitVec 5) (b : BitVec 5) (t : BitVec 4) (m : BitVec 4)
  /-- VFADD (R132). Masked floating lane addition as FADD. -/
  | vfadd (d : BitVec 5) (a : BitVec 5) (b : BitVec 5) (t : BitVec 4) (m : BitVec 4)
  /-- VFSUB (R132). Masked floating lane subtraction as FSUB. -/
  | vfsub (d : BitVec 5) (a : BitVec 5) (b : BitVec 5) (t : BitVec 4) (m : BitVec 4)
  /-- VFMUL (R132). Masked floating lane multiplication as FMUL. -/
  | vfmul (d : BitVec 5) (a : BitVec 5) (b : BitVec 5) (t : BitVec 4) (m : BitVec 4)
  /-- VFMA (R132). Masked fused multiply-add per lane. -/
  | vfma (d : BitVec 5) (a : BitVec 5) (b : BitVec 5) (t : BitVec 4) (m : BitVec 4)
  /-- VFMIN (R132). Masked floating lane minimum as FMIN. -/
  | vfmin (d : BitVec 5) (a : BitVec 5) (b : BitVec 5) (t : BitVec 4) (m : BitVec 4)
  /-- VFMAX (R132). Masked floating lane maximum as FMAX. -/
  | vfmax (d : BitVec 5) (a : BitVec 5) (b : BitVec 5) (t : BitVec 4) (m : BitVec 4)
  /-- VFDIV (R132). Masked floating lane division as FDIV. -/
  | vfdiv (d : BitVec 5) (a : BitVec 5) (b : BitVec 5) (t : BitVec 4) (m : BitVec 4)
  /-- VFSQRT (R132). Masked floating lane square root as FSQRT. -/
  | vfsqrt (d : BitVec 5) (a : BitVec 5) (t : BitVec 4) (m : BitVec 4)
  /-- VLD (R228). Masked contiguous vector load. -/
  | vld (d : BitVec 5) (a : BitVec 5) (t : BitVec 4) (m : BitVec 4)
  /-- VST (R228). Masked contiguous vector store. -/
  | vst (d : BitVec 5) (a : BitVec 5) (t : BitVec 4) (m : BitVec 3)
  /-- VLDS (R228). Masked strided vector load. -/
  | vlds (d : BitVec 5) (a : BitVec 5) (b : BitVec 5) (t : BitVec 4) (m : BitVec 4)
  /-- VSTS (R228). Masked strided vector store. -/
  | vsts (d : BitVec 5) (a : BitVec 5) (b : BitVec 5) (t : BitVec 4) (m : BitVec 3)
  /-- VGATH (R228). Masked indexed vector gather. -/
  | vgath (d : BitVec 5) (a : BitVec 5) (b : BitVec 5) (t : BitVec 4) (m : BitVec 4)
  /-- VSCAT (R228). Masked indexed vector scatter, recording performed lanes in VPROG on a fault. -/
  | vscat (d : BitVec 5) (a : BitVec 5) (b : BitVec 5) (t : BitVec 4) (m : BitVec 3)
  /-- VLDT (R231). Typed vector load converting each element of the pointer's format to the lane type. -/
  | vldt (d : BitVec 5) (a : BitVec 5) (t : BitVec 4) (m : BitVec 4)
  /-- VSTT (R231). Typed vector store converting each lane to the pointer's format. -/
  | vstt (d : BitVec 5) (a : BitVec 5) (t : BitVec 4) (m : BitVec 3)
  /-- VAMO (R228). Per-lane relaxed 8-byte atomics at indexed addresses, returning old values. -/
  | vamo (d : BitVec 5) (a : BitVec 5) (b : BitVec 5) (o : BitVec 4) (m : BitVec 4)
  /-- VCVT (R135). Converts a packed image of format N to wide lanes. -/
  | vcvt (d : BitVec 5) (a : BitVec 5) (n : BitVec 5) (t : BitVec 4) (m : BitVec 4)
  /-- VQMX (R136). MX-quantises all lanes into one block with a scale byte at byte 48. -/
  | vqmx (d : BitVec 5) (a : BitVec 5) (n : BitVec 5) (t : BitVec 4)
  /-- VDQMX (R136). Dequantises an MX block into wide lanes. -/
  | vdqmx (d : BitVec 5) (a : BitVec 5) (n : BitVec 5) (t : BitVec 4) (m : BitVec 4)
  /-- VSEXP (R137). Quantises lanes to format N under a supplied scale. -/
  | vsexp (d : BitVec 5) (a : BitVec 5) (n : BitVec 5) (t : BitVec 4)
  /-- VLUT (R138). Decodes LUT8 codes through a table into wide lanes. -/
  | vlut (d : BitVec 5) (a : BitVec 5) (k : BitVec 2) (t : BitVec 4) (m : BitVec 4)
  /-- VENC (R138). Encodes wide lanes to LUT8 codes by the table search. -/
  | venc (d : BitVec 5) (a : BitVec 5) (k : BitVec 2) (t : BitVec 4)
  /-- VSFU (R140). Computes a special function per active lane within stated bounds. -/
  | vsfu (d : BitVec 5) (a : BitVec 5) (f : BitVec 5) (t : BitVec 4) (m : BitVec 4)
  /-- VRED (R142). Reduces the lanes by the fixed tree into lane 0. -/
  | vred (d : BitVec 5) (a : BitVec 5) (o : BitVec 5) (t : BitVec 4) (m : BitVec 3)
  /-- VPERM (R143). Permutes lanes of va by indices in vb. -/
  | vperm (d : BitVec 5) (a : BitVec 5) (b : BitVec 5) (t : BitVec 4) (m : BitVec 4)
  /-- VBCAST (R143). Broadcasts a general register into active lanes. -/
  | vbcast (d : BitVec 5) (a : BitVec 5) (t : BitVec 4) (m : BitVec 4)
  /-- VEXT (R143). Extracts one lane into a general register. -/
  | vext (d : BitVec 5) (a : BitVec 5) (b : BitVec 5) (t : BitVec 4)
  /-- VINS (R143). Inserts a general register into one lane. -/
  | vins (d : BitVec 5) (a : BitVec 5) (b : BitVec 5) (t : BitVec 4)
  /-- VHASH (R143). Mixes lanes of va and vb by the multiplicative hash. -/
  | vhash (d : BitVec 5) (a : BitVec 5) (b : BitVec 5) (t : BitVec 4) (m : BitVec 4)
  /-- VPOPC (R143). Counts one bits per lane. -/
  | vpopc (d : BitVec 5) (a : BitVec 5) (t : BitVec 4) (m : BitVec 4)
  /-- VCMP (R144). Compares lanes under EQ, NE, LT or LE and writes a destination mask. -/
  | vcmp (d : BitVec 3) (a : BitVec 5) (b : BitVec 5) (t : BitVec 4) (m : BitVec 4) (c : BitVec 2)
  /-- VAND (R145). Byte-masked bitwise AND of two vectors. -/
  | vand (d : BitVec 5) (a : BitVec 5) (b : BitVec 5) (m : BitVec 4)
  /-- VOR (R145). Byte-masked bitwise OR of two vectors. -/
  | vor (d : BitVec 5) (a : BitVec 5) (b : BitVec 5) (m : BitVec 4)
  /-- VXOR (R145). Byte-masked bitwise XOR of two vectors. -/
  | vxor (d : BitVec 5) (a : BitVec 5) (b : BitVec 5) (m : BitVec 4)
  /-- VANDN (R145). Byte-masked AND NOT of two vectors. -/
  | vandn (d : BitVec 5) (a : BitVec 5) (b : BitVec 5) (m : BitVec 4)
  /-- MAND (R145). AND of two mask registers. -/
  | mand (d : BitVec 3) (a : BitVec 3) (b : BitVec 3)
  /-- MOR (R145). OR of two mask registers. -/
  | mor (d : BitVec 3) (a : BitVec 3) (b : BitVec 3)
  /-- MXOR (R145). XOR of two mask registers. -/
  | mxor (d : BitVec 3) (a : BitVec 3) (b : BitVec 3)
  /-- MANDN (R145). AND NOT of two mask registers. -/
  | mandn (d : BitVec 3) (a : BitVec 3) (b : BitVec 3)
  /-- TIS (R147). Validates a pool template, patches its addresses, takes tile ownership and queues it to the tile or copy queue. -/
  | tis (d : BitVec 5) (a : BitVec 5) (b : BitVec 5) (i : BitVec 11)
  /-- TWAIT (R165). Parks until the process's commands naming masked tiles, or all its commands, have completed. -/
  | twait (m : BitVec 8)
  /-- TSTAT (R166). Writes the process's view of both engine queues. -/
  | tstat (d : BitVec 5)
  /-- SETLUT (R139). Loads a LUT8 table whole from 1,024 bytes of own scratchpad. -/
  | setlut (a : BitVec 5) (t : BitVec 2)
  /-- OUT (R287). Offers a word on a rendezvous or port-bound channel and parks until the ACK. -/
  | outWord (a : BitVec 5) (b : BitVec 5)
  /-- IN (R287). Takes an offered word or parks until one arrives. -/
  | inWord (d : BitVec 5) (a : BitVec 5)
  /-- OUTB (R288). Offers a block from the sender's scratchpad for a single rendezvous transfer. -/
  | outBlock (d : BitVec 5) (a : BitVec 5) (b : BitVec 5)
  /-- INB (R288). Receives a block into the receiver's scratchpad and writes its length. -/
  | inBlock (d : BitVec 5) (a : BitVec 5) (b : BitVec 5)
  /-- CHNEW (R289). Creates an endpoint in the lowest free entry and returns its handle. -/
  | chnew (d : BitVec 5) (a : BitVec 5) (b : BitVec 5)
  /-- CHBIND (R290). Binds an own endpoint to a peer handle by a BIND request. -/
  | chbind (d : BitVec 5) (a : BitVec 5) (b : BitVec 5)
  /-- CHFREE (R291). Frees an own endpoint, stopping waiters with CHLINK and unbinding the peer. -/
  | chfree (a : BitVec 5)
  /-- CHSTAT (R292). Reads a snapshot word of any endpoint by selector. -/
  | chstat (d : BitVec 5) (a : BitVec 5) (b : BitVec 5)
  /-- CHSYNC (R293). Restores a DESYNC channel once both ends have run it. -/
  | chsync (d : BitVec 5) (a : BitVec 5)
  /-- TKT (R294). Takes the next ticket of an ANY channel. -/
  | tkt (d : BitVec 5) (a : BitVec 5)
  /-- TKTW (R294). Waits until a ticket has been called. -/
  | tktw (a : BitVec 5) (b : BitVec 5)
  /-- ALTS (R299). Opens an ALT construction, zeroing COUNT and setting INALT. -/
  | alts (a : BitVec 5)
  /-- ALTG (R299). Appends a channel guard. -/
  | altg (a : BitVec 5) (b : BitVec 5)
  /-- ALTT (R299). Appends a deadline guard. -/
  | altt (a : BitVec 5) (b : BitVec 5)
  /-- ALTW (R300). Scans guards from 0 and selects the lowest ready, parking if none is ready. -/
  | altw (d : BitVec 5) (a : BitVec 5)
  /-- ALTW_F (R300). Scans guards from a given index with wrap and selects the first ready. -/
  | altwF (d : BitVec 5) (a : BitVec 5) (b : BitVec 5)
  /-- CLAIM (R296). Reserves n ring granules or waits by the endpoint's form. -/
  | claim (d : BitVec 5) (a : BitVec 5) (b : BitVec 5) (p : BitVec 3)
  /-- CLAIM_NB (R296). Non-blocking CLAIM that sets a predicate to 0 when space is lacking. -/
  | claimNb (d : BitVec 5) (a : BitVec 5) (b : BitVec 5) (p : BitVec 3)
  /-- COMMIT (R297). Sends n reserved granules and a COMMIT message. -/
  | commit (d : BitVec 5) (a : BitVec 5) (b : BitVec 5)
  /-- AWAIT (R296). Returns the ring index when n granules are committed or waits. -/
  | await (d : BitVec 5) (a : BitVec 5) (b : BitVec 5) (p : BitVec 3)
  /-- AWAIT_NB (R296). Non-blocking AWAIT that sets a predicate to 0 when data is lacking. -/
  | awaitNb (d : BitVec 5) (a : BitVec 5) (b : BitVec 5) (p : BitVec 3)
  /-- RETIRE (R297). Advances HEAD by n and sends RETURN, advancing CALLED on ANY channels. -/
  | retire (a : BitVec 5) (b : BitVec 5)
  /-- SPAWN (R303). Creates a process by placement word, or sends a device launch for KIND 5. -/
  | spawn (d : BitVec 5) (a : BitVec 5) (b : BitVec 5)
  /-- STOP (R304). Ends the process once its engine commands have drained. -/
  | stop
  /-- YIELD (R304). Moves the process to the tail of its level and resets USED. -/
  | yield
  /-- SETPRI (R305). Sets the ready-queue level of a process. -/
  | setpri (a : BitVec 5) (b : BitVec 5)
  /-- SLEEP (R304). Parks until the time base reaches a deadline. -/
  | sleep (a : BitVec 5)
  /-- TIME (R304). Reads the time base. -/
  | time (d : BitVec 5)
  /-- MIGR (R306). Migrates a light process to the core owning an address. -/
  | migr (a : BitVec 5)
  /-- MIGB (R250). Migrates a light process to the least-loaded core of its cluster. -/
  | migb
  /-- QMAP_PUSH (R307). Binds port qi in push mode to a same-core sending end. -/
  | qmapPush (a : BitVec 5) (i : BitVec 3)
  /-- QMAP_POP (R307). Binds port qi in pop mode to a same-core receiving end. -/
  | qmapPop (a : BitVec 5) (i : BitVec 3)
  /-- QMAP_OFF (R307). Unbinds port qi. -/
  | qmapOff (i : BitVec 3)
  /-- RESUME (R309). Restarts a stopped process with a PSTAT image. -/
  | resume (d : BitVec 5) (a : BitVec 5) (b : BitVec 5)
  /-- PEEKC (R310). Reads one word of a process's record, extension or accumulator. -/
  | peekc (d : BitVec 5) (a : BitVec 5) (b : BitVec 5)
  /-- POKEC (R310). Writes one word of a stopped process's state. -/
  | pokec (d : BitVec 5) (a : BitVec 5) (b : BitVec 5)
  /-- KILL (R311). Ends a target process, withdrawing its waits. -/
  | kill (d : BitVec 5) (a : BitVec 5)
  /-- TRAP (R312). Stops the process with SWTRAP n. -/
  | trap (n : BitVec 8)
  /-- STEP (R236). Drains at podstep class, arrives at the calends and parks until the release. -/
  | step (d : BitVec 5)
  /-- STEPN (R236). Drains, arrives and leaves enrolment without parking. -/
  | stepn (d : BitVec 5)
  /-- BARI (R235). Initialises a barrier's EXPECT, ARRIVED and PENDING. -/
  | bari (a : BitVec 5) (b : BitVec 5)
  /-- BARA (R235). Arrives at a barrier as a release and evaluates the phase flip. -/
  | bara (d : BitVec 5) (a : BitVec 5)
  /-- BARX (R235). Adds expected bytes to PENDING and evaluates the phase flip. -/
  | barx (a : BitVec 5) (b : BitVec 5)
  /-- BARW (R235). Parks while the barrier's PHASE equals the given bit. -/
  | barw (a : BitVec 5) (b : BitVec 5)
  /-- DEPDEC (R313). Decrements a launch's dependence count, making it eligible at zero. -/
  | depdec (d : BitVec 5) (a : BitVec 5)
  /-- ALMREC (R266). Opens an almanac recording for a tape ID. -/
  | almrec (a : BitVec 5)
  /-- ALMSLOT (R267). Declares a patch slot's address range. -/
  | almslot (a : BitVec 5) (b : BitVec 5) (s : BitVec 4)
  /-- ALMGRD (R268). Appends a guard value to the recording. -/
  | almgrd (a : BitVec 5)
  /-- ALMEND (R269). Ends the recording and returns its status. -/
  | almend (d : BitVec 5)
  /-- ALMPLAY (R315). Reads an argument block and hands a tape replay to the sequencer, parking with WAITK 12. -/
  | almplay (d : BitVec 5) (a : BitVec 5) (b : BitVec 5)
  /-- ALMINV (R314). Invalidates a tape of the issuer's domain and cluster. -/
  | alminv (a : BitVec 5)
  /-- ALMQ (R274). Returns the directory word of a tape ID. -/
  | almq (d : BitVec 5) (a : BitVec 5)
  /-- GETS (R351). Reads a state register by number. -/
  | gets (d : BitVec 5) (n : BitVec 12)
  /-- SETS (R351). Writes a state register subject to rights and discard rules. -/
  | sets (a : BitVec 5) (n : BitVec 12)
  /-- TLBINV (R351). Removes translations by span and optionally delivers a pager REPLAY or FAIL. -/
  | tlbinv (d : BitVec 5) (a : BitVec 5) (r : BitVec 2) (s : BitVec 2)
  /-- KEYSET (R348). Loads a memory key slot with key material and an owner domain. -/
  | keyset (d : BitVec 5) (a : BitVec 5)
  /-- KEYSET_CLR (R348). Empties a memory key slot. -/
  | keysetClr (d : BitVec 5)
  /-- CFLUSH (R238). Writes back and invalidates cluster-cache lines of a line, page or all. -/
  | cflush (a : BitVec 5) (r : BitVec 2)
  /-- CINV (R238). Invalidates cluster-cache lines without write-back. -/
  | cinv (a : BitVec 5) (r : BitVec 2)
  /-- NOP (R351). Has no effect. -/
  | nop
  /-- BREAK (R351). Stops the process with BREAK at its own address. -/
  | break
  /-- UNASSIGNED_ENCODING (R67). A fetched word that matches no assigned encoding traps ILLOP with detail 0x0 at its own address. -/
  | unassignedEncoding (word : IWord)
  /-- FETCH_FAULT (R111). An instruction fetch without execute right, of another class, or of a poisoned word traps at the fetched address with no instruction decoded. -/
  | fetchFault (cause : Nat)
  /-- TNOP (R155). Tile command that holds its queue position and may delay later tile commands. -/
  | tnop (c : CoreId)
  /-- TZ (R155). Clears an accumulator tile and its poison. -/
  | tz (c : CoreId)
  /-- TMMA (R156). Dense matrix multiply-accumulate into a tile in the fixed chunk order. -/
  | tmma (c : CoreId)
  /-- TSMMA (R153). Sparse matrix multiply-accumulate after decompressing A by its metadata. -/
  | tsmma (c : CoreId)
  /-- TLDACC (R157). Loads an accumulator tile from memory, converting to FP32. -/
  | tldacc (c : CoreId)
  /-- TST (R157). Stores an accumulator tile to memory, converting or MX-quantising. -/
  | tst (c : CoreId)
  /-- TEW (R158). Applies scale, bias and an elementwise function to a tile. -/
  | tew (c : CoreId)
  /-- TRED (R159). Reduces a tile by rows or columns into one output row. -/
  | tred (c : CoreId)
  /-- TMOV (R155). Copies or transposes a tile into a destination tile. -/
  | tmov (c : CoreId)
  /-- CPL (R160). Linear byte copy, crediting a barrier at completion when ADDRS is set. -/
  | cpl (c : CoreId)
  /-- CP2D (R160). Two-dimensional strided byte copy. -/
  | cp2d (c : CoreId)
  /-- CPG (R160). Indexed gather copy by a descriptor of indices. -/
  | cpg (c : CoreId)
  /-- STORE_PERFORM (R173). A queued store passes the ordering point and is performed at its home or accepted by the step unit. -/
  | storePerform (c : CoreId) (n : Nat) (passOnly : Bool)
  /-- MEMORY_REPLY (R246). A reply, drain end or read completion arrives and completes the waiting instruction, waking its process. -/
  | memoryReply (k : Slot) (v : Word) (err : Bool)
  /-- MEMORY_WAIT_PARK (R246). A wait on a reply that lasts 16 cycles parks the process with WAITK 13. -/
  | memoryWaitPark (c : CoreId)
  /-- DISPATCH (R241). The core chooses a ready process and switches to it. -/
  | dispatch (c : CoreId)
  /-- PREEMPT (R241). A higher-ranked resident ready process pre-empts the running one at an instruction boundary. -/
  | preempt (c : CoreId)
  /-- SLICE_EXPIRY (R242). A level-2 or level-3 slice expires and the process yields at its next safe point, accruing DEBT. -/
  | sliceExpiry (c : CoreId)
  /-- BUDGET_EXHAUSTED (R243). USED reaches LIMIT at level 0 or 1 and the process traps BUDGET. -/
  | budgetExhausted (c : CoreId)
  /-- CONTEXT_SPILL (R244). A spill of a victim context to the context area completes. -/
  | contextSpill (c : CoreId)
  /-- CONTEXT_FILL (R244). A fill of a context from the context area or arrival queue completes. -/
  | contextFill (c : CoreId)
  /-- ARRIVAL_WRITE (R249). An arrival-queue entry is written to its record and becomes ready. -/
  | arrivalWrite (c : CoreId)
  /-- MIGRATION_ARRIVAL (R248). A migrating context message reaches its destination, which accepts or refuses it. -/
  | migrationArrival (n : Nat)
  /-- ACCEPT (R248). The destination's acceptance frees the source slot. -/
  | accept (n : Nat)
  /-- REFUSE (R248). A refusal leaves the sender parked and lists it for SPACE. -/
  | refuse (n : Nat)
  /-- SPACE (R248). A freed light slot calls the oldest refused origin to resend. -/
  | space (n : Nat)
  /-- MIGRATION_RESEND (R248). A refused sender not listed resends after 1,024 cycles. -/
  | migrationResend (k : Slot)
  /-- LOADREG_REFRESH (R40). The cluster refreshes all LOADREG fields every 64 cycles. -/
  | loadregRefresh (cl : Nat)
  /-- HEARTBEAT_TICK (R40). The package heartbeat advances every 512 cycles. -/
  | heartbeatTick (p : Nat)
  /-- DEADLINE_REACHED (R252). The time base reaches a SLEEP, WAITA, guard or bounded-wait deadline. -/
  | deadlineReached (k : Slot)
  /-- OFFER (R253). A rendezvous offer reaches the receiving endpoint and is stored or handed over. -/
  | offer (n : Nat)
  /-- ACK (R253). The rendezvous acknowledgement wakes the sender. -/
  | ack (n : Nat)
  /-- BLOCK_TRANSFER_DONE (R253). The last byte of a rendezvous block lands and the receiver is woken. -/
  | blockTransferDone (n : Nat)
  /-- WITHDRAW (R254). A withdrawal removes a departed party's offer or wait from an endpoint. -/
  | withdraw (n : Nat)
  /-- BIND (R290). A BIND request is resolved at the peer's home. -/
  | bind (n : Nat)
  /-- BIND_REPLY (R290). The bind result returns to the issuer of CHBIND. -/
  | bindReply (n : Nat)
  /-- COMMIT_MESSAGE (R255). A COMMIT count message is checked at the consumer and advances TAIL. -/
  | commitMessage (n : Nat)
  /-- RETURN_MESSAGE (R255). A RETURN count message is checked at the producer and advances HEAD. -/
  | returnMessage (n : Nat)
  /-- DESYNC (R256). A DESYNC message puts the peer endpoint into DESYNC. -/
  | desync (n : Nat)
  /-- CHSYNC_ARRIVAL (R293). The peer's CHSYNC arrives and both ends restore together. -/
  | chsyncArrival (n : Nat)
  /-- TIMEOUT (R257). A bounded CLAIM or AWAIT exceeds TLIMIT and traps TIMEOUT. -/
  | timeout (k : Slot)
  /-- PEER_UNREACHABLE (R375). A peer becomes unreachable and parked processes stop with CHLINK. -/
  | peerUnreachable (e : EpId) (reason : Nat)
  /-- PROBE_ORIGINATE (R260). A process parked DLPROBE.INTERVAL cycles originates a probe wave. -/
  | probeOriginate (k : Slot)
  /-- PROBE (R261). A deadlock probe reaches a process, which engages, echoes, replaces or drops it. -/
  | probe (n : Nat)
  /-- ECHO (R261). An echo decrements the outstanding count and may return or trap DEADLOCK at the origin. -/
  | echo (n : Nat)
  /-- ENGAGEMENT_EXPIRY (R261). An engagement INTERVAL cycles old is dropped. -/
  | engagementExpiry (k : Slot)
  /-- HANG_REPORT (R262). VIGIL.COUNT reaches a multiple of INTERVAL and a hang report is sent. -/
  | hangReport (cl : Nat)
  /-- TRAP_RECORD (R366). A record takes a ticket, waits for its call and commits one slot at SUPEP or the monitor. -/
  | trapRecord (c : CoreId)
  /-- TRANSLATION_WALK (R344). A translation-cache miss walks the tables, filling a leaf or queuing or merging a fault entry. -/
  | translationWalk (c : CoreId) (dom : Nat) (va : Word)
  /-- FAULT_ENTRY_SEND (R345). A fault entry whose ticket is called is committed to the pager or rerouted to the monitor. -/
  | faultEntrySend (p : Nat) (base : Nat) (i : Nat)
  /-- REPLAY_CHECK (R276). The sequencer checks a replay and accepts or returns a status. -/
  | replayCheck (c : CoreId)
  /-- REPLAY_STREAM (R277). The sequencer processes the next tape entry, patching and queuing commands. -/
  | replayStream (c : CoreId)
  /-- REPLAY_DRAIN_END (R277). Earlier replayed commands complete and streaming passes a wait mark or ends. -/
  | replayDrainEnd (c : CoreId)
  /-- STEP_SEAL (R193). A closed step is sealed once every contribution is accepted, and ARRIVE is sent. -/
  | stepSeal (p : Nat)
  /-- ARRIVE (R203). A member's ARRIVE reaches the root, which sends CALL and starts STEPLIM. -/
  | arrive (n : Nat)
  /-- CALL (R203). CALL reaches a member, which arrives at once when no process is enrolled. -/
  | call (n : Nat)
  /-- STEPLIM_EXPIRY (R207). The root's STEPLIM timer expires and STEPLATE records are sent for late members. -/
  | steplimExpiry (p : Nat)
  /-- ENTRY_STREAM (R204). A window of sealed entries reaches a home unit, which applies passed granules. -/
  | entryStream (n : Nat)
  /-- STREAM_DONE (R204). A sender's DONE ends its stream at a home unit. -/
  | streamDone (n : Nat)
  /-- APPLIED (R203). An APPLIED message from a tree child is counted by its parent. -/
  | applied (n : Nat)
  /-- RELEASE (R203). RELEASE frees entries, increments STEPNO, wakes STEP waiters and is forwarded. -/
  | release (n : Nat)
  /-- LAUNCH_WINDOW_WRITE (R322). A 64-byte host write to a launch window is checked and accepted or rejected. -/
  | launchWindowWrite (p : Nat) (port : Nat) (q : Nat) (aligned : Bool) (img : BitVec 512)
  /-- DEPDEC_WRITE (R324). A host write of a launch identity decrements its dependence count. -/
  | depdecWrite (p : Nat) (port : Nat) (q : Nat) (v : Word)
  /-- CANCEL_WRITE (R332). A write of a launch identity to CANCEL cancels a pending launch. -/
  | cancelWrite (p : Nat) (port : Nat) (q : Nat) (v : Word)
  /-- QCTL_WRITE (R321). A QCTL write is applied or discarded while launches are pending. -/
  | qctlWrite (p : Nat) (port : Nat) (q : Nat) (v : Word)
  /-- SLOT_REPORT (R326). Each cluster reports free slots to its distributor every 256 cycles. -/
  | slotReport (p : Nat) (base : Nat)
  /-- SLOT_REPORT_FORWARD (R326). A non-master distributor's forwarded totals reach the master. -/
  | slotReportForward (n : Nat)
  /-- MIRROR_WRITE (R329). The master's launch state is written to the mirror distributor. -/
  | mirrorWrite (p : Nat)
  /-- MIRROR_ACK (R329). The mirror acknowledges and the master sends the chunk. -/
  | mirrorAck (n : Nat)
  /-- CHUNK (R326). A chunk reaches its core, which creates its processes whole or refuses it. -/
  | chunk (n : Nat)
  /-- CHUNK_REFUSED (R326). A refusal returns the chunk to the head of its launch at the master. -/
  | chunkRefused (n : Nat)
  /-- CHUNK_REPORT (R327). A chunk report reaches the master, which may complete the launch. -/
  | chunkReport (n : Nat)
  /-- CHUNK_REPORT_RESEND (R327). An unacknowledged chunk report is resent every 10 µs. -/
  | chunkReportResend (c : CoreId) (i : Nat)
  /-- COUNT_INCREMENT (R328). A chunk LIVE increment reaches the home and is acknowledged. -/
  | countIncrement (n : Nat)
  /-- COUNT_DECREMENT (R328). A chunk LIVE decrement reaches the home, which reports at zero. -/
  | countDecrement (n : Nat)
  /-- COMPLETION_SEND (R418). The master commits a completion message to COMPL or reroutes it to the monitor. -/
  | completionSend (p : Nat)
  /-- MASTER_FAILOVER (R331). 10 µs after the master's base die is fenced, the lowest surviving distributor becomes master. -/
  | masterFailover (p : Nat)
  /-- JOB_CANCEL (R333). CANCEL at a core marks the job, kills its processes and reports. -/
  | jobCancel (n : Nat)
  /-- CANCEL_ACK (R333). A core's cancel acknowledgement reaches the master. -/
  | cancelAck (n : Nat)
  /-- DRAIN (R334). DRAIN at a core awaits the job's outstanding spawn and migration answers. -/
  | drain (n : Nat)
  /-- DRAINED (R334). DRAINED reaches the master, which sends CANCELLED after the last. -/
  | drained (n : Nat)
  /-- SEM_READ (R358). A semaphore read returns its value and acquires it when free. -/
  | semRead (p : Nat) (who : Nat) (i : Nat)
  /-- SEM_WRITE (R358). An owner's write of 0 releases the semaphore and raises MSI-X; other writes are refused. -/
  | semWrite (p : Nat) (who : Nat) (i : Nat) (v : Word)
  /-- CDOM_WRITE (R338). A CDOM write reassigns a core and starts its clearing sequence. -/
  | cdomWrite (c : CoreId) (v : Word)
  /-- CDOM_CLEAR_DONE (R338). The reassignment clearing ends, DOMAIN takes its value and BUSY clears. -/
  | cdomClearDone (c : CoreId)
  /-- WINDOW_WRITE (R339). A common-store window write is applied with clearing, or discarded. -/
  | windowWrite (p : Nat) (die : Nat) (w : Nat) (v : Word)
  /-- DESCRIPTOR_WRITE (R337). A domain descriptor word write is applied or discarded. -/
  | descriptorWrite (p : Nat) (dom : Nat) (i : Nat) (v : Word)
  /-- HOST_ENDPOINT_WRITE (R360). A host endpoint table write binds or unbinds a MODE 3 endpoint. -/
  | hostEndpointWrite (p : Nat) (j : Nat) (i : Nat) (v : Word)
  /-- HOSTIDX_WRITE (R360). A host write of HOSTIDX is taken as a COMMIT or RETURN. -/
  | hostidxWrite (p : Nat) (j : Nat) (v : Word)
  /-- PKGEVT_CLEAR (R23). A host clears THERMTRIP and the package leaves the thermal reset. -/
  | pkgevtClear (p : Nat) (v : Word)
  /-- STEPCTL_WRITE (R208). A STEPCTL write takes effect at the next OPEN state. -/
  | stepctlWrite (p : Nat) (v : Word)
  /-- STEPOVF_WRITE (R208). A STEPOVF write is applied or discarded. -/
  | stepovfWrite (p : Nat) (v : Word)
  /-- REGISTER_WRITE (R356). A host write to a shared-map register with no behaviour of its own. -/
  | registerWrite (p : Nat) (port : Nat) (off : Nat) (v : Word)
  /-- ATTESTATION (R361). Mailbox command 1 starts an attestation report over the nonce. -/
  | attestation (p : Nat) (port : Nat)
  /-- ATTESTATION_COMPLETE (R361). The signed report is ready and STATUS.DONE is set. -/
  | attestationComplete (p : Nat) (port : Nat)
  /-- CONFIGURATION (R386). Mailbox command 2 takes or refuses the bring-up configuration. -/
  | configuration (p : Nat) (port : Nat)
  /-- BEGIN_IMAGE (R363). Mailbox command 3 opens a firmware upload in recovery. -/
  | beginImage (p : Nat) (port : Nat)
  /-- IMAGE_BLOCK (R363). Mailbox command 4 copies one 256-byte image block. -/
  | imageBlock (p : Nat) (port : Nat)
  /-- END_IMAGE (R363). Mailbox command 5 starts verification of the uploaded image. -/
  | endImage (p : Nat) (port : Nat)
  /-- IMAGE_VERIFY_COMPLETE (R362). Verification ends, storing the image and continuing bring-up, or refusing it. -/
  | imageVerifyComplete (p : Nat)
  /-- UNKNOWN_COMMAND (R363). Any other mailbox command is refused with detail 7. -/
  | unknownCommand (p : Nat) (port : Nat) (v : Word)
  /-- HOST_MEMORY_WRITE (R187). A host posted write to package memory is performed at its home. -/
  | hostMemoryWrite (p : Nat) (port : Nat) (loc : Nat) (n : Nat) (mode : Nat) (key : Nat) (v : Word)
  /-- HOST_MEMORY_READ (R187). A host read of package memory returns a completion. -/
  | hostMemoryRead (p : Nat) (port : Nat) (loc : Nat) (n : Nat) (mode : Nat) (key : Nat)
  /-- PCIE_LINK_DOWN (R358). A port's link leaves L0, releasing its semaphores and discarding its upload. -/
  | pcieLinkDown (p : Nat) (port : Nat)
  /-- PACKAGE_RESET (R385). Power-on or reset starts bring-up and clears state by R48. -/
  | packageReset (p : Nat)
  /-- BRINGUP_PHASE_TIMEOUT (R385). A bring-up phase exceeds its bound and fails with its stated outcome. -/
  | bringupPhaseTimeout (p : Nat) (unit : Nat)
  /-- POD_FORMATION (R387). The root completes time-base synchronisation with every member and STEPNO reads 0. -/
  | podFormation
  /-- THERMAL_THROTTLE (R22). A cluster sensor above 95 °C throttles its tile units. -/
  | thermalThrottle (cl : Nat) (temp : Nat)
  /-- THERMAL_UNTHROTTLE (R22). A sensor at or below 90 °C ends throttling. -/
  | thermalUnthrottle (cl : Nat) (temp : Nat)
  /-- THERMAL_TRIP (R23). A sensor at 110 °C stops all issue and holds the package in reset. -/
  | thermalTrip (cl : Nat) (temp : Nat)
  /-- LINK_CRC_FAIL (R370). A die-to-die flit fails its CRC and the sender replays from it. -/
  | linkCrcFail (p : Nat) (link : Nat)
  /-- DELAN_FRAME (R371). A Delan frame is received, corrected or replayed go-back-N. -/
  | delanFrame (p : Nat) (link : Nat) (bad : Bool)
  /-- LINK_RETRAIN (R372). Loss of lock or four replays starts a link retrain. -/
  | linkRetrain (p : Nat) (link : Nat)
  /-- RETRAIN_COMPLETE (R372). A retrain ends, restoring the link or, after three failures, taking it down. -/
  | retrainComplete (p : Nat) (link : Nat) (ok : Bool) (us : Nat)
  /-- PACKAGE_UNREACHABLE (R373). A package the root cannot reach for 10 ms is withdrawn. -/
  | packageUnreachable (p : Nat)
  /-- CORRECTED_ERROR (R368). A single-bit error is corrected and an event is sent to the monitor. -/
  | correctedError (p : Nat) (unit : Nat) (loc : Word)
  /-- UNCORRECTABLE_ERROR (R368). An uncorrectable error poisons data or takes the outcome stated for its place. -/
  | uncorrectableError (p : Nat) (place : ErrPlace)
  /-- PATROL_SCRUB (R369). The scrubber reads a granule or line, correcting or poisoning it. -/
  | patrolScrub (p : Nat) (unit : Nat) (loc : Nat) (bad : ScrubFinding)
  /-- DIE_FENCE (R381). A compute die is fenced, losing its processes and state and reissuing its chunks. -/
  | dieFence (p : Nat) (die : Nat) (reason : Nat)
  /-- BASE_DIE_FENCE (R383). A base die is fenced, fencing its compute dies, stacks and units. -/
  | baseDieFence (p : Nat) (base : Nat) (reason : Nat)
  /-- REMOTE_OPERATION (R303). A remote SPAWN, SUPV operation, CHSTAT, TKT or endpoint lookup arrives at the target core, which acts on it and replies. -/
  | remoteOperation (n : Nat)
  /-- REMOTE_OPERATION_REPLY (R308). The reply of a remote SPAWN, SUPV, CHSTAT or TKT round trip reaches the issuer, writes g[d] and wakes it from WAITK 14 or 1. -/
  | remoteOperationReply (n : Nat)
  /-- MAINTENANCE_COMPLETE (R238). A KEYSET, TLBINV, CFLUSH or CINV finishes its package-wide work and wakes its process from WAITK 14. -/
  | maintenanceComplete (k : Slot)
  /-- DEVICE_LAUNCH (R323). A device launch message sent by SPAWN KIND 5 reaches the master distributor, which takes a device-table entry or refuses it and replies with the identity. -/
  | deviceLaunch (n : Nat)
  /-- BRINGUP_PHASE_COMPLETE (R385). A bring-up phase's work ends, with success or a failed attempt, and the package moves to the next phase or its failure outcome; phase 6 starts the package monitor. -/
  | bringupPhaseComplete (p : Nat) (unit : Nat) (ok : Bool)
  /-- WINDOW_CLEAR_DONE (R339). The clearing of an accepted window write ends, the new window comes into force and the write completes. -/
  | windowClearDone (p : Nat) (die : Nat)
  /-- PCIE_LINK_UP (R357). A host port's link enters L0 and PSTS.LINKUP becomes 1. -/
  | pcieLinkUp (p : Nat) (port : Nat)
  /-- POSTED_WRITE_FAILURE (R216). A posted write from the package fails at its port and is counted in PSTS.WRERR without a trap. -/
  | postedWriteFailure (p : Nat) (port : Nat)
  /-- HBM_REFRESH_POWER_LOSS (R23). HBM refresh power fails while the package is held in thermal reset, and HBM contents are lost. -/
  | hbmRefreshPowerLoss (p : Nat)
deriving DecidableEq, Repr

end Sys2Proof
end

