-- ==== Sys2Proof/WellFormed.lean ====
section
/-! DEFINITION. Sys2Proof/WellFormed.lean: which instructions have a word of their own. The fields of an instruction
word can hold values the specification leaves unassigned: a scope code, a type code, a format code, a selector. Such a
word is not an instruction (R67). -/

namespace Sys2Proof

/-- A scope code is assigned when it is below 12 (R60, R178). -/
def scopeOk (c : BitVec 4) : Bool := c.toNat < 12

/-- The width in bits of a lane of the VR type code `t` (R65, R127). -/
def laneBits (t : Nat) : Nat :=
  match t with
  | 0 | 11 | 15 => 64
  | 1 | 10 | 14 => 32
  | 2 | 3 | 9 | 13 => 16
  | _ => 8

/-- The width in bits of an element of format code `f`: Width of R123. -/
def widthOfCode (f : Nat) : Nat :=
  match f with
  | 1 => 64
  | 2 | 14 => 32
  | 3 | 4 | 15 => 16
  | 7 | 8 => 6
  | 9 | 11 => 4
  | _ => 8

/-- The integer type codes of VINT: 8 to 15 (R66). -/
def intType (t : BitVec 4) : Bool := 8 ≤ t.toNat

/-- The floating type codes: 0 to 3 (R66). -/
def floatType (t : BitVec 4) : Bool := t.toNat ≤ 3

/-- The other format of VCVT: codes 1 to 11 and 13 to 16, no wider than the lane (R134). -/
def vcvtOk (n : BitVec 5) (t : BitVec 4) : Bool :=
  floatType t && 1 ≤ n.toNat && n.toNat ≤ 16 && n.toNat ≠ 12 && widthOfCode n.toNat ≤ laneBits t.toNat

/-- The other format of VSEXP: codes 1 to 11 and 14 to 16, no wider than the lane (R134). -/
def vsexpOk (n : BitVec 5) (t : BitVec 4) : Bool := vcvtOk n t && n.toNat ≠ 13

/-- The formats of VQMX and VDQMX: a narrow format from or to .f32, .bf16 or .f16 (R134). -/
def mxOk (n : BitVec 5) (t : BitVec 4) : Bool :=
  floatType t && t.toNat ≠ 0 && 5 ≤ n.toNat && n.toNat ≤ 9

/-- VHASH is legal for 32-bit and 64-bit lanes only (R143). -/
def hashType (t : BitVec 4) : Bool := t.toNat = 10 || t.toNat = 11 || t.toNat = 14 || t.toNat = 15

/-- Whether every selector of an instruction is assigned (R55 to R66). Events carry no encoding, and every value of
their data is well formed. -/
def Instr.wellFormed : Instr → Bool
  | .sext _ _ w | .zext _ _ w => w.toNat ≠ 3
  | .cmp _ _ _ c => c.toNat ≤ 10
  | .lda _ _ _ c _ | .stl _ _ _ c _ => scopeOk c
  | .amoAdd _ _ _ _ c _ | .amoAnd _ _ _ _ c _ | .amoOr _ _ _ _ c _ | .amoXor _ _ _ _ c _
  | .amoMin _ _ _ _ c _ | .amoMax _ _ _ _ c _ | .amoMinz _ _ _ _ c _ | .amoMaxz _ _ _ _ c _
  | .amoSwap _ _ _ _ c _ | .amoFadd _ _ _ _ c _ | .ordadd _ _ _ _ c _ | .cas _ _ _ _ c _ => scopeOk c
  | .fence c _ => scopeOk c
  | .vadd _ _ _ t _ | .vsub _ _ _ t _ | .vmul _ _ _ t _ | .vmulh _ _ _ t _
  | .vmin _ _ _ t _ | .vmax _ _ _ t _ | .vshl _ _ _ t _ | .vshr _ _ _ t _ => intType t
  | .vfadd _ _ _ t _ | .vfsub _ _ _ t _ | .vfmul _ _ _ t _ | .vfma _ _ _ t _
  | .vfmin _ _ _ t _ | .vfmax _ _ _ t _ | .vfdiv _ _ _ t _ => floatType t
  | .vfsqrt _ _ t _ => floatType t
  | .vamo _ _ _ o _ => o.toNat ≤ 8
  | .vcvt _ _ n t _ => vcvtOk n t
  | .vqmx _ _ n t => mxOk n t
  | .vdqmx _ _ n t _ => mxOk n t
  | .vsexp _ _ n t => vsexpOk n t
  | .vlut _ _ _ t _ => floatType t
  | .venc _ _ _ t => floatType t
  | .vsfu _ _ f t _ => floatType t && f.toNat ≤ 7
  | .vred _ _ o t _ => (floatType t || intType t) && o.toNat ≤ 2
  | .vhash _ _ _ t _ => hashType t
  | .almslot _ _ s => s.toNat ≠ 0
  | .tlbinv _ _ r s => r.toNat ≠ 3 && s.toNat ≠ 3
  | .cflush _ r | .cinv _ r => r.toNat ≠ 3
  | _ => true

end Sys2Proof
end

