-- ==== Sys2Proof/Decode.lean ====
section
/-! DEFINITION. Sys2Proof/Decode.lean: from instruction words to instructions, rejecting by name, and back (R51 to
R69). A word that matches no assigned encoding, has a nonzero reserved field or an unassigned selector, is not an
instruction (R67). -/

namespace Sys2Proof

/-- Why a word is not an instruction (R67); each of them traps ILLOP with detail 0. -/
inductive DecodeError where
  /-- fewer than four bytes -/
  | tooShort
  /-- an illegal or reserved major opcode, or an unassigned member code -/
  | noMember
  /-- a nonzero reserved field -/
  | reservedField
  /-- an unassigned scope, type, format or selector value -/
  | unassignedSelector
deriving DecidableEq, Repr

/-- Major opcode 0x01: the member is bits [4:0]. -/
def decodeAlu (w : IWord) : Option Instr :=
  match bits w 4 0 with
  | 0 => some (.add (w.extractLsb' 21 5) (w.extractLsb' 16 5) (w.extractLsb' 11 5))
  | 1 => some (.sub (w.extractLsb' 21 5) (w.extractLsb' 16 5) (w.extractLsb' 11 5))
  | 2 => some (.mul (w.extractLsb' 21 5) (w.extractLsb' 16 5) (w.extractLsb' 11 5))
  | 3 => some (.mulh (w.extractLsb' 21 5) (w.extractLsb' 16 5) (w.extractLsb' 11 5))
  | 4 => some (.mulhz (w.extractLsb' 21 5) (w.extractLsb' 16 5) (w.extractLsb' 11 5))
  | 5 => some (.div (w.extractLsb' 21 5) (w.extractLsb' 16 5) (w.extractLsb' 11 5))
  | 6 => some (.divz (w.extractLsb' 21 5) (w.extractLsb' 16 5) (w.extractLsb' 11 5))
  | 7 => some (.rem (w.extractLsb' 21 5) (w.extractLsb' 16 5) (w.extractLsb' 11 5))
  | 8 => some (.remz (w.extractLsb' 21 5) (w.extractLsb' 16 5) (w.extractLsb' 11 5))
  | 9 => some (.andR (w.extractLsb' 21 5) (w.extractLsb' 16 5) (w.extractLsb' 11 5))
  | 10 => some (.orR (w.extractLsb' 21 5) (w.extractLsb' 16 5) (w.extractLsb' 11 5))
  | 11 => some (.xorR (w.extractLsb' 21 5) (w.extractLsb' 16 5) (w.extractLsb' 11 5))
  | 12 => some (.andn (w.extractLsb' 21 5) (w.extractLsb' 16 5) (w.extractLsb' 11 5))
  | 13 => some (.shl (w.extractLsb' 21 5) (w.extractLsb' 16 5) (w.extractLsb' 11 5))
  | 14 => some (.shr (w.extractLsb' 21 5) (w.extractLsb' 16 5) (w.extractLsb' 11 5))
  | 15 => some (.sar (w.extractLsb' 21 5) (w.extractLsb' 16 5) (w.extractLsb' 11 5))
  | 16 => some (.rot (w.extractLsb' 21 5) (w.extractLsb' 16 5) (w.extractLsb' 11 5))
  | 17 => some (.minS (w.extractLsb' 21 5) (w.extractLsb' 16 5) (w.extractLsb' 11 5))
  | 18 => some (.maxS (w.extractLsb' 21 5) (w.extractLsb' 16 5) (w.extractLsb' 11 5))
  | 19 => some (.minZ (w.extractLsb' 21 5) (w.extractLsb' 16 5) (w.extractLsb' 11 5))
  | 20 => some (.maxZ (w.extractLsb' 21 5) (w.extractLsb' 16 5) (w.extractLsb' 11 5))
  | 21 => some (.clz (w.extractLsb' 21 5) (w.extractLsb' 16 5))
  | 22 => some (.ctz (w.extractLsb' 21 5) (w.extractLsb' 16 5))
  | 23 => some (.popc (w.extractLsb' 21 5) (w.extractLsb' 16 5))
  | 24 => some (.sext (w.extractLsb' 21 5) (w.extractLsb' 16 5) (w.extractLsb' 5 2))
  | 25 => some (.zext (w.extractLsb' 21 5) (w.extractLsb' 16 5) (w.extractLsb' 5 2))
  | 26 => some (.bfx (w.extractLsb' 21 5) (w.extractLsb' 16 5) (w.extractLsb' 11 5))
  | 27 => some (.bfi (w.extractLsb' 21 5) (w.extractLsb' 16 5) (w.extractLsb' 11 5))
  | 28 => some (.sel (w.extractLsb' 21 5) (w.extractLsb' 16 5) (w.extractLsb' 11 5) (w.extractLsb' 5 3))
  | 29 => some (.adda (w.extractLsb' 21 5) (w.extractLsb' 16 5) (w.extractLsb' 11 5))
  | 30 => some (.tags (w.extractLsb' 21 5) (w.extractLsb' 16 5) (w.extractLsb' 11 5))
  | 31 => some (.tagg (w.extractLsb' 21 5) (w.extractLsb' 16 5))
  | _ => none

/-- Major opcode 0x06: the member is bits [7:6]. -/
def decodeShifti (w : IWord) : Option Instr :=
  match bits w 7 6 with
  | 0 => some (.shli (w.extractLsb' 21 5) (w.extractLsb' 16 5) (w.extractLsb' 0 6))
  | 1 => some (.shri (w.extractLsb' 21 5) (w.extractLsb' 16 5) (w.extractLsb' 0 6))
  | 2 => some (.sari (w.extractLsb' 21 5) (w.extractLsb' 16 5) (w.extractLsb' 0 6))
  | 3 => some (.roti (w.extractLsb' 21 5) (w.extractLsb' 16 5) (w.extractLsb' 0 6))
  | _ => none

/-- Major opcode 0x0C: the member is bits [2:0]. -/
def decodePlog (w : IWord) : Option Instr :=
  match bits w 2 0 with
  | 0 => some (.pand (w.extractLsb' 21 3) (w.extractLsb' 16 3) (w.extractLsb' 11 3))
  | 1 => some (.por (w.extractLsb' 21 3) (w.extractLsb' 16 3) (w.extractLsb' 11 3))
  | 2 => some (.pxor (w.extractLsb' 21 3) (w.extractLsb' 16 3) (w.extractLsb' 11 3))
  | 3 => some (.pandn (w.extractLsb' 21 3) (w.extractLsb' 16 3) (w.extractLsb' 11 3))
  | 4 => some (.pnor (w.extractLsb' 21 3) (w.extractLsb' 16 3) (w.extractLsb' 11 3))
  | _ => none

/-- Major opcode 0x11: the member is bits [3:0]. -/
def decodeFpu (w : IWord) : Option Instr :=
  match bits w 3 0 with
  | 0 => some (.fadd (w.extractLsb' 21 5) (w.extractLsb' 16 5) (w.extractLsb' 11 5) (w.extractLsb' 4 2))
  | 1 => some (.fsub (w.extractLsb' 21 5) (w.extractLsb' 16 5) (w.extractLsb' 11 5) (w.extractLsb' 4 2))
  | 2 => some (.fmul (w.extractLsb' 21 5) (w.extractLsb' 16 5) (w.extractLsb' 11 5) (w.extractLsb' 4 2))
  | 3 => some (.fma (w.extractLsb' 21 5) (w.extractLsb' 16 5) (w.extractLsb' 11 5) (w.extractLsb' 4 2))
  | 4 => some (.fdiv (w.extractLsb' 21 5) (w.extractLsb' 16 5) (w.extractLsb' 11 5) (w.extractLsb' 4 2))
  | 5 => some (.fsqrt (w.extractLsb' 21 5) (w.extractLsb' 16 5) (w.extractLsb' 4 2))
  | 6 => some (.fmin (w.extractLsb' 21 5) (w.extractLsb' 16 5) (w.extractLsb' 11 5) (w.extractLsb' 4 2))
  | 7 => some (.fmax (w.extractLsb' 21 5) (w.extractLsb' 16 5) (w.extractLsb' 11 5) (w.extractLsb' 4 2))
  | 8 => some (.fcmp (w.extractLsb' 21 3) (w.extractLsb' 16 5) (w.extractLsb' 11 5) (w.extractLsb' 6 2) (w.extractLsb' 4 2))
  | 9 =>
    match bits w 8 6 with
    | 0 => some (.fcvtToS64 (w.extractLsb' 21 5) (w.extractLsb' 16 5) (w.extractLsb' 4 2))
    | 1 => some (.fcvtToZ64 (w.extractLsb' 21 5) (w.extractLsb' 16 5) (w.extractLsb' 4 2))
    | 2 => some (.fcvtFromS64 (w.extractLsb' 21 5) (w.extractLsb' 16 5) (w.extractLsb' 4 2))
    | 3 => some (.fcvtFromZ64 (w.extractLsb' 21 5) (w.extractLsb' 16 5) (w.extractLsb' 4 2))
    | 4 => some (.fcvtFloat (w.extractLsb' 21 5) (w.extractLsb' 16 5) (w.extractLsb' 9 2) (w.extractLsb' 4 2))
    | _ => none
  | 10 => some (.fclass (w.extractLsb' 21 5) (w.extractLsb' 16 5) (w.extractLsb' 4 2))
  | 11 => some (.ldt (w.extractLsb' 21 5) (w.extractLsb' 16 5) (w.extractLsb' 11 5) (w.extractLsb' 4 2))
  | 12 => some (.stt (w.extractLsb' 21 5) (w.extractLsb' 16 5) (w.extractLsb' 11 5) (w.extractLsb' 4 2))
  | _ => none

/-- Major opcode 0x14: the member is bits [9:9]. -/
def decodeOrdered (w : IWord) : Option Instr :=
  match bits w 9 9 with
  | 0 => some (.lda (w.extractLsb' 21 5) (w.extractLsb' 16 5) (w.extractLsb' 14 2) (w.extractLsb' 10 4) (w.extractLsb' 0 9))
  | 1 => some (.stl (w.extractLsb' 21 5) (w.extractLsb' 16 5) (w.extractLsb' 14 2) (w.extractLsb' 10 4) (w.extractLsb' 0 9))
  | _ => none

/-- Major opcode 0x15: the member is bits [3:0]. -/
def decodeAmo (w : IWord) : Option Instr :=
  match bits w 3 0 with
  | 0 => some (.amoAdd (w.extractLsb' 21 5) (w.extractLsb' 16 5) (w.extractLsb' 11 5) (w.extractLsb' 10 1) (w.extractLsb' 6 4) (w.extractLsb' 4 2))
  | 1 => some (.amoAnd (w.extractLsb' 21 5) (w.extractLsb' 16 5) (w.extractLsb' 11 5) (w.extractLsb' 10 1) (w.extractLsb' 6 4) (w.extractLsb' 4 2))
  | 2 => some (.amoOr (w.extractLsb' 21 5) (w.extractLsb' 16 5) (w.extractLsb' 11 5) (w.extractLsb' 10 1) (w.extractLsb' 6 4) (w.extractLsb' 4 2))
  | 3 => some (.amoXor (w.extractLsb' 21 5) (w.extractLsb' 16 5) (w.extractLsb' 11 5) (w.extractLsb' 10 1) (w.extractLsb' 6 4) (w.extractLsb' 4 2))
  | 4 => some (.amoMin (w.extractLsb' 21 5) (w.extractLsb' 16 5) (w.extractLsb' 11 5) (w.extractLsb' 10 1) (w.extractLsb' 6 4) (w.extractLsb' 4 2))
  | 5 => some (.amoMax (w.extractLsb' 21 5) (w.extractLsb' 16 5) (w.extractLsb' 11 5) (w.extractLsb' 10 1) (w.extractLsb' 6 4) (w.extractLsb' 4 2))
  | 6 => some (.amoMinz (w.extractLsb' 21 5) (w.extractLsb' 16 5) (w.extractLsb' 11 5) (w.extractLsb' 10 1) (w.extractLsb' 6 4) (w.extractLsb' 4 2))
  | 7 => some (.amoMaxz (w.extractLsb' 21 5) (w.extractLsb' 16 5) (w.extractLsb' 11 5) (w.extractLsb' 10 1) (w.extractLsb' 6 4) (w.extractLsb' 4 2))
  | 8 => some (.amoSwap (w.extractLsb' 21 5) (w.extractLsb' 16 5) (w.extractLsb' 11 5) (w.extractLsb' 10 1) (w.extractLsb' 6 4) (w.extractLsb' 4 2))
  | 9 => some (.amoFadd (w.extractLsb' 21 5) (w.extractLsb' 16 5) (w.extractLsb' 11 5) (w.extractLsb' 10 1) (w.extractLsb' 6 4) (w.extractLsb' 4 2))
  | 10 => some (.ordadd (w.extractLsb' 21 5) (w.extractLsb' 16 5) (w.extractLsb' 11 5) (w.extractLsb' 10 1) (w.extractLsb' 6 4) (w.extractLsb' 4 2))
  | _ => none

/-- Major opcode 0x17: the member is bits [1:0]. -/
def decodeOrdering (w : IWord) : Option Instr :=
  match bits w 1 0 with
  | 0 => some (.fence (w.extractLsb' 6 4) (w.extractLsb' 2 4))
  | 1 => some (.fencesc)
  | 2 => some (.waita (w.extractLsb' 21 5) (w.extractLsb' 16 5) (w.extractLsb' 11 5))
  | _ => none

/-- Major opcode 0x18: the member is bits [2:0]. -/
def decodeVint (w : IWord) : Option Instr :=
  match bits w 2 0 with
  | 0 => some (.vadd (w.extractLsb' 21 5) (w.extractLsb' 16 5) (w.extractLsb' 11 5) (w.extractLsb' 7 4) (w.extractLsb' 3 4))
  | 1 => some (.vsub (w.extractLsb' 21 5) (w.extractLsb' 16 5) (w.extractLsb' 11 5) (w.extractLsb' 7 4) (w.extractLsb' 3 4))
  | 2 => some (.vmul (w.extractLsb' 21 5) (w.extractLsb' 16 5) (w.extractLsb' 11 5) (w.extractLsb' 7 4) (w.extractLsb' 3 4))
  | 3 => some (.vmulh (w.extractLsb' 21 5) (w.extractLsb' 16 5) (w.extractLsb' 11 5) (w.extractLsb' 7 4) (w.extractLsb' 3 4))
  | 4 => some (.vmin (w.extractLsb' 21 5) (w.extractLsb' 16 5) (w.extractLsb' 11 5) (w.extractLsb' 7 4) (w.extractLsb' 3 4))
  | 5 => some (.vmax (w.extractLsb' 21 5) (w.extractLsb' 16 5) (w.extractLsb' 11 5) (w.extractLsb' 7 4) (w.extractLsb' 3 4))
  | 6 => some (.vshl (w.extractLsb' 21 5) (w.extractLsb' 16 5) (w.extractLsb' 11 5) (w.extractLsb' 7 4) (w.extractLsb' 3 4))
  | 7 => some (.vshr (w.extractLsb' 21 5) (w.extractLsb' 16 5) (w.extractLsb' 11 5) (w.extractLsb' 7 4) (w.extractLsb' 3 4))
  | _ => none

/-- Major opcode 0x19: the member is bits [2:0]. -/
def decodeVflt (w : IWord) : Option Instr :=
  match bits w 2 0 with
  | 0 => some (.vfadd (w.extractLsb' 21 5) (w.extractLsb' 16 5) (w.extractLsb' 11 5) (w.extractLsb' 7 4) (w.extractLsb' 3 4))
  | 1 => some (.vfsub (w.extractLsb' 21 5) (w.extractLsb' 16 5) (w.extractLsb' 11 5) (w.extractLsb' 7 4) (w.extractLsb' 3 4))
  | 2 => some (.vfmul (w.extractLsb' 21 5) (w.extractLsb' 16 5) (w.extractLsb' 11 5) (w.extractLsb' 7 4) (w.extractLsb' 3 4))
  | 3 => some (.vfma (w.extractLsb' 21 5) (w.extractLsb' 16 5) (w.extractLsb' 11 5) (w.extractLsb' 7 4) (w.extractLsb' 3 4))
  | 4 => some (.vfmin (w.extractLsb' 21 5) (w.extractLsb' 16 5) (w.extractLsb' 11 5) (w.extractLsb' 7 4) (w.extractLsb' 3 4))
  | 5 => some (.vfmax (w.extractLsb' 21 5) (w.extractLsb' 16 5) (w.extractLsb' 11 5) (w.extractLsb' 7 4) (w.extractLsb' 3 4))
  | 6 => some (.vfdiv (w.extractLsb' 21 5) (w.extractLsb' 16 5) (w.extractLsb' 11 5) (w.extractLsb' 7 4) (w.extractLsb' 3 4))
  | 7 => some (.vfsqrt (w.extractLsb' 21 5) (w.extractLsb' 16 5) (w.extractLsb' 7 4) (w.extractLsb' 3 4))
  | _ => none

/-- Major opcode 0x1A: the member is bits [2:0]. -/
def decodeVmem (w : IWord) : Option Instr :=
  match bits w 2 0 with
  | 0 => some (.vld (w.extractLsb' 21 5) (w.extractLsb' 16 5) (w.extractLsb' 7 4) (w.extractLsb' 3 4))
  | 1 => some (.vst (w.extractLsb' 21 5) (w.extractLsb' 16 5) (w.extractLsb' 7 4) (w.extractLsb' 3 3))
  | 2 => some (.vlds (w.extractLsb' 21 5) (w.extractLsb' 16 5) (w.extractLsb' 11 5) (w.extractLsb' 7 4) (w.extractLsb' 3 4))
  | 3 => some (.vsts (w.extractLsb' 21 5) (w.extractLsb' 16 5) (w.extractLsb' 11 5) (w.extractLsb' 7 4) (w.extractLsb' 3 3))
  | 4 => some (.vgath (w.extractLsb' 21 5) (w.extractLsb' 16 5) (w.extractLsb' 11 5) (w.extractLsb' 7 4) (w.extractLsb' 3 4))
  | 5 => some (.vscat (w.extractLsb' 21 5) (w.extractLsb' 16 5) (w.extractLsb' 11 5) (w.extractLsb' 7 4) (w.extractLsb' 3 3))
  | 6 =>
    match bits w 15 11 with
    | 0 => some (.vldt (w.extractLsb' 21 5) (w.extractLsb' 16 5) (w.extractLsb' 7 4) (w.extractLsb' 3 4))
    | 1 => some (.vstt (w.extractLsb' 21 5) (w.extractLsb' 16 5) (w.extractLsb' 7 4) (w.extractLsb' 3 3))
    | _ => none
  | 7 => some (.vamo (w.extractLsb' 21 5) (w.extractLsb' 16 5) (w.extractLsb' 11 5) (w.extractLsb' 7 4) (w.extractLsb' 3 4))
  | _ => none

/-- Major opcode 0x1B: the member is bits [2:0]. -/
def decodeVconv (w : IWord) : Option Instr :=
  match bits w 2 0 with
  | 0 => some (.vcvt (w.extractLsb' 21 5) (w.extractLsb' 16 5) (w.extractLsb' 11 5) (w.extractLsb' 7 4) (w.extractLsb' 3 4))
  | 1 => some (.vqmx (w.extractLsb' 21 5) (w.extractLsb' 16 5) (w.extractLsb' 11 5) (w.extractLsb' 7 4))
  | 2 => some (.vdqmx (w.extractLsb' 21 5) (w.extractLsb' 16 5) (w.extractLsb' 11 5) (w.extractLsb' 7 4) (w.extractLsb' 3 4))
  | 3 => some (.vsexp (w.extractLsb' 21 5) (w.extractLsb' 16 5) (w.extractLsb' 11 5) (w.extractLsb' 7 4))
  | 4 => some (.vlut (w.extractLsb' 21 5) (w.extractLsb' 16 5) (w.extractLsb' 11 2) (w.extractLsb' 7 4) (w.extractLsb' 3 4))
  | 5 => some (.venc (w.extractLsb' 21 5) (w.extractLsb' 16 5) (w.extractLsb' 11 2) (w.extractLsb' 7 4))
  | _ => none

/-- Major opcode 0x1C: the member is bits [2:0]. -/
def decodeVmisc (w : IWord) : Option Instr :=
  match bits w 2 0 with
  | 0 => some (.vsfu (w.extractLsb' 21 5) (w.extractLsb' 16 5) (w.extractLsb' 11 5) (w.extractLsb' 7 4) (w.extractLsb' 3 4))
  | 1 => some (.vred (w.extractLsb' 21 5) (w.extractLsb' 16 5) (w.extractLsb' 11 5) (w.extractLsb' 7 4) (w.extractLsb' 3 3))
  | 2 => some (.vperm (w.extractLsb' 21 5) (w.extractLsb' 16 5) (w.extractLsb' 11 5) (w.extractLsb' 7 4) (w.extractLsb' 3 4))
  | 3 => some (.vbcast (w.extractLsb' 21 5) (w.extractLsb' 16 5) (w.extractLsb' 7 4) (w.extractLsb' 3 4))
  | 4 => some (.vext (w.extractLsb' 21 5) (w.extractLsb' 16 5) (w.extractLsb' 11 5) (w.extractLsb' 7 4))
  | 5 => some (.vins (w.extractLsb' 21 5) (w.extractLsb' 16 5) (w.extractLsb' 11 5) (w.extractLsb' 7 4))
  | 6 => some (.vhash (w.extractLsb' 21 5) (w.extractLsb' 16 5) (w.extractLsb' 11 5) (w.extractLsb' 7 4) (w.extractLsb' 3 4))
  | 7 => some (.vpopc (w.extractLsb' 21 5) (w.extractLsb' 16 5) (w.extractLsb' 7 4) (w.extractLsb' 3 4))
  | _ => none

/-- Major opcode 0x1D: the member is bits [2:0]. -/
def decodeVmask (w : IWord) : Option Instr :=
  match bits w 2 0 with
  | 0 => some (.vcmp (w.extractLsb' 21 3) (w.extractLsb' 16 5) (w.extractLsb' 11 5) (w.extractLsb' 7 4) (w.extractLsb' 3 4) (w.extractLsb' 0 2))
  | 1 => some (.vcmp (w.extractLsb' 21 3) (w.extractLsb' 16 5) (w.extractLsb' 11 5) (w.extractLsb' 7 4) (w.extractLsb' 3 4) (w.extractLsb' 0 2))
  | 2 => some (.vcmp (w.extractLsb' 21 3) (w.extractLsb' 16 5) (w.extractLsb' 11 5) (w.extractLsb' 7 4) (w.extractLsb' 3 4) (w.extractLsb' 0 2))
  | 3 => some (.vcmp (w.extractLsb' 21 3) (w.extractLsb' 16 5) (w.extractLsb' 11 5) (w.extractLsb' 7 4) (w.extractLsb' 3 4) (w.extractLsb' 0 2))
  | 4 =>
    match bits w 10 7 with
    | 0 => some (.vand (w.extractLsb' 21 5) (w.extractLsb' 16 5) (w.extractLsb' 11 5) (w.extractLsb' 3 4))
    | 1 => some (.vor (w.extractLsb' 21 5) (w.extractLsb' 16 5) (w.extractLsb' 11 5) (w.extractLsb' 3 4))
    | 2 => some (.vxor (w.extractLsb' 21 5) (w.extractLsb' 16 5) (w.extractLsb' 11 5) (w.extractLsb' 3 4))
    | 3 => some (.vandn (w.extractLsb' 21 5) (w.extractLsb' 16 5) (w.extractLsb' 11 5) (w.extractLsb' 3 4))
    | _ => none
  | 5 =>
    match bits w 10 7 with
    | 0 => some (.mand (w.extractLsb' 21 3) (w.extractLsb' 16 3) (w.extractLsb' 11 3))
    | 1 => some (.mor (w.extractLsb' 21 3) (w.extractLsb' 16 3) (w.extractLsb' 11 3))
    | 2 => some (.mxor (w.extractLsb' 21 3) (w.extractLsb' 16 3) (w.extractLsb' 11 3))
    | 3 => some (.mandn (w.extractLsb' 21 3) (w.extractLsb' 16 3) (w.extractLsb' 11 3))
    | _ => none
  | _ => none

/-- Major opcode 0x1F: the member is bits [2:0]. -/
def decodeTctl (w : IWord) : Option Instr :=
  match bits w 2 0 with
  | 0 => some (.twait (w.extractLsb' 3 8))
  | 1 => some (.tstat (w.extractLsb' 21 5))
  | 2 => some (.setlut (w.extractLsb' 16 5) (w.extractLsb' 3 2))
  | _ => none

/-- Major opcode 0x20: the member is bits [3:0]. -/
def decodeChan (w : IWord) : Option Instr :=
  match bits w 3 0 with
  | 0 => some (.outWord (w.extractLsb' 16 5) (w.extractLsb' 11 5))
  | 1 => some (.inWord (w.extractLsb' 21 5) (w.extractLsb' 16 5))
  | 2 => some (.outBlock (w.extractLsb' 21 5) (w.extractLsb' 16 5) (w.extractLsb' 11 5))
  | 3 => some (.inBlock (w.extractLsb' 21 5) (w.extractLsb' 16 5) (w.extractLsb' 11 5))
  | 4 => some (.chnew (w.extractLsb' 21 5) (w.extractLsb' 16 5) (w.extractLsb' 11 5))
  | 5 => some (.chbind (w.extractLsb' 21 5) (w.extractLsb' 16 5) (w.extractLsb' 11 5))
  | 6 => some (.chfree (w.extractLsb' 16 5))
  | 7 => some (.chstat (w.extractLsb' 21 5) (w.extractLsb' 16 5) (w.extractLsb' 11 5))
  | 8 => some (.chsync (w.extractLsb' 21 5) (w.extractLsb' 16 5))
  | 9 => some (.tkt (w.extractLsb' 21 5) (w.extractLsb' 16 5))
  | 10 => some (.tktw (w.extractLsb' 16 5) (w.extractLsb' 11 5))
  | _ => none

/-- Major opcode 0x21: the member is bits [2:0]. -/
def decodeAlt (w : IWord) : Option Instr :=
  match bits w 2 0 with
  | 0 => some (.alts (w.extractLsb' 16 5))
  | 1 => some (.altg (w.extractLsb' 16 5) (w.extractLsb' 11 5))
  | 2 => some (.altt (w.extractLsb' 16 5) (w.extractLsb' 11 5))
  | 3 => some (.altw (w.extractLsb' 21 5) (w.extractLsb' 16 5))
  | 4 => some (.altwF (w.extractLsb' 21 5) (w.extractLsb' 16 5) (w.extractLsb' 11 5))
  | _ => none

/-- Major opcode 0x22: the member is bits [2:0]. -/
def decodeRing (w : IWord) : Option Instr :=
  match bits w 2 0 with
  | 0 => some (.claim (w.extractLsb' 21 5) (w.extractLsb' 16 5) (w.extractLsb' 11 5) (w.extractLsb' 3 3))
  | 1 => some (.commit (w.extractLsb' 21 5) (w.extractLsb' 16 5) (w.extractLsb' 11 5))
  | 2 => some (.await (w.extractLsb' 21 5) (w.extractLsb' 16 5) (w.extractLsb' 11 5) (w.extractLsb' 3 3))
  | 3 => some (.retire (w.extractLsb' 16 5) (w.extractLsb' 11 5))
  | 4 => some (.claimNb (w.extractLsb' 21 5) (w.extractLsb' 16 5) (w.extractLsb' 11 5) (w.extractLsb' 3 3))
  | 6 => some (.awaitNb (w.extractLsb' 21 5) (w.extractLsb' 16 5) (w.extractLsb' 11 5) (w.extractLsb' 3 3))
  | _ => none

/-- Major opcode 0x23: the member is bits [3:0]. -/
def decodeProc (w : IWord) : Option Instr :=
  match bits w 3 0 with
  | 0 => some (.spawn (w.extractLsb' 21 5) (w.extractLsb' 16 5) (w.extractLsb' 11 5))
  | 1 => some (.stop)
  | 2 => some (.yield)
  | 3 => some (.setpri (w.extractLsb' 16 5) (w.extractLsb' 11 5))
  | 4 => some (.sleep (w.extractLsb' 16 5))
  | 5 => some (.time (w.extractLsb' 21 5))
  | 6 => some (.migr (w.extractLsb' 16 5))
  | 7 => some (.migb)
  | 8 =>
    match bits w 8 7 with
    | 1 => some (.qmapPush (w.extractLsb' 16 5) (w.extractLsb' 4 3))
    | 0 => some (.qmapPop (w.extractLsb' 16 5) (w.extractLsb' 4 3))
    | 2 => some (.qmapOff (w.extractLsb' 4 3))
    | _ => none
  | _ => none

/-- Major opcode 0x24: the member is bits [2:0]. -/
def decodeSupv (w : IWord) : Option Instr :=
  match bits w 2 0 with
  | 0 => some (.resume (w.extractLsb' 21 5) (w.extractLsb' 16 5) (w.extractLsb' 11 5))
  | 1 => some (.peekc (w.extractLsb' 21 5) (w.extractLsb' 16 5) (w.extractLsb' 11 5))
  | 2 => some (.pokec (w.extractLsb' 21 5) (w.extractLsb' 16 5) (w.extractLsb' 11 5))
  | 3 => some (.kill (w.extractLsb' 21 5) (w.extractLsb' 16 5))
  | 4 => some (.trap (w.extractLsb' 3 8))
  | _ => none

/-- Major opcode 0x25: the member is bits [2:0]. -/
def decodeSync (w : IWord) : Option Instr :=
  match bits w 2 0 with
  | 0 => some (.step (w.extractLsb' 21 5))
  | 1 => some (.stepn (w.extractLsb' 21 5))
  | 2 => some (.bari (w.extractLsb' 16 5) (w.extractLsb' 11 5))
  | 3 => some (.bara (w.extractLsb' 21 5) (w.extractLsb' 16 5))
  | 4 => some (.barx (w.extractLsb' 16 5) (w.extractLsb' 11 5))
  | 5 => some (.barw (w.extractLsb' 16 5) (w.extractLsb' 11 5))
  | 6 => some (.depdec (w.extractLsb' 21 5) (w.extractLsb' 16 5))
  | _ => none

/-- Major opcode 0x26: the member is bits [2:0]. -/
def decodeAlm (w : IWord) : Option Instr :=
  match bits w 2 0 with
  | 0 => some (.almrec (w.extractLsb' 16 5))
  | 1 => some (.almslot (w.extractLsb' 16 5) (w.extractLsb' 11 5) (w.extractLsb' 3 4))
  | 2 => some (.almgrd (w.extractLsb' 16 5))
  | 3 => some (.almend (w.extractLsb' 21 5))
  | 4 => some (.almplay (w.extractLsb' 21 5) (w.extractLsb' 16 5) (w.extractLsb' 11 5))
  | 5 => some (.alminv (w.extractLsb' 16 5))
  | 6 => some (.almq (w.extractLsb' 21 5) (w.extractLsb' 16 5))
  | _ => none

/-- Major opcode 0x27: the member is bits [15:12]. -/
def decodeSys (w : IWord) : Option Instr :=
  match bits w 15 12 with
  | 0 => some (.gets (w.extractLsb' 21 5) (w.extractLsb' 0 12))
  | 1 => some (.sets (w.extractLsb' 16 5) (w.extractLsb' 0 12))
  | 2 => some (.tlbinv (w.extractLsb' 21 5) (w.extractLsb' 16 5) (w.extractLsb' 2 2) (w.extractLsb' 0 2))
  | 3 =>
    match bits w 0 0 with
    | 0 => some (.keyset (w.extractLsb' 21 5) (w.extractLsb' 16 5))
    | 1 => some (.keysetClr (w.extractLsb' 21 5))
    | _ => none
  | 4 => some (.cflush (w.extractLsb' 16 5) (w.extractLsb' 0 2))
  | 5 => some (.cinv (w.extractLsb' 16 5) (w.extractLsb' 0 2))
  | 6 => some (.nop)
  | 7 => some (.break)
  | _ => none

/-- The instruction a word selects by its major opcode and member code (R54 to R66), reserved fields not yet checked. -/
def selectMember (w : IWord) : Option Instr :=
  match bits w 31 26 with
  | 0x01 => decodeAlu w
  | 0x02 => some (.addi (w.extractLsb' 21 5) (w.extractLsb' 16 5) (w.extractLsb' 0 16))
  | 0x03 => some (.andi (w.extractLsb' 21 5) (w.extractLsb' 16 5) (w.extractLsb' 0 16))
  | 0x04 => some (.ori (w.extractLsb' 21 5) (w.extractLsb' 16 5) (w.extractLsb' 0 16))
  | 0x05 => some (.xori (w.extractLsb' 21 5) (w.extractLsb' 16 5) (w.extractLsb' 0 16))
  | 0x06 => decodeShifti w
  | 0x08 => some (.movz (w.extractLsb' 21 5) (w.extractLsb' 16 2) (w.extractLsb' 0 16))
  | 0x09 => some (.movk (w.extractLsb' 21 5) (w.extractLsb' 16 2) (w.extractLsb' 0 16))
  | 0x0A => some (.cmp (w.extractLsb' 21 3) (w.extractLsb' 16 5) (w.extractLsb' 11 5) (w.extractLsb' 0 4))
  | 0x0B => some (.cmpi (w.extractLsb' 23 3) (w.extractLsb' 20 3) (w.extractLsb' 15 5) (w.extractLsb' 0 15))
  | 0x0C => decodePlog w
  | 0x0D => some (.br (w.extractLsb' 23 3) (w.extractLsb' 22 1) (w.extractLsb' 0 22))
  | 0x0E => some (.j (w.extractLsb' 0 26))
  | 0x0F => some (.jal (w.extractLsb' 0 26))
  | 0x10 => some (.jalr (w.extractLsb' 21 5) (w.extractLsb' 16 5))
  | 0x11 => decodeFpu w
  | 0x12 => some (.ld (w.extractLsb' 21 5) (w.extractLsb' 16 5) (w.extractLsb' 14 2) (w.extractLsb' 10 1) (w.extractLsb' 0 10))
  | 0x13 => some (.st (w.extractLsb' 21 5) (w.extractLsb' 16 5) (w.extractLsb' 14 2) (w.extractLsb' 0 10))
  | 0x14 => decodeOrdered w
  | 0x15 => decodeAmo w
  | 0x16 => some (.cas (w.extractLsb' 21 5) (w.extractLsb' 16 5) (w.extractLsb' 11 5) (w.extractLsb' 10 1) (w.extractLsb' 6 4) (w.extractLsb' 4 2))
  | 0x17 => decodeOrdering w
  | 0x18 => decodeVint w
  | 0x19 => decodeVflt w
  | 0x1A => decodeVmem w
  | 0x1B => decodeVconv w
  | 0x1C => decodeVmisc w
  | 0x1D => decodeVmask w
  | 0x1E => some (.tis (w.extractLsb' 21 5) (w.extractLsb' 16 5) (w.extractLsb' 11 5) (w.extractLsb' 0 11))
  | 0x1F => decodeTctl w
  | 0x20 => decodeChan w
  | 0x21 => decodeAlt w
  | 0x22 => decodeRing w
  | 0x23 => decodeProc w
  | 0x24 => decodeSupv w
  | 0x25 => decodeSync w
  | 0x26 => decodeAlm w
  | 0x27 => decodeSys w
  | _ => none

/-- The word of an instruction, field by field as R52 to R66 lay them out, from bit 31 down; an event has no word. -/
def encode : Instr → Option IWord
  | .add d a b => some (0x1#6 ++ d ++ a ++ b ++ 0x0#11)
  | .sub d a b => some (0x1#6 ++ d ++ a ++ b ++ 0x1#11)
  | .mul d a b => some (0x1#6 ++ d ++ a ++ b ++ 0x2#11)
  | .mulh d a b => some (0x1#6 ++ d ++ a ++ b ++ 0x3#11)
  | .mulhz d a b => some (0x1#6 ++ d ++ a ++ b ++ 0x4#11)
  | .div d a b => some (0x1#6 ++ d ++ a ++ b ++ 0x5#11)
  | .divz d a b => some (0x1#6 ++ d ++ a ++ b ++ 0x6#11)
  | .rem d a b => some (0x1#6 ++ d ++ a ++ b ++ 0x7#11)
  | .remz d a b => some (0x1#6 ++ d ++ a ++ b ++ 0x8#11)
  | .andR d a b => some (0x1#6 ++ d ++ a ++ b ++ 0x9#11)
  | .orR d a b => some (0x1#6 ++ d ++ a ++ b ++ 0xA#11)
  | .xorR d a b => some (0x1#6 ++ d ++ a ++ b ++ 0xB#11)
  | .andn d a b => some (0x1#6 ++ d ++ a ++ b ++ 0xC#11)
  | .shl d a b => some (0x1#6 ++ d ++ a ++ b ++ 0xD#11)
  | .shr d a b => some (0x1#6 ++ d ++ a ++ b ++ 0xE#11)
  | .sar d a b => some (0x1#6 ++ d ++ a ++ b ++ 0xF#11)
  | .rot d a b => some (0x1#6 ++ d ++ a ++ b ++ 0x10#11)
  | .minS d a b => some (0x1#6 ++ d ++ a ++ b ++ 0x11#11)
  | .maxS d a b => some (0x1#6 ++ d ++ a ++ b ++ 0x12#11)
  | .minZ d a b => some (0x1#6 ++ d ++ a ++ b ++ 0x13#11)
  | .maxZ d a b => some (0x1#6 ++ d ++ a ++ b ++ 0x14#11)
  | .clz d a => some (0x1#6 ++ d ++ a ++ 0x15#16)
  | .ctz d a => some (0x1#6 ++ d ++ a ++ 0x16#16)
  | .popc d a => some (0x1#6 ++ d ++ a ++ 0x17#16)
  | .sext d a w => some (0x1#6 ++ d ++ a ++ 0x0#9 ++ w ++ 0x18#5)
  | .zext d a w => some (0x1#6 ++ d ++ a ++ 0x0#9 ++ w ++ 0x19#5)
  | .bfx d a b => some (0x1#6 ++ d ++ a ++ b ++ 0x1A#11)
  | .bfi d a b => some (0x1#6 ++ d ++ a ++ b ++ 0x1B#11)
  | .sel d a b p => some (0x1#6 ++ d ++ a ++ b ++ 0x0#3 ++ p ++ 0x1C#5)
  | .adda d a b => some (0x1#6 ++ d ++ a ++ b ++ 0x1D#11)
  | .tags d a b => some (0x1#6 ++ d ++ a ++ b ++ 0x1E#11)
  | .tagg d a => some (0x1#6 ++ d ++ a ++ 0x1F#16)
  | .addi d a i => some (0x2#6 ++ d ++ a ++ i)
  | .andi d a i => some (0x3#6 ++ d ++ a ++ i)
  | .ori d a i => some (0x4#6 ++ d ++ a ++ i)
  | .xori d a i => some (0x5#6 ++ d ++ a ++ i)
  | .shli d a n => some (0x6#6 ++ d ++ a ++ 0x0#10 ++ n)
  | .shri d a n => some (0x6#6 ++ d ++ a ++ 0x1#10 ++ n)
  | .sari d a n => some (0x6#6 ++ d ++ a ++ 0x2#10 ++ n)
  | .roti d a n => some (0x6#6 ++ d ++ a ++ 0x3#10 ++ n)
  | .movz d s i => some (0x8#6 ++ d ++ 0x0#3 ++ s ++ i)
  | .movk d s i => some (0x9#6 ++ d ++ 0x0#3 ++ s ++ i)
  | .cmp d a b c => some (0xA#6 ++ 0x0#2 ++ d ++ a ++ b ++ 0x0#7 ++ c)
  | .cmpi p c a i => some (0xB#6 ++ p ++ c ++ a ++ i)
  | .pand d a b => some (0xC#6 ++ 0x0#2 ++ d ++ 0x0#2 ++ a ++ 0x0#2 ++ b ++ 0x0#11)
  | .por d a b => some (0xC#6 ++ 0x0#2 ++ d ++ 0x0#2 ++ a ++ 0x0#2 ++ b ++ 0x1#11)
  | .pxor d a b => some (0xC#6 ++ 0x0#2 ++ d ++ 0x0#2 ++ a ++ 0x0#2 ++ b ++ 0x2#11)
  | .pandn d a b => some (0xC#6 ++ 0x0#2 ++ d ++ 0x0#2 ++ a ++ 0x0#2 ++ b ++ 0x3#11)
  | .pnor d a b => some (0xC#6 ++ 0x0#2 ++ d ++ 0x0#2 ++ a ++ 0x0#2 ++ b ++ 0x4#11)
  | .br p n d => some (0xD#6 ++ p ++ n ++ d)
  | .j d => some (0xE#6 ++ d)
  | .jal d => some (0xF#6 ++ d)
  | .jalr d a => some (0x10#6 ++ d ++ a ++ 0x0#16)
  | .fadd d a b t => some (0x11#6 ++ d ++ a ++ b ++ 0x0#5 ++ t ++ 0x0#4)
  | .fsub d a b t => some (0x11#6 ++ d ++ a ++ b ++ 0x0#5 ++ t ++ 0x1#4)
  | .fmul d a b t => some (0x11#6 ++ d ++ a ++ b ++ 0x0#5 ++ t ++ 0x2#4)
  | .fma d a b t => some (0x11#6 ++ d ++ a ++ b ++ 0x0#5 ++ t ++ 0x3#4)
  | .fdiv d a b t => some (0x11#6 ++ d ++ a ++ b ++ 0x0#5 ++ t ++ 0x4#4)
  | .fsqrt d a t => some (0x11#6 ++ d ++ a ++ 0x0#10 ++ t ++ 0x5#4)
  | .fmin d a b t => some (0x11#6 ++ d ++ a ++ b ++ 0x0#5 ++ t ++ 0x6#4)
  | .fmax d a b t => some (0x11#6 ++ d ++ a ++ b ++ 0x0#5 ++ t ++ 0x7#4)
  | .fcmp d a b c t => some (0x11#6 ++ 0x0#2 ++ d ++ a ++ b ++ 0x0#3 ++ c ++ t ++ 0x8#4)
  | .fcvtToS64 d a t => some (0x11#6 ++ d ++ a ++ 0x0#10 ++ t ++ 0x9#4)
  | .fcvtToZ64 d a t => some (0x11#6 ++ d ++ a ++ 0x1#10 ++ t ++ 0x9#4)
  | .fcvtFromS64 d a t => some (0x11#6 ++ d ++ a ++ 0x2#10 ++ t ++ 0x9#4)
  | .fcvtFromZ64 d a t => some (0x11#6 ++ d ++ a ++ 0x3#10 ++ t ++ 0x9#4)
  | .fcvtFloat d a g t => some (0x11#6 ++ d ++ a ++ 0x0#5 ++ g ++ 0x4#3 ++ t ++ 0x9#4)
  | .fclass d a t => some (0x11#6 ++ d ++ a ++ 0x0#10 ++ t ++ 0xA#4)
  | .ldt d a b t => some (0x11#6 ++ d ++ a ++ b ++ 0x0#5 ++ t ++ 0xB#4)
  | .stt d a b t => some (0x11#6 ++ d ++ a ++ b ++ 0x0#5 ++ t ++ 0xC#4)
  | .ld d a z s o => some (0x12#6 ++ d ++ a ++ z ++ 0x0#3 ++ s ++ o)
  | .st d a z o => some (0x13#6 ++ d ++ a ++ z ++ 0x0#4 ++ o)
  | .lda d a z c o => some (0x14#6 ++ d ++ a ++ z ++ c ++ 0x0#1 ++ o)
  | .stl d a z c o => some (0x14#6 ++ d ++ a ++ z ++ c ++ 0x1#1 ++ o)
  | .amoAdd d a b z c o => some (0x15#6 ++ d ++ a ++ b ++ z ++ c ++ o ++ 0x0#4)
  | .amoAnd d a b z c o => some (0x15#6 ++ d ++ a ++ b ++ z ++ c ++ o ++ 0x1#4)
  | .amoOr d a b z c o => some (0x15#6 ++ d ++ a ++ b ++ z ++ c ++ o ++ 0x2#4)
  | .amoXor d a b z c o => some (0x15#6 ++ d ++ a ++ b ++ z ++ c ++ o ++ 0x3#4)
  | .amoMin d a b z c o => some (0x15#6 ++ d ++ a ++ b ++ z ++ c ++ o ++ 0x4#4)
  | .amoMax d a b z c o => some (0x15#6 ++ d ++ a ++ b ++ z ++ c ++ o ++ 0x5#4)
  | .amoMinz d a b z c o => some (0x15#6 ++ d ++ a ++ b ++ z ++ c ++ o ++ 0x6#4)
  | .amoMaxz d a b z c o => some (0x15#6 ++ d ++ a ++ b ++ z ++ c ++ o ++ 0x7#4)
  | .amoSwap d a b z c o => some (0x15#6 ++ d ++ a ++ b ++ z ++ c ++ o ++ 0x8#4)
  | .amoFadd d a b z c o => some (0x15#6 ++ d ++ a ++ b ++ z ++ c ++ o ++ 0x9#4)
  | .ordadd d a b z c o => some (0x15#6 ++ d ++ a ++ b ++ z ++ c ++ o ++ 0xA#4)
  | .cas d a b z c o => some (0x16#6 ++ d ++ a ++ b ++ z ++ c ++ o ++ 0x0#4)
  | .fence c o => some (0x17#6 ++ 0x0#16 ++ c ++ o ++ 0x0#2)
  | .fencesc => some (0x17#6 ++ 0x1#26)
  | .waita d a b => some (0x17#6 ++ d ++ a ++ b ++ 0x2#11)
  | .vadd d a b t m => some (0x18#6 ++ d ++ a ++ b ++ t ++ m ++ 0x0#3)
  | .vsub d a b t m => some (0x18#6 ++ d ++ a ++ b ++ t ++ m ++ 0x1#3)
  | .vmul d a b t m => some (0x18#6 ++ d ++ a ++ b ++ t ++ m ++ 0x2#3)
  | .vmulh d a b t m => some (0x18#6 ++ d ++ a ++ b ++ t ++ m ++ 0x3#3)
  | .vmin d a b t m => some (0x18#6 ++ d ++ a ++ b ++ t ++ m ++ 0x4#3)
  | .vmax d a b t m => some (0x18#6 ++ d ++ a ++ b ++ t ++ m ++ 0x5#3)
  | .vshl d a b t m => some (0x18#6 ++ d ++ a ++ b ++ t ++ m ++ 0x6#3)
  | .vshr d a b t m => some (0x18#6 ++ d ++ a ++ b ++ t ++ m ++ 0x7#3)
  | .vfadd d a b t m => some (0x19#6 ++ d ++ a ++ b ++ t ++ m ++ 0x0#3)
  | .vfsub d a b t m => some (0x19#6 ++ d ++ a ++ b ++ t ++ m ++ 0x1#3)
  | .vfmul d a b t m => some (0x19#6 ++ d ++ a ++ b ++ t ++ m ++ 0x2#3)
  | .vfma d a b t m => some (0x19#6 ++ d ++ a ++ b ++ t ++ m ++ 0x3#3)
  | .vfmin d a b t m => some (0x19#6 ++ d ++ a ++ b ++ t ++ m ++ 0x4#3)
  | .vfmax d a b t m => some (0x19#6 ++ d ++ a ++ b ++ t ++ m ++ 0x5#3)
  | .vfdiv d a b t m => some (0x19#6 ++ d ++ a ++ b ++ t ++ m ++ 0x6#3)
  | .vfsqrt d a t m => some (0x19#6 ++ d ++ a ++ 0x0#5 ++ t ++ m ++ 0x7#3)
  | .vld d a t m => some (0x1A#6 ++ d ++ a ++ 0x0#5 ++ t ++ m ++ 0x0#3)
  | .vst d a t m => some (0x1A#6 ++ d ++ a ++ 0x0#5 ++ t ++ 0x0#1 ++ m ++ 0x1#3)
  | .vlds d a b t m => some (0x1A#6 ++ d ++ a ++ b ++ t ++ m ++ 0x2#3)
  | .vsts d a b t m => some (0x1A#6 ++ d ++ a ++ b ++ t ++ 0x0#1 ++ m ++ 0x3#3)
  | .vgath d a b t m => some (0x1A#6 ++ d ++ a ++ b ++ t ++ m ++ 0x4#3)
  | .vscat d a b t m => some (0x1A#6 ++ d ++ a ++ b ++ t ++ 0x0#1 ++ m ++ 0x5#3)
  | .vldt d a t m => some (0x1A#6 ++ d ++ a ++ 0x0#5 ++ t ++ m ++ 0x6#3)
  | .vstt d a t m => some (0x1A#6 ++ d ++ a ++ 0x1#5 ++ t ++ 0x0#1 ++ m ++ 0x6#3)
  | .vamo d a b o m => some (0x1A#6 ++ d ++ a ++ b ++ o ++ m ++ 0x7#3)
  | .vcvt d a n t m => some (0x1B#6 ++ d ++ a ++ n ++ t ++ m ++ 0x0#3)
  | .vqmx d a n t => some (0x1B#6 ++ d ++ a ++ n ++ t ++ 0x1#7)
  | .vdqmx d a n t m => some (0x1B#6 ++ d ++ a ++ n ++ t ++ m ++ 0x2#3)
  | .vsexp d a n t => some (0x1B#6 ++ d ++ a ++ n ++ t ++ 0x3#7)
  | .vlut d a k t m => some (0x1B#6 ++ d ++ a ++ 0x0#3 ++ k ++ t ++ m ++ 0x4#3)
  | .venc d a k t => some (0x1B#6 ++ d ++ a ++ 0x0#3 ++ k ++ t ++ 0x5#7)
  | .vsfu d a f t m => some (0x1C#6 ++ d ++ a ++ f ++ t ++ m ++ 0x0#3)
  | .vred d a o t m => some (0x1C#6 ++ d ++ a ++ o ++ t ++ 0x0#1 ++ m ++ 0x1#3)
  | .vperm d a b t m => some (0x1C#6 ++ d ++ a ++ b ++ t ++ m ++ 0x2#3)
  | .vbcast d a t m => some (0x1C#6 ++ d ++ a ++ 0x0#5 ++ t ++ m ++ 0x3#3)
  | .vext d a b t => some (0x1C#6 ++ d ++ a ++ b ++ t ++ 0x4#7)
  | .vins d a b t => some (0x1C#6 ++ d ++ a ++ b ++ t ++ 0x5#7)
  | .vhash d a b t m => some (0x1C#6 ++ d ++ a ++ b ++ t ++ m ++ 0x6#3)
  | .vpopc d a t m => some (0x1C#6 ++ d ++ a ++ 0x0#5 ++ t ++ m ++ 0x7#3)
  | .vcmp d a b t m c => some (0x1D#6 ++ 0x0#2 ++ d ++ a ++ b ++ t ++ m ++ 0x0#1 ++ c)
  | .vand d a b m => some (0x1D#6 ++ d ++ a ++ b ++ 0x0#4 ++ m ++ 0x4#3)
  | .vor d a b m => some (0x1D#6 ++ d ++ a ++ b ++ 0x1#4 ++ m ++ 0x4#3)
  | .vxor d a b m => some (0x1D#6 ++ d ++ a ++ b ++ 0x2#4 ++ m ++ 0x4#3)
  | .vandn d a b m => some (0x1D#6 ++ d ++ a ++ b ++ 0x3#4 ++ m ++ 0x4#3)
  | .mand d a b => some (0x1D#6 ++ 0x0#2 ++ d ++ 0x0#2 ++ a ++ 0x0#2 ++ b ++ 0x5#11)
  | .mor d a b => some (0x1D#6 ++ 0x0#2 ++ d ++ 0x0#2 ++ a ++ 0x0#2 ++ b ++ 0x85#11)
  | .mxor d a b => some (0x1D#6 ++ 0x0#2 ++ d ++ 0x0#2 ++ a ++ 0x0#2 ++ b ++ 0x105#11)
  | .mandn d a b => some (0x1D#6 ++ 0x0#2 ++ d ++ 0x0#2 ++ a ++ 0x0#2 ++ b ++ 0x185#11)
  | .tis d a b i => some (0x1E#6 ++ d ++ a ++ b ++ i)
  | .twait m => some (0x1F#6 ++ 0x0#15 ++ m ++ 0x0#3)
  | .tstat d => some (0x1F#6 ++ d ++ 0x1#21)
  | .setlut a t => some (0x1F#6 ++ 0x0#5 ++ a ++ 0x0#11 ++ t ++ 0x2#3)
  | .outWord a b => some (0x20#6 ++ 0x0#5 ++ a ++ b ++ 0x0#11)
  | .inWord d a => some (0x20#6 ++ d ++ a ++ 0x1#16)
  | .outBlock d a b => some (0x20#6 ++ d ++ a ++ b ++ 0x2#11)
  | .inBlock d a b => some (0x20#6 ++ d ++ a ++ b ++ 0x3#11)
  | .chnew d a b => some (0x20#6 ++ d ++ a ++ b ++ 0x4#11)
  | .chbind d a b => some (0x20#6 ++ d ++ a ++ b ++ 0x5#11)
  | .chfree a => some (0x20#6 ++ 0x0#5 ++ a ++ 0x6#16)
  | .chstat d a b => some (0x20#6 ++ d ++ a ++ b ++ 0x7#11)
  | .chsync d a => some (0x20#6 ++ d ++ a ++ 0x8#16)
  | .tkt d a => some (0x20#6 ++ d ++ a ++ 0x9#16)
  | .tktw a b => some (0x20#6 ++ 0x0#5 ++ a ++ b ++ 0xA#11)
  | .alts a => some (0x21#6 ++ 0x0#5 ++ a ++ 0x0#16)
  | .altg a b => some (0x21#6 ++ 0x0#5 ++ a ++ b ++ 0x1#11)
  | .altt a b => some (0x21#6 ++ 0x0#5 ++ a ++ b ++ 0x2#11)
  | .altw d a => some (0x21#6 ++ d ++ a ++ 0x3#16)
  | .altwF d a b => some (0x21#6 ++ d ++ a ++ b ++ 0x4#11)
  | .claim d a b p => some (0x22#6 ++ d ++ a ++ b ++ 0x0#5 ++ p ++ 0x0#3)
  | .claimNb d a b p => some (0x22#6 ++ d ++ a ++ b ++ 0x0#5 ++ p ++ 0x4#3)
  | .commit d a b => some (0x22#6 ++ d ++ a ++ b ++ 0x1#11)
  | .await d a b p => some (0x22#6 ++ d ++ a ++ b ++ 0x0#5 ++ p ++ 0x2#3)
  | .awaitNb d a b p => some (0x22#6 ++ d ++ a ++ b ++ 0x0#5 ++ p ++ 0x6#3)
  | .retire a b => some (0x22#6 ++ 0x0#5 ++ a ++ b ++ 0x3#11)
  | .spawn d a b => some (0x23#6 ++ d ++ a ++ b ++ 0x0#11)
  | .stop => some (0x23#6 ++ 0x1#26)
  | .yield => some (0x23#6 ++ 0x2#26)
  | .setpri a b => some (0x23#6 ++ 0x0#5 ++ a ++ b ++ 0x3#11)
  | .sleep a => some (0x23#6 ++ 0x0#5 ++ a ++ 0x4#16)
  | .time d => some (0x23#6 ++ d ++ 0x5#21)
  | .migr a => some (0x23#6 ++ 0x0#5 ++ a ++ 0x6#16)
  | .migb => some (0x23#6 ++ 0x7#26)
  | .qmapPush a i => some (0x23#6 ++ 0x0#5 ++ a ++ 0x1#9 ++ i ++ 0x8#4)
  | .qmapPop a i => some (0x23#6 ++ 0x0#5 ++ a ++ 0x0#9 ++ i ++ 0x8#4)
  | .qmapOff i => some (0x23#6 ++ 0x2#19 ++ i ++ 0x8#4)
  | .resume d a b => some (0x24#6 ++ d ++ a ++ b ++ 0x0#11)
  | .peekc d a b => some (0x24#6 ++ d ++ a ++ b ++ 0x1#11)
  | .pokec d a b => some (0x24#6 ++ d ++ a ++ b ++ 0x2#11)
  | .kill d a => some (0x24#6 ++ d ++ a ++ 0x3#16)
  | .trap n => some (0x24#6 ++ 0x0#15 ++ n ++ 0x4#3)
  | .step d => some (0x25#6 ++ d ++ 0x0#21)
  | .stepn d => some (0x25#6 ++ d ++ 0x1#21)
  | .bari a b => some (0x25#6 ++ 0x0#5 ++ a ++ b ++ 0x2#11)
  | .bara d a => some (0x25#6 ++ d ++ a ++ 0x3#16)
  | .barx a b => some (0x25#6 ++ 0x0#5 ++ a ++ b ++ 0x4#11)
  | .barw a b => some (0x25#6 ++ 0x0#5 ++ a ++ b ++ 0x5#11)
  | .depdec d a => some (0x25#6 ++ d ++ a ++ 0x6#16)
  | .almrec a => some (0x26#6 ++ 0x0#5 ++ a ++ 0x0#16)
  | .almslot a b s => some (0x26#6 ++ 0x0#5 ++ a ++ b ++ 0x0#4 ++ s ++ 0x1#3)
  | .almgrd a => some (0x26#6 ++ 0x0#5 ++ a ++ 0x2#16)
  | .almend d => some (0x26#6 ++ d ++ 0x3#21)
  | .almplay d a b => some (0x26#6 ++ d ++ a ++ b ++ 0x4#11)
  | .alminv a => some (0x26#6 ++ 0x0#5 ++ a ++ 0x5#16)
  | .almq d a => some (0x26#6 ++ d ++ a ++ 0x6#16)
  | .gets d n => some (0x27#6 ++ d ++ 0x0#9 ++ n)
  | .sets a n => some (0x27#6 ++ 0x0#5 ++ a ++ 0x1#4 ++ n)
  | .tlbinv d a r s => some (0x27#6 ++ d ++ a ++ 0x200#12 ++ r ++ s)
  | .keyset d a => some (0x27#6 ++ d ++ a ++ 0x3000#16)
  | .keysetClr d => some (0x27#6 ++ d ++ 0x3001#21)
  | .cflush a r => some (0x27#6 ++ 0x0#5 ++ a ++ 0x1000#14 ++ r)
  | .cinv a r => some (0x27#6 ++ 0x0#5 ++ a ++ 0x1400#14 ++ r)
  | .nop => some (0x27#6 ++ 0x6000#26)
  | .break => some (0x27#6 ++ 0x7000#26)
  | .unassignedEncoding _ | .fetchFault _ | .tnop _ | .tz _ | .tmma _ | .tsmma _ | .tldacc _ | .tst _ | .tew _
  | .tred _ | .tmov _ | .cpl _ | .cp2d _ | .cpg _ | .storePerform _ _ _ | .memoryReply _ _ _ | .memoryWaitPark _
  | .dispatch _ | .preempt _ | .sliceExpiry _ | .budgetExhausted _ | .contextSpill _ | .contextFill _
  | .arrivalWrite _ | .migrationArrival _ | .accept _ | .refuse _ | .space _ | .migrationResend _
  | .loadregRefresh _ | .heartbeatTick _ | .deadlineReached _ | .offer _ | .ack _ | .blockTransferDone _
  | .withdraw _ | .bind _ | .bindReply _ | .commitMessage _ | .returnMessage _ | .desync _ | .chsyncArrival _
  | .timeout _ | .peerUnreachable _ _ | .probeOriginate _ | .probe _ | .echo _ | .engagementExpiry _ | .hangReport _
  | .trapRecord _ | .translationWalk _ _ _ | .faultEntrySend _ _ _ | .replayCheck _ | .replayStream _
  | .replayDrainEnd _ | .stepSeal _ | .arrive _ | .call _ | .steplimExpiry _ | .entryStream _ | .streamDone _
  | .applied _ | .release _ | .launchWindowWrite _ _ _ _ _ | .depdecWrite _ _ _ _ | .cancelWrite _ _ _ _
  | .qctlWrite _ _ _ _ | .slotReport _ _ | .slotReportForward _ | .mirrorWrite _ | .mirrorAck _ | .chunk _
  | .chunkRefused _ | .chunkReport _ | .chunkReportResend _ _ | .countIncrement _ | .countDecrement _
  | .completionSend _ | .masterFailover _ | .jobCancel _ | .cancelAck _ | .drain _ | .drained _ | .semRead _ _ _
  | .semWrite _ _ _ _ | .cdomWrite _ _ | .cdomClearDone _ | .windowWrite _ _ _ _ | .descriptorWrite _ _ _ _
  | .hostEndpointWrite _ _ _ _ | .hostidxWrite _ _ _ | .pkgevtClear _ _ | .stepctlWrite _ _ | .stepovfWrite _ _
  | .registerWrite _ _ _ _ | .attestation _ _ | .attestationComplete _ _ | .configuration _ _ | .beginImage _ _
  | .imageBlock _ _ | .endImage _ _ | .imageVerifyComplete _ | .unknownCommand _ _ _
  | .hostMemoryWrite _ _ _ _ _ _ _ | .hostMemoryRead _ _ _ _ _ _ | .pcieLinkDown _ _ | .packageReset _
  | .bringupPhaseTimeout _ _ | .podFormation | .thermalThrottle _ _ | .thermalUnthrottle _ _ | .thermalTrip _ _
  | .linkCrcFail _ _ | .delanFrame _ _ _ | .linkRetrain _ _ | .retrainComplete _ _ _ _ | .packageUnreachable _
  | .correctedError _ _ _ | .uncorrectableError _ _ | .patrolScrub _ _ _ _ | .dieFence _ _ _ | .baseDieFence _ _ _
  | .remoteOperation _ | .remoteOperationReply _ | .maintenanceComplete _ | .deviceLaunch _
  | .bringupPhaseComplete _ _ _ | .windowClearDone _ _ | .pcieLinkUp _ _ | .postedWriteFailure _ _
  | .hbmRefreshPowerLoss _ => none

/-- Decoding one instruction word: select the member, refuse nonzero reserved fields, refuse unassigned selectors. -/
def decodeWord (w : IWord) : Except DecodeError Instr :=
  match selectMember w with
  | none => .error .noMember
  | some i =>
    if encode i = some w then
      if i.wellFormed then .ok i else .error .unassignedSelector
    else .error .reservedField

/-- The word held in four bytes, little-endian (R2, R51). -/
def wordOfBytes (b0 b1 b2 b3 : Byte) : IWord := b3 ++ b2 ++ b1 ++ b0

/-- The bytes of a word, lowest address first (R2). -/
def bytesOfWord (w : IWord) : List Byte :=
  [w.extractLsb' 0 8, w.extractLsb' 8 8, w.extractLsb' 16 8, w.extractLsb' 24 8]

/-- Decoding the bytes at an address: the instruction, and the bytes after it. -/
def decode : List Byte → Except DecodeError (Instr × List Byte)
  | b0 :: b1 :: b2 :: b3 :: rest =>
    match decodeWord (wordOfBytes b0 b1 b2 b3) with
    | .ok i => .ok (i, rest)
    | .error e => .error e
  | _ => .error .tooShort

/-- The instruction the decoder reads from an instruction of `nbits` bits numbered as the opcode table numbers them;
every instruction is one 32-bit word (R51), so bits above it are not part of it. -/
def decodeTableWord (nbits w : Nat) : Option Instr :=
  match decode (bytesOfWord (BitVec.ofNat 32 (w % 2 ^ nbits))) with
  | .ok (i, _) => some i
  | .error _ => none

end Sys2Proof
end

