-- ==== Sys2Proof/Config.lean ====
section
/-! DEFINITION. Sys2Proof/Config.lean: what an implementation fixes and this specification leaves open. Each free value
is an opaque constant without a body: nothing can be proved of its value, so a statement holds whatever it is. -/

namespace Sys2Proof.Config

/-- Free value (log 5): which of the codes that R141's bound allows the special-function hardware returns, as a fixed
function of the function code, the type, FTZ and the input bits (R141). -/
opaque sfuPick (fn ty : Nat) (ftz : Bool) (input : Nat) : Nat

/-- Free value (log 6): whether a granule of a copy whose source and destination overlap receives the source as it was
before the command (true) or after the command's own writes (R160), as a function of the counter the step reads and the
granule. -/
opaque overlapOld (counter granule : Nat) : Bool

/-- Free value (log 97): which of its dirty lines a full cluster cache writes back to make room, by its place among them
modulo their number (R14 gives the size of the cache and no policy), as a function of the counter the step reads. -/
opaque victimLine (counter : Nat) : Nat

/-- Free value (log 7): the public half of the package's identity key, X then Y (R361). -/
opaque publicKey (package : Nat) : BitVec 768

/-- Free value (log 7): the signature the package's identity key makes over a digest, r then s (R361). -/
opaque signature (package : Nat) (digest : BitVec 384) : BitVec 768

/-- Free value (log 7): whether the boot ROM's key verifies the signature of a firmware image (R362). -/
opaque imageVerifies (image : List Byte) : Bool

/-- Free value (log 9): the 64-bit words a read of a register the map defines but gives no value returns. -/
opaque freeWord (counter : Nat) : Word

/-- Free value (log 10): where the package monitor's firmware begins (R385 gives no address). -/
opaque monitorEntry (package : Nat) : Word

/-- Free value (log 10): the granule at which the monitor firmware places its endpoint's ring, and how many 3-granule
slots the ring has beyond the first (R414 gives neither). -/
opaque monitorRing (package : Nat) : Nat × Nat

/-- The revision field of PKGID on the part the manual describes (R356). -/
def revision : Nat := 0x0001

/-- The part number field of PKGID (R356). -/
def partNumber : Nat := 0x2048

/-- The endpoint index of the package monitor endpoint on core 255 (R414). -/
def monitorIndex : Nat := 0

end Sys2Proof.Config
end

