-- ==== Sys2Proof/Machine/Aes.lean ====
section
/-! DEFINITION. The ciphers the specification names: AES-128 for handle checks (R349), AES-256-XTS for HBM lines (R347),
SHA-384 for measurements (R361, R386). A block is 16 bytes as numbers, in the order of the standards. -/

namespace Sys2Proof.Machine.Aes

/-- Multiplication by x in GF(2^8) modulo x^8 + x^4 + x^3 + x + 1. -/
def xtime (a : Nat) : Nat := if a < 128 then 2 * a else (2 * a) % 256 ^^^ 0x1B

/-- Multiplication in GF(2^8), over the bits of `b`. -/
def gmul (a b : Nat) : Nat → Nat
  | 0 => 0
  | n + 1 => (if b % 2 = 1 then a else 0) ^^^ gmul (xtime a) (b / 2) n

/-- The inverse in GF(2^8), as a^254; zero for zero. -/
def ginv (a : Nat) : Nat :=
  let m := fun x y => gmul x y 8
  let a2 := m a a
  let a3 := m a2 a
  let a6 := m a3 a3
  let a12 := m a6 a6
  let a15 := m a12 a3
  let a30 := m a15 a15
  let a60 := m a30 a30
  let a120 := m a60 a60
  let a126 := m a120 a6
  let a127 := m a126 a
  m a127 a127

/-- A byte rotated left. -/
def rotl8 (a n : Nat) : Nat := (a * 2 ^ n) % 256 ||| a / 2 ^ (8 - n)

/-- The S-box. -/
def sub (a : Nat) : Nat :=
  let b := ginv a
  b ^^^ rotl8 b 1 ^^^ rotl8 b 2 ^^^ rotl8 b 3 ^^^ rotl8 b 4 ^^^ 0x63

/-- The inverse S-box. -/
def invSub (a : Nat) : Nat := ginv (rotl8 a 1 ^^^ rotl8 a 3 ^^^ rotl8 a 6 ^^^ 0x05)

/-- Byte-wise exclusive or. -/
def xorB : List Nat → List Nat → List Nat
  | a :: r, b :: s => (a ^^^ b) :: xorB r s
  | _, _ => []

/-- The key words after the first, each made from the word before and the word `nk` before (newest first). -/
def expand (nk : Nat) : Nat → Nat → Nat → List (List Nat) → List (List Nat)
  | 0, _, _, ws => ws
  | n + 1, i, rc, ws =>
    match ws with
    | [] => []
    | t :: _ =>
      let old := ws.getD (nk - 1) []
      let rotated := t.tail ++ t.take 1
      let u := if i % nk = 0 then xorB (rotated.map sub) [rc, 0, 0, 0]
        else if nk > 6 && i % nk = 4 then t.map sub else t
      expand nk n (i + 1) (if i % nk = 0 then xtime rc else rc) (xorB old u :: ws)

/-- A key cut into words of 4 bytes. -/
def words4 : Nat → List Nat → List (List Nat)
  | 0, _ => []
  | n + 1, k => k.take 4 :: words4 n (k.drop 4)

/-- Words joined into round keys of 16 bytes. -/
def join4 : List (List Nat) → List (List Nat)
  | a :: b :: c :: d :: r => (a ++ b ++ c ++ d) :: join4 r
  | _ => []

/-- The round keys of a 16-byte or 32-byte key. -/
def schedule (key : List Nat) : List (List Nat) :=
  let nk := key.length / 4
  join4 (expand nk (4 * (nk + 7) - nk) nk 1 (words4 nk key).reverse).reverse

/-- The bytes of a block at the given places. -/
def pick (b : List Nat) (ix : List Nat) : List Nat := ix.map fun i => b.getD i 0

def shiftRows (b : List Nat) : List Nat := pick b [0, 5, 10, 15, 4, 9, 14, 3, 8, 13, 2, 7, 12, 1, 6, 11]

def invShiftRows (b : List Nat) : List Nat := pick b [0, 13, 10, 7, 4, 1, 14, 11, 8, 5, 2, 15, 12, 9, 6, 3]

/-- The columns of a block multiplied by the circulant matrix of the four factors. -/
def mixWith (f0 f1 f2 f3 : Nat) : List Nat → List Nat
  | a :: b :: c :: d :: r =>
    let g := fun f x => gmul x f 4
    (g f0 a ^^^ g f1 b ^^^ g f2 c ^^^ g f3 d) :: (g f3 a ^^^ g f0 b ^^^ g f1 c ^^^ g f2 d)
      :: (g f2 a ^^^ g f3 b ^^^ g f0 c ^^^ g f1 d) :: (g f1 a ^^^ g f2 b ^^^ g f3 c ^^^ g f0 d)
      :: mixWith f0 f1 f2 f3 r
  | _ => []

/-- The rounds after the first key addition; the last has no column mixing. -/
def rounds : List (List Nat) → List Nat → List Nat
  | [], b => b
  | [k], b => xorB (shiftRows (b.map sub)) k
  | k :: r, b => rounds r (xorB (mixWith 2 3 1 1 (shiftRows (b.map sub))) k)

/-- AES encryption of a block. -/
def encrypt (key b : List Nat) : List Nat :=
  match schedule key with
  | [] => b
  | k :: r => rounds r (xorB b k)

/-- The inverse rounds, from the last round key back. -/
def invRounds : List (List Nat) → List Nat → List Nat
  | [], b => b
  | [k], b => xorB b k
  | k :: r, b => invRounds r (mixWith 14 11 13 9 (xorB b k) |> fun x => (invShiftRows x).map invSub)

/-- AES decryption of a block. -/
def decrypt (key b : List Nat) : List Nat :=
  match (schedule key).reverse with
  | [] => b
  | k :: r => invRounds r ((invShiftRows (xorB b k)).map invSub)

/-- A number as little-endian bytes. -/
def bytesOf (v : Nat) : Nat → List Nat
  | 0 => []
  | n + 1 => v % 256 :: bytesOf (v / 256) n

/-- Little-endian bytes as a number. -/
def numOf : List Nat → Nat
  | [] => 0
  | b :: r => b + 256 * numOf r

/-- The next tweak of XTS: multiplication by x in GF(2^128). -/
def nextTweak (t : Nat) : Nat := if t < 2 ^ 127 then 2 * t else (2 * t) % 2 ^ 128 ^^^ 0x87

/-- The blocks of a data unit enciphered or deciphered in XTS with the tweak of the first. -/
def xtsBlocks (enc : Bool) (key : List Nat) : Nat → Nat → List Nat → List Nat
  | 0, _, _ => []
  | n + 1, t, b =>
    let tw := bytesOf t 16
    let x := xorB (b.take 16) tw
    xorB (if enc then encrypt key x else decrypt key x) tw ++ xtsBlocks enc key n (nextTweak t) (b.drop 16)

/-- A 64-byte line under 512 bits of key material, its physical address as the tweak (R347). -/
def xtsLine (enc : Bool) (material addr : Nat) (line : List Nat) : List Nat :=
  let k := bytesOf material 64
  xtsBlocks enc (k.take 32) 4 (numOf (encrypt (k.drop 32) (bytesOf addr 16))) line

/-! ## SHA-384 -/

/-- Whether a number has no divisor from 2 to `d`. -/
def noDivisor (n : Nat) : Nat → Bool
  | 0 => true
  | 1 => true
  | d + 1 => n % (d + 1) ≠ 0 && noDivisor n d

/-- The first `n` primes from `p` on, trying at most `fuel` numbers. -/
def primes : Nat → Nat → Nat → List Nat
  | 0, _, _ => []
  | fuel + 1, n, p => if n = 0 then [] else
    if noDivisor p (min (p - 1) (2 ^ (Nat.log2 p / 2 + 1))) then p :: primes fuel (n - 1) (p + 1) else primes fuel n (p + 1)

/-- The integer root of degree `k` of `n`, bit by bit from bit `b − 1`. -/
def root (k n : Nat) : Nat → Nat → Nat
  | 0, r => r
  | b + 1, r => if (r + 2 ^ b) ^ k ≤ n then root k n b (r + 2 ^ b) else root k n b r

/-- The first 64 fractional bits of the cube root of a prime: the round constants. -/
def roundConst (p : Nat) : BitVec 64 := BitVec.ofNat 64 (root 3 (p * 2 ^ 192) 68 0)

/-- The first 64 fractional bits of the square root of a prime: the initial hash words. -/
def initWord (p : Nat) : BitVec 64 := BitVec.ofNat 64 (root 2 (p * 2 ^ 128) 69 0)

/-- The message schedule, newest word first. -/
def msgSchedule : Nat → List (BitVec 64) → List (BitVec 64)
  | 0, w => w
  | n + 1, w =>
    let w2 := w.getD 1 0
    let w15 := w.getD 14 0
    let s1 := w2.rotateRight 19 ^^^ w2.rotateRight 61 ^^^ w2 >>> 6
    let s0 := w15.rotateRight 1 ^^^ w15.rotateRight 8 ^^^ w15 >>> 7
    msgSchedule n ((s1 + w.getD 6 0 + s0 + w.getD 15 0) :: w)

/-- The rounds of the compression function over the schedule and the constants. -/
def shaRounds : List (BitVec 64) → List (BitVec 64) → List (BitVec 64) → List (BitVec 64)
  | w :: ws, k :: ks, [a, b, c, d, e, f, g, h] =>
    let t1 := h + (e.rotateRight 14 ^^^ e.rotateRight 18 ^^^ e.rotateRight 41) + ((e &&& f) ^^^ (~~~e &&& g)) + k + w
    let t2 := (a.rotateRight 28 ^^^ a.rotateRight 34 ^^^ a.rotateRight 39) + ((a &&& b) ^^^ (a &&& c) ^^^ (b &&& c))
    shaRounds ws ks [t1 + t2, a, b, c, d + t1, e, f, g]
  | _, _, v => v

/-- The big-endian value of bytes. -/
def beVal (l : List Nat) : Nat := l.foldl (fun v b => v * 256 + b) 0

/-- 16 words of 8 bytes. -/
def words8 : Nat → List Nat → List (BitVec 64)
  | 0, _ => []
  | n + 1, l => BitVec.ofNat 64 (beVal (l.take 8)) :: words8 n (l.drop 8)

/-- Word-wise addition. -/
def addW : List (BitVec 64) → List (BitVec 64) → List (BitVec 64)
  | a :: r, b :: s => (a + b) :: addW r s
  | _, _ => []

/-- The blocks of a padded message. -/
def shaBlocks (ks : List (BitVec 64)) : Nat → List Nat → List (BitVec 64) → List (BitVec 64)
  | 0, _, h => h
  | n + 1, l, h =>
    let w := (msgSchedule 64 (words8 16 (l.take 128)).reverse).reverse
    shaBlocks ks n (l.drop 128) (addW h (shaRounds w ks h))

/-- SHA-384 of a list of bytes, as a 384-bit number whose most significant byte is the digest's first. -/
def sha384 (msg : List Nat) : BitVec 384 :=
  let ps := primes 500 80 2
  let n := msg.length
  let padded := msg ++ [0x80] ++ List.replicate ((239 - n % 128) % 128) 0 ++ (bytesOf (8 * n) 16).reverse
  let h0 := ((ps.take 16).drop 8).map initWord
  let h := shaBlocks (ps.map roundConst) (padded.length / 128) padded h0
  BitVec.ofNat 384 ((h.take 6).foldl (fun v w => v * 2 ^ 64 + w.toNat) 0)

end Sys2Proof.Machine.Aes
end

