-- ==== Sys2Proof/Machine/Numfmt.lean ====
section
/-! DEFINITION. Sys2Proof/Machine/Numfmt.lean: number formats, rounding and conversions (04 R82 to R106). Values are
exact: a sign, a magnitude m · 2^e, and a sticky mark saying that the true magnitude lies strictly between m and m + 1
units, which quotients and square roots need and which no other value carries. -/

namespace Sys2Proof.Machine

/-- The sticky flags of one operation, as FMTCTL[12:8] holds them: NV, DZ, OF, UF, NX from bit 0 up (R38, R89). -/
abbrev FFlags := BitVec 5

def FFlags.none : FFlags := 0
def FFlags.nv : FFlags := 1
def FFlags.dz : FFlags := 2
def FFlags.of : FFlags := 4
def FFlags.uf : FFlags := 8
def FFlags.nx : FFlags := 16

/-- The rounding modes, by their codes in FMTCTL.RM and RND (R87). -/
inductive Rm where
  | rne | rtz | rup | rdn
deriving DecidableEq, Repr

def Rm.ofCode (c : Nat) : Rm :=
  match c % 4 with
  | 0 => .rne
  | 1 => .rtz
  | 2 => .rup
  | _ => .rdn

/-- The floating-point formats of R83. -/
inductive FFmt where
  | fp64 | fp32 | bf16 | fp16 | e4m3 | e5m2 | e3m2 | e2m3 | e2m1 | e8m10
deriving DecidableEq, Repr

/-- Exponent bits (R83). -/
def FFmt.ebits : FFmt → Nat
  | .fp64 => 11 | .fp32 => 8 | .bf16 => 8 | .fp16 => 5 | .e4m3 => 4
  | .e5m2 => 5 | .e3m2 => 3 | .e2m3 => 2 | .e2m1 => 2 | .e8m10 => 8

/-- Mantissa bits m (R83). -/
def FFmt.mbits : FFmt → Nat
  | .fp64 => 52 | .fp32 => 23 | .bf16 => 7 | .fp16 => 10 | .e4m3 => 3
  | .e5m2 => 2 | .e3m2 => 2 | .e2m3 => 3 | .e2m1 => 1 | .e8m10 => 10

/-- Bias (R83). -/
def FFmt.bias : FFmt → Nat
  | .fp64 => 1023 | .fp32 => 127 | .bf16 => 127 | .fp16 => 15 | .e4m3 => 7
  | .e5m2 => 15 | .e3m2 => 3 | .e2m3 => 1 | .e2m1 => 1 | .e8m10 => 127

/-- Formats with infinity codes (R83). -/
def FFmt.hasInf : FFmt → Bool
  | .e4m3 | .e3m2 | .e2m3 | .e2m1 => false
  | _ => true

/-- Formats with NaN codes (R83). -/
def FFmt.hasNaN : FFmt → Bool
  | .e3m2 | .e2m3 | .e2m1 => false
  | _ => true

/-- The narrow formats: codes 5 to 9 (R82). -/
def FFmt.narrow : FFmt → Bool
  | .e4m3 | .e5m2 | .e3m2 | .e2m3 | .e2m1 => true
  | _ => false

/-- The exponent of the smallest normal value (R83). -/
def FFmt.emin (F : FFmt) : Int := 1 - (F.bias : Int)

/-- The exponent of the largest finite value (R83). -/
def FFmt.emax (F : FFmt) : Int :=
  (2 ^ F.ebits : Nat) - (if F.hasInf then 2 else 1) - (F.bias : Int)

/-- Total width in bits. -/
def FFmt.width (F : FFmt) : Nat := 1 + F.ebits + F.mbits

/-- The sign bit of a code. -/
def FFmt.signBit (F : FFmt) (neg : Bool) : Nat := if neg then 2 ^ (F.ebits + F.mbits) else 0

/-- The largest finite code without its sign (R83). -/
def FFmt.maxMag (F : FFmt) : Nat :=
  match F with
  | .e4m3 => 0x7E
  | F => if F.hasInf then (2 ^ F.ebits - 1) * 2 ^ F.mbits - 1 else 2 ^ (F.ebits + F.mbits) - 1

/-- An extended real, exact up to the sticky mark, or a NaN with its sign, signalling mark and payload of `pw` bits. -/
inductive XVal where
  | nan (neg sig : Bool) (pay pw : Nat)
  | inf (neg : Bool)
  | num (neg : Bool) (m : Nat) (e : Int) (sticky : Bool)
deriving DecidableEq, Repr

/-- The quiet NaN of positive sign and zero payload. -/
def XVal.qnan : XVal := .nan false false 0 0

def XVal.isNaN : XVal → Bool
  | .nan .. => true
  | _ => false

def XVal.isSNaN : XVal → Bool
  | .nan _ s _ _ => s
  | _ => false

def XVal.isInf : XVal → Bool
  | .inf _ => true
  | _ => false

def XVal.isZero : XVal → Bool
  | .num _ m _ s => m = 0 && !s
  | _ => false

def XVal.neg : XVal → Bool
  | .nan n _ _ _ => n
  | .inf n => n
  | .num n _ _ _ => n

/-- The zero of a sign. -/
def XVal.zero (neg : Bool) : XVal := .num neg 0 0 false

/-- An exact integer; zero is positive. -/
def XVal.ofInt (i : Int) : XVal := .num (i < 0) i.natAbs 0 false

/-- 2^e. -/
def XVal.pow2 (e : Int) : XVal := .num false 1 e false

/-- The value multiplied by 2^k. -/
def XVal.scale (x : XVal) (k : Int) : XVal :=
  match x with
  | .num n m e s => .num n m (e + k) s
  | x => x

/-- The value with the other sign. -/
def XVal.negate : XVal → XVal
  | .nan n s p w => .nan (!n) s p w
  | .inf n => .inf (!n)
  | .num n m e s => .num (!n) m e s

/-- The value of a code (R84); E8M10 and the 8-bit NaN codes decode as quiet NaNs with zero payload. -/
def FFmt.decode (F : FFmt) (c : Nat) : XVal :=
  let M := c % 2 ^ F.mbits
  let E := c / 2 ^ F.mbits % 2 ^ F.ebits
  let s : Bool := c / 2 ^ (F.ebits + F.mbits) % 2 = 1
  let top := 2 ^ F.ebits - 1
  if F.hasInf && E = top && M = 0 then .inf s
  else if F.hasInf && E = top then
    match F with
    | .fp64 | .fp32 | .bf16 | .fp16 =>
      .nan s (M < 2 ^ (F.mbits - 1)) (M % 2 ^ (F.mbits - 1)) (F.mbits - 1)
    | _ => .nan s false 0 0
  else if F = .e4m3 && E = top && M = 7 then .nan s false 0 0
  else if E = 0 then .num s M (F.emin - F.mbits) false
  else .num s (2 ^ F.mbits + M) ((E : Int) - F.bias - F.mbits) false

/-- The NaN code of a format carrying a NaN's sign and the top of its payload, quiet (R93). -/
def nanConv (F : FFmt) (neg : Bool) (pay pw : Nat) : Nat :=
  match F with
  | .e4m3 | .e5m2 => F.signBit neg + 0x7F
  | .e8m10 => F.signBit neg + 0xFF * 2 ^ 10 + 0x200
  | F =>
    let tw := F.mbits - 1
    F.signBit neg + (2 ^ F.ebits - 1) * 2 ^ F.mbits + 2 ^ tw
      + (if tw ≤ pw then pay / 2 ^ (pw - tw) else pay * 2 ^ (tw - pw))

/-- The default NaN of a format (R92). -/
def FFmt.defaultNaN (F : FFmt) : Nat := nanConv F false 0 0

/-- Overflow of R88: what a magnitude above the largest finite value becomes. -/
def overflow (F : FFmt) (neg : Bool) (rm : Rm) (sat : Bool) (isInf : Bool) : Nat :=
  if F.narrow && sat then F.signBit neg + F.maxMag
  else if !isInf && (rm = .rtz || (rm = .rup && neg) || (rm = .rdn && !neg)) then
    F.signBit neg + F.maxMag
  else if F.hasInf then F.signBit neg + (2 ^ F.ebits - 1) * 2 ^ F.mbits
  else if F.hasNaN then nanConv F neg 0 0
  else F.signBit neg + F.maxMag

/-- RoundInt of R87 on the magnitude m · 2^e measured in units of 2^q: the whole number of units, and whether the
result is inexact. -/
def roundUnits (rm : Rm) (neg : Bool) (m : Nat) (e : Int) (sticky : Bool) (q : Int) : Nat × Bool :=
  let k := q - e
  let sh := k.toNat
  let f := if 0 ≤ k then m / 2 ^ sh else m * 2 ^ (-k).toNat
  let rem := if 0 ≤ k then m % 2 ^ sh else 0
  let inexact := rem ≠ 0 || sticky
  let twice := 2 * rem
  let above := twice > 2 ^ sh || (twice = 2 ^ sh && sticky)
  let tie := twice = 2 ^ sh && !sticky && 0 < sh
  let up :=
    match rm with
    | .rne => (above && 0 < sh) || (tie && f % 2 = 1)
    | .rtz => false
    | .rup => !neg
    | .rdn => neg
  (if inexact && up then f + 1 else f, inexact)

/-- Floor of log2 of the magnitude m · 2^e, m ≠ 0. -/
def floorLog2 (m : Nat) (e : Int) : Int := (Nat.log2 m : Int) + e

/-- Round of R88: the code, and the flags it raises. -/
def round (F : FFmt) (rm : Rm) (sat : Bool) (x : XVal) : Nat × FFlags :=
  match x with
  | .nan neg sig pay pw =>
    if F.hasNaN then (nanConv F neg pay pw, if sig then .nv else .none)
    else (F.signBit neg + F.maxMag, .nv)
  | .inf neg => (overflow F neg rm sat true, if F.hasInf then .none else .nv)
  | .num neg m e sticky =>
    if m = 0 && !sticky then (F.signBit neg, .none)
    else
      let lg := floorLog2 m e
      let q := max lg F.emin - F.mbits
      let (n, inexact) := roundUnits rm neg m e sticky q
      let mag := (q + F.mbits + F.bias - 1).toNat * 2 ^ F.mbits + n
      let fl := if inexact then FFlags.nx else .none
      let fl := if inexact && lg < F.emin then fl ||| .uf else fl
      if F.maxMag < mag then (overflow F neg rm sat false, fl ||| .of ||| .nx)
      else (F.signBit neg + mag, fl)

/-- RoundNE of R73. -/
def roundNE (F : FFmt) (sat : Bool) (x : XVal) : Nat × FFlags := round F .rne sat x

/-- Whether a code is a nonzero value below 2^Emin. -/
def FFmt.isSubnormal (F : FFmt) (c : Nat) : Bool :=
  let mag := c % 2 ^ (F.ebits + F.mbits)
  mag ≠ 0 && mag < 2 ^ F.mbits

/-- Reading an input operand under FTZ (R91). -/
def FFmt.read (F : FFmt) (ftz : Bool) (c : Nat) : XVal :=
  if ftz && F.isSubnormal c then .zero (c / 2 ^ (F.ebits + F.mbits) % 2 = 1) else F.decode c

/-- Round, and under FTZ the flush of a tiny result (R91). -/
def roundF (F : FFmt) (rm : Rm) (ftz : Bool) (x : XVal) : Nat × FFlags :=
  let (c, fl) := round F rm false x
  match x with
  | .num .. =>
    if ftz && F.isSubnormal c then
      (F.signBit (c / 2 ^ (F.ebits + F.mbits) % 2 = 1), fl ||| .uf ||| .nx)
    else (c, fl)
  | _ => (c, fl)

/-- The signed mantissa at the exponent `e0 ≤ e`. -/
def alignTo (e0 : Int) (neg : Bool) (m : Nat) (e : Int) : Int :=
  let v : Int := (m * 2 ^ (e - e0).toNat : Nat)
  if neg then -v else v

/-- The exact sum of two extended reals that is not an invalid one; the sign of a zero sum by R119. -/
def addX (rm : Rm) (a b : XVal) : XVal :=
  match a, b with
  | .num na ma ea sa, .num nb mb eb sb =>
    let e0 := min ea eb
    let v := alignTo e0 na ma ea + alignTo e0 nb mb eb
    if v = 0 then
      .zero ((na && nb && ma = 0 && mb = 0) || rm = .rdn)
    else .num (v < 0) v.natAbs e0 (sa || sb)
  | .num .., b => b
  | a, .num .. => a
  | a, _ => a

/-- The exact product of two extended reals that is not 0 · ∞. -/
def mulX (a b : XVal) : XVal :=
  match a, b with
  | .num na ma ea sa, .num nb mb eb sb => .num (na != nb) (ma * mb) (ea + eb) (sa || sb)
  | a, b => .inf (a.neg != b.neg)

/-- The quotient of two extended reals that is not 0/0 or ∞/∞, with at least 128 bits before the sticky mark. -/
def divX (a b : XVal) : XVal :=
  match a, b with
  | .num na ma ea _, .num nb mb eb _ =>
    if mb = 0 then .inf (na != nb)
    else
      let k := 128 + Nat.log2 mb
      let n := ma * 2 ^ k
      .num (na != nb) (n / mb) (ea - eb - k) (n % mb ≠ 0)
  | .inf na, b => .inf (na != b.neg)
  | a, _ => .zero (a.neg != b.neg)

/-- The integer square root by bits from `2^k` down. -/
def isqrtFrom (n : Nat) : Nat → Nat → Nat
  | 0, r => r
  | k + 1, r => let t := r + 2 ^ k; isqrtFrom n k (if t * t ≤ n then t else r)

/-- The integer square root. -/
def isqrt (n : Nat) : Nat := isqrtFrom n (Nat.log2 n / 2 + 1) 0

/-- The square root of a value that is not below zero other than −0. -/
def sqrtX (a : XVal) : XVal :=
  match a with
  | .num neg m e _ =>
    if m = 0 then .zero neg
    else
      let k := 130 + Nat.log2 m
      let k := if (e - k) % 2 = 0 then k else k + 1
      let n := m * 2 ^ k
      let r := isqrt n
      .num false r ((e - k) / 2) (r * r ≠ n)
  | a => a

/-- a < b on values that are not NaN; −0 equals +0. -/
def ltX (a b : XVal) : Bool :=
  match a, b with
  | .num na ma ea _, .num nb mb eb _ =>
    let e0 := min ea eb
    alignTo e0 na ma ea < alignTo e0 nb mb eb
  | .inf na, .inf nb => na && !nb
  | .inf na, _ => na
  | _, .inf nb => !nb
  | _, _ => false

/-- a = b on values that are not NaN; −0 equals +0. -/
def eqX (a b : XVal) : Bool := !ltX a b && !ltX b a

/-- The first NaN of a list, as R92 orders the operands. -/
def firstNaN : List XVal → Option XVal
  | [] => none
  | x :: xs => if x.isNaN then some x else firstNaN xs

/-- The members of R119. -/
inductive FMember where
  | add | sub | mul | fma | div | sqrt
deriving DecidableEq, Repr

/-- Invalid of R119, on operands none of which is NaN. -/
def invalidOp (mem : FMember) (a b c : XVal) : Bool :=
  match mem with
  | .add => a.isInf && b.isInf && a.neg != b.neg
  | .sub => a.isInf && b.isInf && a.neg == b.neg
  | .mul => (a.isZero && b.isInf) || (a.isInf && b.isZero)
  | .fma =>
    (a.isZero && b.isInf) || (a.isInf && b.isZero)
      || ((a.isInf || b.isInf) && c.isInf && (a.neg != b.neg) != c.neg)
  | .div => (a.isZero && b.isZero) || (a.isInf && b.isInf)
  | .sqrt => a.neg && !a.isZero

/-- The operands of a member, in the order of R92. -/
def FMember.operands (mem : FMember) (a b c : XVal) : List XVal :=
  match mem with
  | .fma => [a, b, c]
  | .sqrt => [a]
  | .add | .sub | .mul | .div => [a, b]

/-- The exact e of R119. -/
def FMember.exact (mem : FMember) (rm : Rm) (a b c : XVal) : XVal :=
  match mem with
  | .add => addX rm a b
  | .sub => addX rm a b.negate
  | .mul => mulX a b
  | .fma => addX rm (mulX a b) c
  | .div => divX a b
  | .sqrt => sqrtX a

/-- FADD, FSUB, FMUL, FMA, FDIV and FSQRT on codes of F (R119); `ftz` only in the vector unit (R91, R132). -/
def farith (mem : FMember) (F : FFmt) (rm : Rm) (ftz : Bool) (ca cb cc : Nat) : Nat × FFlags :=
  let a := F.read ftz ca
  let b := F.read ftz cb
  let c := F.read ftz cc
  let ops := mem.operands a b c
  let fl0 : FFlags := if ops.any XVal.isSNaN then .nv else .none
  match firstNaN ops with
  | some (.nan neg _ pay pw) => (nanConv F neg pay pw, fl0)
  | _ =>
    if invalidOp mem a b c then (F.defaultNaN, .nv)
    else
      let e := mem.exact rm a b c
      let dz : FFlags :=
        if mem = .div && b.isZero && !a.isZero && !a.isInf then .dz else .none
      let (code, f2) := roundF F rm ftz e
      (code, fl0 ||| dz ||| f2)

/-- FMIN and FMAX on codes (R120): −0 is less than +0, a NaN loses to any number. -/
def fminmax (isMax : Bool) (F : FFmt) (ftz : Bool) (ca cb : Nat) : Nat × FFlags :=
  let a := F.read ftz ca
  let b := F.read ftz cb
  let flush (x : XVal) (c : Nat) : Nat :=
    if ftz && F.isSubnormal c then F.signBit x.neg else c
  let fl : FFlags := if a.isSNaN || b.isSNaN then .nv else .none
  match a, b with
  | .nan na _ pa wa, .nan _ _ _ _ => (nanConv F na pa wa, fl)
  | .nan _ _ _ _, _ => (flush b cb, fl)
  | _, .nan _ _ _ _ => (flush a ca, fl)
  | _, _ =>
    let aLess := ltX a b || (eqX a b && a.neg && !b.neg)
    (if aLess != isMax then flush a ca else flush b cb, fl)

/-- The conditions of FCMP and VCMP on values: EQ, LT, LE, UN (R121). -/
def fcmpVal (cond : Nat) (a b : XVal) : Bool × FFlags :=
  let un := a.isNaN || b.isNaN
  let sn := a.isSNaN || b.isSNaN
  match cond with
  | 0 => (!un && eqX a b, if sn then .nv else .none)
  | 1 => (!un && ltX a b, if un then .nv else .none)
  | 2 => (!un && !ltX b a, if un then .nv else .none)
  | _ => (un, if sn then .nv else .none)

/-- FCLASS (R121): exactly one of ten bits. -/
def fclassOf (F : FFmt) (c : Nat) : Nat :=
  match F.decode c with
  | .nan _ sig _ _ => if sig then 2 ^ 8 else 2 ^ 9
  | .inf neg => if neg then 1 else 2 ^ 7
  | .num neg m _ _ =>
    if m = 0 then if neg then 2 ^ 3 else 2 ^ 4
    else if F.isSubnormal c then if neg then 2 ^ 2 else 2 ^ 5
    else if neg then 2 ^ 1 else 2 ^ 6

/-- A floating value converted to an integer type of width `w` (R95): the low `w` bits, and the flags. -/
def toIntType (w : Nat) (signed : Bool) (rm : Rm) (x : XVal) : Nat × FFlags :=
  let hi : Int := if signed then (2 ^ (w - 1) : Nat) - 1 else (2 ^ w : Nat) - 1
  let lo : Int := if signed then -((2 ^ (w - 1) : Nat) : Int) else 0
  match x with
  | .nan .. => (0, .nv)
  | .inf neg => (wrapInt w (if neg then lo else hi), .nv)
  | .num neg m e s =>
    let (n, inexact) := roundUnits rm neg m e s 0
    let v : Int := if neg then -(n : Int) else n
    if hi < v then (wrapInt w hi, .nv)
    else if v < lo then (wrapInt w lo, .nv)
    else (wrapInt w v, if inexact then .nx else .none)

/-- An integer converted to another integer type (R97). A negative value widened to an unsigned type has no exact value: it
saturates to 0 or keeps its low bits, as SAT says (DESIGN CHOICE, log 117). -/
def intToInt (w : Nat) (signed : Bool) (sat : Bool) (v : Int) : Nat :=
  let hi : Int := if signed then (2 ^ (w - 1) : Nat) - 1 else (2 ^ w : Nat) - 1
  let lo : Int := if signed then -((2 ^ (w - 1) : Nat) : Int) else 0
  if sat then wrapInt w (max lo (min hi v)) else wrapInt w v

/-- The format codes of R82. -/
inductive Fmt where
  | raw | float (F : FFmt) | int (w : Nat) (signed : Bool) | lut8 | e8m0
deriving DecidableEq, Repr

/-- The format a 5-bit code names, if the code is not reserved (R82). -/
def Fmt.ofCode : Nat → Option Fmt
  | 0 => some .raw
  | 1 => some (.float .fp64)
  | 2 => some (.float .fp32)
  | 3 => some (.float .bf16)
  | 4 => some (.float .fp16)
  | 5 => some (.float .e4m3)
  | 6 => some (.float .e5m2)
  | 7 => some (.float .e3m2)
  | 8 => some (.float .e2m3)
  | 9 => some (.float .e2m1)
  | 10 => some (.int 8 true)
  | 11 => some (.int 4 true)
  | 12 => some .lut8
  | 13 => some .e8m0
  | 14 => some (.int 32 true)
  | 15 => some (.int 16 true)
  | 16 => some (.int 8 false)
  | _ => none

/-- The floating type F of the scalar FPU and of VR types 0 to 3 (R59, R65). -/
def FFmt.ofType (t : Nat) : FFmt :=
  match t % 4 with
  | 0 => .fp64
  | 1 => .fp32
  | 2 => .bf16
  | _ => .fp16

/-- The value of an E8M0 code (R85). -/
def e8m0Val (c : Nat) : XVal := if c % 256 = 255 then .qnan else .pow2 ((c % 256 : Nat) - 127)

/-- E8M0Enc of R125. -/
def e8m0Enc (x : XVal) : Nat × FFlags :=
  match x with
  | .num neg m e s =>
    if neg || (m = 0 && !s) then (0xFF, .nv)
    else
      let t := floorLog2 m e
      if t < -127 then (0, .uf ||| .nx)
      else if 127 < t then (0xFE, .of ||| .nx)
      else ((t + 127).toNat, if m = 2 ^ Nat.log2 m && !s then .none else .nx)
  | _ => (0xFF, .nv)

/-- The value of an entry of a LUT8 table, held in the 19-bit form (R85, R101). -/
def lutVal (t : BitVec 19) : XVal := FFmt.e8m10.decode t.toNat

/-- Less(x, t) of R102, x not NaN. -/
def lutLess (x t : XVal) : Bool := t.isNaN || ltX x t

/-- The order of two distances of R102: Dist(x, t1) < Dist(x, t2). -/
def lutDistLess (x t1 t2 : XVal) : Bool :=
  let far (t : XVal) : Bool := t.isNaN || (!eqX x t && (t.isInf || x.isInf))
  let eq (t : XVal) : Bool := !t.isNaN && eqX x t
  if eq t1 then !eq t2
  else if far t1 then false
  else if eq t2 then false
  else if far t2 then true
  else
    let d (t : XVal) : XVal :=
      match addX .rne x t.negate with
      | .num _ m e s => .num false m e s
      | y => y
    ltX (d t1) (d t2)

/-- The binary search of LutEncode. -/
def lutSearch (tab : Nat → BitVec 19) (x : XVal) : Nat → Nat → Nat → Nat × Nat
  | 0, lo, hi => (lo, hi)
  | k + 1, lo, hi =>
    if hi - lo > 1 then
      let mid := (lo + hi) / 2
      if lutLess x (lutVal (tab mid)) then lutSearch tab x k lo mid else lutSearch tab x k mid hi
    else (lo, hi)

/-- LutEncode of R102. -/
def lutEncode (tab : Nat → BitVec 19) (x : XVal) : Nat × FFlags :=
  if x.isNaN then (0xFF, .nv)
  else
    let (lo, hi) := lutSearch tab x 8 0 255
    let tl := lutVal (tab lo)
    let th := lutVal (tab hi)
    let c :=
      if lutDistLess x tl th then lo
      else if lutDistLess x th tl then hi
      else if lo % 2 = 0 then lo else hi
    let tc := lutVal (tab c)
    (c, if !tc.isNaN && eqX x tc then .none else .nx)

/-- The value of a code of a format, none for RAW, which is never converted (R82 to R86, R124). -/
def Fmt.val (f : Fmt) (tab : Nat → BitVec 19) (c : Nat) : XVal :=
  match f with
  | .raw => .ofInt (c : Int)
  | .float F => F.decode c
  | .int w true => .ofInt (signedOf w c)
  | .int w false => .ofInt ((c % 2 ^ w : Nat) : Int)
  | .lut8 => lutVal (tab (c % 256))
  | .e8m0 => e8m0Val c

/-- A value converted into a format (R88, R95, R102, R125). -/
def Fmt.enc (f : Fmt) (tab : Nat → BitVec 19) (rm : Rm) (sat : Bool) (x : XVal) : Nat × FFlags :=
  match f with
  | .raw => (0, .none)
  | .float F => round F rm sat x
  | .int w s => toIntType w s rm x
  | .lut8 => lutEncode tab x
  | .e8m0 => e8m0Enc x

/-- The largest finite magnitude of a list: its floor of log2, none when there is no finite nonzero element (R99). -/
def amaxLog (vs : List XVal) : Option Int :=
  vs.foldl (fun acc x =>
    match x with
    | .num _ m e _ =>
      if m = 0 then acc
      else
        match acc with
        | none => some (floorLog2 m e)
        | some a => some (max a (floorLog2 m e))
    | _ => acc) none

/-- MXQuant of R99: the scale code, the element codes, and the flags. -/
def mxQuant (F : FFmt) (sat : Bool) (vs : List XVal) : Nat × List Nat × FFlags :=
  if !F.hasNaN && vs.any XVal.isNaN then (0xFF, vs.map fun _ => 0, .nv)
  else
    let X : Int :=
      match amaxLog vs with
      | none => -127
      | some a => min 127 (max (-127) (a - F.emax))
    let rs := vs.map fun v => round F .rne sat (v.scale (-X))
    ((X + 127).toNat, rs.map (·.1), rs.foldl (fun f r => f ||| r.2) .none)

/-- MXDequant of R100. -/
def mxDequant (F W : FFmt) (e c : Nat) (rm : Rm) : Nat × FFlags :=
  if c % 256 = 255 then (W.defaultNaN, .none)
  else round W rm false ((F.decode e).scale ((c % 256 : Nat) - 127))

/-- One chunk of R104: the accumulator's new FP32 code from its old one and the chunk's operand pairs. A zero product takes
the exclusive or of its operands' signs, an integer operand's too (DESIGN CHOICE, log 125). -/
def chunkSum (acc : Nat) (terms : List (XVal × XVal)) : Nat :=
  let av := FFmt.fp32.decode acc
  let bad := terms.any fun (a, b) =>
    a.isNaN || b.isNaN || (a.isZero && b.isInf) || (a.isInf && b.isZero)
  let prods := terms.map fun (a, b) => mulX a b
  let posInf := prods.any fun p => p.isInf && !p.neg
  let negInf := prods.any fun p => p.isInf && p.neg
  if av.isNaN || bad || (posInf && negInf) then 0x7FC00000
  else
    let S : XVal :=
      if posInf then .inf false
      else if negInf then .inf true
      else
        match prods.foldl (addX .rne) (.zero true) with
        | .num n m e s => if m = 0 then .zero (prods.all fun p => p.neg && p.isZero) else .num n m e s
        | y => y
    let r := FFmt.fp32.decode (roundNE .fp32 false S).1
    if av.isInf && r.isInf && av.neg != r.neg then 0x7FC00000
    else (roundNE .fp32 false (addX .rne av r)).1

/-- The accumulator element after all chunks of 32 pairs, in increasing order (R104). -/
def chunks : Nat → Nat → List (XVal × XVal) → Nat
  | 0, acc, _ => acc
  | _ + 1, acc, [] => acc
  | k + 1, acc, ts => chunks k (chunkSum acc (ts.take 32)) (ts.drop 32)

/-- The fixed tree of R105 over `2^k` values: the result and the flags of every step ORed. -/
def treeReduce (op : Nat → Nat → Nat × FFlags) : Nat → List Nat → FFlags → Nat × FFlags
  | 0, ws, fl => (ws.headD 0, fl)
  | k + 1, ws, fl =>
    let n := ws.length / 2
    let rs := (ws.take n).zipWith op (ws.drop n)
    treeReduce op k (rs.map (·.1)) (rs.foldl (fun f r => f ||| r.2) fl)

end Sys2Proof.Machine
end

