-- ==== Sys2Proof/Machine/Map.lean ====
section
/-! DEFINITION. Finite maps as plain data: lists of (key, value) pairs with strictly rising keys. -/

namespace Sys2Proof.Machine

/-- A sparse table: the entries that differ from what an unlisted key holds, in rising key order. -/
abbrev Map (α : Type) := List (Nat × α)

/-- The value a key holds, or `d` for a key the map does not list. -/
def Map.get {α : Type} (m : Map α) (k : Nat) (d : α) : α :=
  match m with
  | [] => d
  | (j, v) :: r => if j = k then v else Map.get r k d

/-- The value a key holds, if the map lists it. -/
def Map.find? {α : Type} (m : Map α) (k : Nat) : Option α :=
  match m with
  | [] => none
  | (j, v) :: r => if j = k then some v else Map.find? r k

/-- The map with key `k` holding `v`; rising keys stay rising. -/
def Map.put {α : Type} (m : Map α) (k : Nat) (v : α) : Map α :=
  match m with
  | [] => [(k, v)]
  | (j, w) :: r => if k < j then (k, v) :: (j, w) :: r else if j = k then (k, v) :: r else (j, w) :: Map.put r k v

/-- The map without key `k`. -/
def Map.del {α : Type} (m : Map α) (k : Nat) : Map α := m.filter fun e => e.1 ≠ k

/-- The map without the keys from `lo` to `hi − 1`. -/
def Map.delRange {α : Type} (m : Map α) (lo hi : Nat) : Map α := m.filter fun e => !(lo ≤ e.1 && e.1 < hi)

/-- The position of the first element that satisfies `p`. -/
def indexOf {α : Type} (p : α → Bool) : List α → Nat → Option Nat
  | [], _ => none
  | x :: r, n => if p x then some n else indexOf p r (n + 1)

/-- The list without its element at a position. -/
def dropAt {α : Type} : List α → Nat → List α
  | [], _ => []
  | _ :: r, 0 => r
  | x :: r, n + 1 => x :: dropAt r n

/-- The list with its element at a position replaced. -/
def setAt {α : Type} : List α → Nat → α → List α
  | [], _, _ => []
  | _ :: r, 0, y => y :: r
  | x :: r, n + 1, y => x :: setAt r n y

/-- The list with its first element that satisfies `p` removed. -/
def removeFirst {α : Type} (p : α → Bool) : List α → List α
  | [] => []
  | x :: r => if p x then r else x :: removeFirst p r

/-- The numbers from 0 to n − 1. -/
def upTo : Nat → List Nat
  | 0 => []
  | n + 1 => upTo n ++ [n]

/-- The numbers from `lo` on, `n` of them. -/
def fromTo (lo : Nat) : Nat → List Nat
  | 0 => []
  | n + 1 => lo :: fromTo (lo + 1) n

end Sys2Proof.Machine
end

