-- ==== Sys2Proof/Machine/State.lean ====
section
/-! DEFINITION. Sys2Proof/Machine/State.lean: everything the specification gives the machine, as plain data, and the
machine right after reset. The state covers a whole pod of packages; a core, slot or endpoint is named by its number in
the pod (Word.lean). -/

namespace Sys2Proof.Machine

/-- Why the machine stops with a fault. -/
inductive Fault where
  /-- The agenda asks for a turn that is no event of the machine, or names a package, core or unit the machine does not
  have (R11, R14). Raised by `step` only. Safe: no such unit exists. -/
  | noSuchUnit
  deriving DecidableEq, Repr

/-- Why the model refuses to go on. -/
inductive Refusal where
  /-- An instruction of the table without a meaning yet; raised by Dispatch only. Safe: nothing is claimed of it. -/
  | notModelled (mnemonic : String)
  deriving DecidableEq, Repr

/-- LINK.STATE (R33, R240). -/
inductive PState where
  | free | ready | running | parked | stopped | arriving
  deriving DecidableEq, Repr

/-- The drain classes of R178 that make an operation wait. -/
inductive Drain where
  | none | corePoint | package | host | io | podstep | podnow | system
  /-- The core point of an operation that counts as a store for the FENCE bits: no mark of a FENCE waits either (R179). -/
  | stores
  deriving DecidableEq, Repr

/-- What a waiting process waits on (the `obj` of Park, R73; the waits of R246). -/
inductive Wait where
  /-- Not waiting. -/
  | none
  /-- A channel endpoint: WAITK 1, or 2 for a ring. -/
  | endpoint (e : EpId)
  /-- An ALT construction with its guard endpoints, and whether it has a deadline guard: WAITK 3. -/
  | alt (guards : List EpId) (timed : Bool)
  /-- A 64-byte line at a location: WAITK 4. -/
  | line (loc : Nat)
  /-- Room in an engine queue (true: the copy queue): WAITK 5. -/
  | room (copy : Bool)
  /-- The end of engine commands: WAITK 5. -/
  | engines
  /-- A phase flip of the barrier at a location: WAITK 6. -/
  | barrier (loc : Nat)
  /-- The release of a step: WAITK 7. -/
  | step
  /-- A deadline only: WAITK 8. -/
  | sleep
  /-- A translation fault at an address, held by a walker: WAITK 9. -/
  | fault (va : Word)
  /-- The acceptance of a migrating context: WAITK 10. -/
  | migration (target : CoreId)
  /-- A ticket of an ANY endpoint: WAITK 11. -/
  | ticket (e : EpId) (t : Nat)
  /-- A replay: WAITK 12. -/
  | replay
  /-- A drain of the class (R178). -/
  | drain (d : Drain)
  /-- A free entry of the store queue, or the passing of overlapping stores (R173). -/
  | storeQueue
  /-- A heartbeat tick in a cycle after the given one (R181). -/
  | tick (after : Nat)
  /-- Data or a completion from a host port (R187, R188, R225). -/
  | reply
  /-- The reply of a home, a bank or a cluster cache to an access of the instruction (R246; log 96). -/
  | memory
  /-- A remote operation or a maintenance operation: WAITK 14. -/
  | remote
  /-- The forming of the pod (R387). -/
  | pod
  deriving DecidableEq, Repr

/-- How far the instruction in progress has come (R73: Park suspends the pseudocode). -/
inductive Phase where
  /-- It starts from its beginning. -/
  | fresh
  /-- It goes on after a Park or a held wait, with the operand values read at its start, a value its waker gave, and a
  mark its own meaning gives a sense to. -/
  | after (vals : List Word) (v : Word) (mark : Nat)
  deriving DecidableEq, Repr

/-- A vector extension (R28, R30): its slot in the context area, v0 to v31, m1 to m7 (index 0 is not used) and VPROG. -/
structure VExt where
  slot : Nat
  v : Vector (BitVec 512) 32
  m : Vector Word 8
  vprog : Word
  deriving DecidableEq, Repr

/-- Who receives a record (R366, R374, R207). -/
inductive RecDest where
  /-- The package monitor. -/
  | monitor
  /-- The supervisor endpoint of a domain. -/
  | domain (d : Nat)
  /-- The endpoint in PODSUPV. -/
  | pod
  deriving DecidableEq, Repr

/-- A record of R364: who receives it, its words, the process whose accesses its commit releases (R367), and the ticket
it waits with at an endpoint (R259, R366). -/
structure Rec where
  dest : RecDest
  words : List Word
  source : Option (Slot × Word) := none
  ticket : Option (EpId × Nat) := none
  deriving DecidableEq, Repr

/-- A deadlock engagement (R261). -/
structure Engagement where
  origin : Slot
  /-- The origin's PID. -/
  pid : Word
  serial : Nat
  sender : Option Slot
  left : Nat
  since : Nat
  path : List Word
  pathLen : Nat
  deriving DecidableEq, Repr

/-- An engine error waiting for its process's next instruction boundary (R163, R280): the record's KIND, cause,
instruction word and details, and what ROWPROG receives with it. -/
structure EngineStop where
  kind : Nat
  cause : Nat
  word : IWord
  details : List Word
  rowprog : Option Word
  deriving DecidableEq, Repr

/-- One process in its context slot (R25 to R33, R37, R38). -/
structure Proc where
  state : PState
  waitk : BitVec 4
  /-- The WAITK its park gave it, which the fault of an engine command replaces by 9 until the pager's reply (R162). -/
  parkedAs : BitVec 4
  pc : Word
  light : Bool
  supv : Bool
  sstep : Bool
  inalt : Bool
  recording : Bool
  /-- Why its recording was abandoned, 0 while it is open (R269). -/
  recStatus : Nat
  cause : BitVec 8
  domain : BitVec 12
  g : Vector Word 32
  pred : BitVec 8
  tileown : BitVec 8
  prio : BitVec 2
  debt : BitVec 16
  rank : BitVec 32
  limit : BitVec 32
  used : BitVec 32
  qen : BitVec 8
  qdir : BitVec 8
  pool : Word
  fmtctl : Word
  rowprog : Word
  vext : Option VExt
  pid : Word
  job : BitVec 48
  chome : BitVec 11
  chidx : BitVec 10
  chv : Bool
  /-- The package of the core CHOME names: a descendant may live in another package (R302, R328). -/
  chpkg : Nat
  /-- What it waits on. -/
  wait : Wait
  /-- What has ended its wait while a command of its own stands stopped on a fault: the value and mark of its waker. It goes
  on once the command has restarted (R162). -/
  due : Option (Word × Nat)
  /-- Whether it is held at an instruction without having parked (R246), and since when. -/
  held : Option Nat
  phase : Phase
  /-- The instruction in progress and its word (R246, R364). -/
  inflight : Option (Instr × IWord)
  /-- The word of the instruction that completed last (R364, single step). -/
  lastWord : IWord
  deadline : Option Nat
  /-- When it parked (R244, R257, R260). -/
  since : Nat
  /-- In the register file (R244), and when it last ran. -/
  resident : Bool
  lastRan : Nat
  /-- Cycles left of the slice, none while it has been given none (R242), and cycles run beyond it. -/
  slice : Option Nat
  overrun : Nat
  enrolled : Bool
  /-- The step it last arrived in (R202, R203). -/
  arrivedIn : Option Nat
  engaged : Option Engagement
  /-- Its last posted writes to HOST and IO pages: for each port (package · 2 + port) how many writes that port had posted
  with it. They are flushed once a read the port issued after them has been completed (R178). -/
  unflushedHost : Map Nat
  unflushedIo : Map Nat
  /-- The read it waits for at a host port: the port, and how many writes the port had posted before it (R187). -/
  portRead : Option (Nat × Nat)
  /-- The address of the first access lost to a fenced die (R382), with the die and the reason. -/
  lost : Option (Word × Nat × Nat)
  /-- An engine error waiting for the next boundary (R163). -/
  engineErr : Option EngineStop
  /-- The DIEFENCED trap of a FENCE whose drain a lost store was waited for by, until the next boundary (R382). -/
  fenceErr : Option EngineStop
  /-- The stops of its engine commands on faults whose park waits for the next boundary (R162): for each whether it is a
  copy, and ROWPROG's value for it. -/
  engineFault : List (Bool × Word)
  /-- The endpoint bound to each queue port (R251, R307). -/
  qeps : Map EpId
  deriving DecidableEq, Repr

/-- Offers held at a rendezvous receiving end (R253). -/
inductive Offer where
  | word (src : Slot) (pid : Word) (v : Word)
  | block (src : Slot) (pid : Word) (loc : Nat) (len : Nat)
  deriving DecidableEq, Repr

/-- A channel endpoint entry (R47) and what its home keeps beside it (R251, R253, R255, R259, R260, R293). -/
structure Endpoint where
  state : Nat
  mode : Nat
  dir : Bool
  nb : Bool
  cls : Nat
  fmt : Nat
  gen : BitVec 14
  domain : BitVec 12
  port : BitVec 3
  portv : Bool
  waiter : Option Slot
  shape : BitVec 32
  tlimit : BitVec 32
  peer : Word
  rbase : Nat
  rlen : Nat
  head : BitVec 16
  tail : BitVec 16
  /-- The offer held, and the process a receiver waits for. -/
  offer : Option Offer
  fifo : List Word
  nextt : BitVec 32
  called : BitVec 32
  /-- Granules reserved and not committed (R296). -/
  reserved : Nat
  /-- The called, uncommitted ticket held by a sending end (R294). -/
  ticket : Option Nat
  /-- Tickets whose slots have been committed and not retired, at an ANY receiving end. -/
  slots : List Nat
  /-- Processes waiting for tickets of this ANY receiving end. -/
  callers : List (Nat × Slot)
  /-- Processes parked behind the waiter, in order of issue. -/
  queue : List Slot
  /-- The process, with its PID, whose ALTW has selected the end and that has not yet taken what it found (R258). -/
  chosen : Option (Slot × Word)
  /-- Words at the head of the FIFO that the instruction in progress of the port's process has taken (R69, R251; log 119). -/
  held : Nat
  /-- The processes waiting in CHSYNC, and the ends whose CHSYNC has arrived (R293). -/
  syncing : List Slot
  syncPeer : List EpId
  /-- The last process that operated on the endpoint, and its PID (R260). -/
  lastOp : Option (Slot × Word)
  /-- The peer became unreachable, for the reason (R375); the next operation traps CHLINK. -/
  linkReason : Option Nat
  /-- Words 1 and 2 of that CHLINK, as the end stood when its peer was lost (R376). -/
  linkWords : List Word
  /-- The failing count message (R377). -/
  badCount : Word
  deriving DecidableEq, Repr

/-- Where a queued store goes (R170, R173). -/
inductive Target where
  | mem (loc : Nat)
  | step (loc : Nat) (rule key step : Nat)
  | port (port : Nat) (addr : Nat) (io : Bool)
  deriving DecidableEq, Repr

/-- The element descriptor of a contribution (R196). -/
inductive Desc where
  | unsigned (bytes : Nat)
  | signed (bytes : Nat)
  | float (fmt : Nat)
  deriving DecidableEq, Repr

/-- An entry of the store queue: a store of a process, or the mark a FENCE leaves (R173, R179). -/
structure QStore where
  seq : Nat
  owner : Slot
  pid : Word
  domain : Nat
  rank : Nat
  /-- none: a mark that holds the process's later stores until the drain has completed; `bytes` is then the word of the
  FENCE that left it. -/
  target : Option Target
  va : Word
  bytes : List Byte
  /-- The other bytes one vector access stores in the same aligned granule, in lane order: where they go, and what they
  are; they are performed with it (R171, R230). -/
  more : List (Nat × List Byte)
  desc : Desc
  keySlot : Nat
  drain : Drain
  passed : Bool
  deriving DecidableEq, Repr

/-- A write of a command that has not been performed yet (R185): where it goes, the key slot of an HBM page, its bytes with
their poison, its address and its restart unit. -/
structure EWrite where
  target : Target
  key : Option Nat
  bytes : List (Byte × Bool)
  va : Word
  unit : Nat := 0
  deriving DecidableEq, Repr

/-- An engine command in a queue (R146, R147, R162). -/
structure Cmd where
  word : BitVec 256
  tag : Nat
  owner : Slot
  pid : Word
  domain : Nat
  rank : Nat
  index : Nat
  /-- Stores of the issuer with smaller numbers must have passed the ordering point (R173). -/
  seq : Nat
  /-- Copies of the issuer still queued that a command with SLAY[7] waits for (R148). -/
  afterCopies : List Nat
  /-- Units begun, all of them complete once no write is pending; and whether it is stopped on a fault (R162). -/
  units : Nat
  faulted : Bool
  /-- The writes of its units that have not been performed (R185). -/
  pending : List EWrite
  /-- The LUT8 table it names, as it stood when the command started (R151). -/
  lutCopy : Option (List (BitVec 19))
  /-- The source bytes of a copy that overlaps its destination, as they were before it began: the place of each (log 6), the
  byte and its poison (R160). -/
  before : List (Nat × Byte × Bool)
  /-- The counter its free choices are read at (log 6). -/
  draw : Nat
  /-- The replay that queued it: entry index, directory index and the ALMPLAY's word (R280), and the tape's ID. -/
  replayed : Option (Nat × Nat × IWord)
  tape : BitVec 32
  /-- The number of that replay on its core; 0 for a command of a TIS. -/
  play : Nat
  deriving DecidableEq, Repr

/-- A tape entry (R270). -/
structure TEntry where
  word : BitVec 256
  tag : BitVec 16
  deriving DecidableEq, Repr

/-- A directory entry of the almanac store (R270 to R274). -/
structure Tape where
  id : BitVec 32
  domain : Nat
  core : CoreId
  pbase : Nat
  pcount : Nat
  /-- 1 recording, 2 valid, 3 invalid with a replay still streaming. -/
  state : Nat
  body : List TEntry
  slots : Map (Nat × Nat)
  guards : Nat
  entries : Nat
  active : Nat
  lastUse : Nat
  /-- Entries that hold an uncorrectable error (R280, R281). -/
  bad : List Nat
  deriving DecidableEq, Repr

/-- An open recording (R266): its process; the tape stands in the cluster's directory at `index`. -/
structure Recording where
  owner : Slot
  index : Nat
  deriving DecidableEq, Repr

/-- The state of a replay context (R277). -/
inductive RState where
  | idle | check | stream | drain
  deriving DecidableEq, Repr

/-- A replay context and the processes waiting behind it (R277). -/
structure Replay where
  state : RState
  owner : Slot
  index : Nat
  pos : Nat
  id : BitVec 32
  args : List Word
  iword : IWord
  waiting : List (Slot × BitVec 32 × List Word × IWord)
  /-- The number of the replay in progress on its core, or of the last one (R277). -/
  play : Nat
  deriving DecidableEq, Repr

/-- An entry of the chunk table (R328). -/
structure ChunkEntry where
  launch : Word
  first : Nat
  live : Nat
  deriving DecidableEq, Repr

/-- What one core holds beside its processes and endpoints (R14, R40). -/
structure Core where
  cdom : BitVec 12
  busy : Bool
  newDom : BitVec 12
  slice : BitVec 16
  fulln : Nat
  lightn : Nat
  extn : Nat
  dlprobe : BitVec 32
  spawns : BitVec 32
  ready0 : List Slot
  ready1 : List Slot
  ready2 : List Slot
  ready3 : List Slot
  arrivals : List Slot
  refusals : List Slot
  running : Option Slot
  storeQ : List QStore
  storeSeq : Nat
  tileQ : List Cmd
  copyQ : List Cmd
  tileTag : Nat
  copyTag : Nat
  acc : Map (BitVec 32)
  accPoison : List Nat
  lut : Map (BitVec 19)
  chunks : Map ChunkEntry
  /-- Chunk reports sent and not acknowledged: the launch, the first index, when last sent (R327). -/
  unreported : List (Word × Nat × Nat)
  /-- Jobs cancelled, jobs of spawn and migration messages not yet answered, jobs to answer DRAINED for (R333, R334),
  each as package · 2^48 + JOB. -/
  cancels : List Nat
  inFlight : List Nat
  drainFor : List Nat
  /-- Deaths of chunks not yet told to the homes, the dead process having asked for a child that is not answered for
  (R328): the slot, the home, the entry, the job. -/
  owed : List (Slot × CoreId × Nat × BitVec 48)
  recording : Option Recording
  replay : Replay
  records : List Rec
  reserved : Bool
  probeSerial : Nat
  deriving DecidableEq, Repr

/-- A cached leaf translation (R344). -/
structure Trans where
  domain : Nat
  page : Nat
  level : Nat
  leaf : Word
  entryAt : Nat
  deriving DecidableEq, Repr

/-- What a cluster holds (R14, R40, R272, R344). -/
structure Cluster where
  loadreg : Word
  vigilInterval : BitVec 32
  vigilSince : Nat
  tcache : List Trans
  tapes : Map Tape
  temp : Nat
  throttled : Bool
  deriving DecidableEq, Repr

/-- A common-store window register (R339). -/
structure Window where
  base : Nat
  size : Nat
  domain : Nat
  valid : Bool
  deriving DecidableEq, Repr

/-- What a compute die holds beside its cores and its common store. -/
structure Die where
  windows : Map Window
  /-- The window write in progress, and those that wait behind it (R339). -/
  clearing : Option (Nat × Window)
  windowQ : List (Nat × Word)
  fenced : Option Nat
  deriving DecidableEq, Repr

/-- A waiter of a translation fault (R344 to R346): a process, or a command of a process. -/
structure FaultWaiter where
  slot : Slot
  pid : Word
  va : Word
  engine : Bool
  /-- The command stands in the copy queue. -/
  copy : Bool
  deriving DecidableEq, Repr

/-- An entry of a walker's fault-merging table (R345). -/
structure FaultEntry where
  serial : Nat
  va : Word
  domain : Nat
  writes : Bool
  fetches : Bool
  engines : Bool
  malformed : Bool
  level : Nat
  first : Word
  waiters : List FaultWaiter
  sent : Bool
  /-- The ticket it waits with (R259, R345). -/
  ticket : Option (EpId × Nat)
  /-- The endpoint it waited at was freed or fell into DESYNC: it goes to the package monitor (R345). -/
  toMonitor : Bool
  deriving DecidableEq, Repr

/-- A table entry above a leaf that a walker keeps (R351; log 112): the domain of the walk, the entry's level, the part of
the address space it covers there, its physical address and its word. -/
structure KeptEntry where
  domain : Nat
  level : Nat
  page : Nat
  entryAt : Nat
  word : Word
  deriving DecidableEq, Repr

/-- What a base die holds (R329, R344). -/
structure Base where
  fenced : Option Nat
  faults : Map FaultEntry
  waiting : List (Nat × Bool × Bool × Bool × Nat × FaultWaiter)
  serial : Nat
  /-- The last slot report of the base die's cores: free full, free light, FULLN, LIGHTN. -/
  slots : Map (Nat × Nat × Nat × Nat)
  /-- The table entries its walker keeps (R351; log 112). -/
  tables : List KeptEntry
  deriving DecidableEq, Repr

/-- A domain descriptor (R336). -/
structure Domain where
  valid : Bool
  root : Word
  secret : BitVec 128
  supep : Word
  pager : Word
  chrefuse : BitVec 32
  deriving DecidableEq, Repr

/-- A key slot (R347): none is an empty slot. -/
structure Key where
  material : BitVec 512
  owner : Nat
  deriving DecidableEq, Repr

/-- A chunk sent and not yet reported (R326, R329). -/
structure SentChunk where
  core : CoreId
  first : Nat
  size : Nat
  deriving DecidableEq, Repr

/-- A pending launch (R318 to R334). -/
structure Launch where
  id : Word
  entry : Word
  arg : Word
  first : Nat
  count : Nat
  chunk : Nat
  domain : Nat
  prio : Nat
  light : Bool
  supv : Bool
  deps : Nat
  compl : Word
  user : Word
  next : Nat
  again : List (Nat × Nat)
  sent : List SentChunk
  reissued : Nat
  /-- 0 running, 1 CANCEL sent, 2 DRAIN sent, 3 ended and waiting for its completion message. -/
  stage : Nat
  status : Nat
  /-- The cores told of the cancellation, and those that have not answered the phase in progress. -/
  cores : List CoreId
  awaiting : List CoreId
  /-- Those CANCEL is held back from while their cancel tables are full (R333). -/
  held : List CoreId := []
  /-- A chunk of it has been sent (R332). -/
  begun : Bool := false
  /-- The free entries as its completion message shows them, its own freed (R327). -/
  freeThen : Nat := 0
  /-- The ticket its completion message waits with (R418). -/
  ticket : Option (EpId × Nat) := none
  deriving DecidableEq, Repr

/-- A host queue's registers (R321). -/
structure HostQueue where
  en : Bool
  port : Bool
  qpri : Nat
  supv : Bool
  domain : Nat
  free : Nat
  nextser : BitVec 32
  done : BitVec 16
  depunder : Bool
  badmsg : Bool
  full : Bool
  badport : Bool
  rejects : Nat
  depser : BitVec 32
  deriving DecidableEq, Repr

/-- A host endpoint entry (R360). -/
structure HostEp where
  handle : Word
  ring : Word
  valid : Bool
  port : Bool
  rlen : Nat
  hostidx : BitVec 16
  deriving DecidableEq, Repr

/-- A request a host port has sent to its host: a read, or a PCI Express AtomicOp (R187, R188, R225, R354). -/
inductive PortReq where
  | read (addr n : Nat)
  | fetchAdd (addr n x : Nat)
  | swap (addr n x : Nat)
  | cas (addr n expected x : Nat)
  deriving DecidableEq, Repr

/-- A host port: PSTS (R357), its mailbox (R363) and what it has sent to its host. -/
structure Port where
  linkup : Bool
  wrerr : Nat
  badacc : Nat
  semerr : Nat
  nonce : BitVec 384
  arg : Word
  status : Word
  config : BitVec 1024
  block : BitVec 2048
  report : BitVec 2752
  /-- The mailbox command in progress (R363). -/
  command : Option Nat
  /-- The data of the last read completion the port returned to its host. -/
  completion : List Byte
  interrupts : List Nat
  /-- The posted writes it has sent, in order (R187): each the parts it carries, where they go and their bytes (R230). -/
  writes : List (List (Nat × List Byte))
  /-- The non-posted requests it has sent, in order. -/
  requests : List PortReq
  /-- How many of its posted writes are flushed: a read it issued after them has been completed (R178). -/
  flushed : Nat
  deriving DecidableEq, Repr

/-- An entry of the step buffer (R197): for each byte its value, its descriptor and whether it is shape-conflicted. -/
structure StepEntry where
  gran : Nat
  rank : Nat
  die : Nat
  rule : Nat
  key : Nat
  domain : Nat
  /-- The step it belongs to, counted by the package (R193): sealed when smaller than the open step. -/
  step : Nat
  overflow : Bool
  poisoned : Bool
  bytes : List (Option (Byte × Desc × Bool))
  deriving DecidableEq, Repr

/-- A partial firmware image (R363). -/
structure Upload where
  port : Nat
  length : Nat
  blocks : List (BitVec 2048)
  deriving DecidableEq, Repr

/-- What a package holds. -/
structure Package where
  present : Bool
  /-- It has taken its configuration (R386). -/
  member : Bool
  /-- It is, or has been, a member of the pod since that formed (R192, R387), and it has withdrawn from it (R212). -/
  inPod : Bool
  withdrawn : Bool
  time : Nat
  heartbeat : Nat
  stepno : Word
  fablimit : Bool
  steplim : BitVec 32
  root : Nat
  newStepctl : Option Word
  ovfBase : Nat
  ovfSize : Nat
  phase : Nat
  hostdrop : BitVec 16
  podsupv : Word
  entries : List StepEntry
  /-- The number of the open step: steps opened since reset (R193). -/
  openStep : Nat
  /-- The open step has closed and its contributions are still coming in (R193). -/
  closing : Bool
  /-- An arrival has been made in the open step (R203). -/
  arrivedSince : Bool
  /-- ARRIVEs received, when the first came, and how often STEPLATE has been reported since (R203, R207). -/
  arrives : List Nat
  firstArrive : Nat
  lateSent : Nat
  /-- The step a CALL has come for that was not yet the open one or found processes enrolled (R203). -/
  called : Option Nat
  /-- As a home (R203, R204): the streams that have ended and the granule each has passed, under package · 4 + unit, the
  entries received and not yet applied by unit, the tree children that have applied, and whether a granule of this
  calends has been applied. -/
  doneFrom : List Nat
  passed : Map Nat
  streamed : Map (List StepEntry)
  appliedFrom : List Nat
  applying : Bool
  /-- Conflicting granules of this calends, and the domain of the first one left unreported (R201). -/
  conflicts : Nat
  unreported : Nat
  domains : Map Domain
  keys : Map Key
  queues : Map HostQueue
  launches : List Launch
  devSerial : BitVec 32
  master : Nat
  mirrorAt : Nat
  /-- The chunk written to the mirror and not yet sent (R329): launch, first index, size, core. -/
  toSend : Option (Word × Nat × Nat × CoreId)
  mirror : List Launch
  failover : Option Nat
  report : Map (Nat × Nat × Nat × Nat)
  /-- For each QPRI the queue whose turn comes next (R324). -/
  rotation : Map Nat
  hostEps : Map HostEp
  sems : Map Nat
  port0 : Port
  port1 : Port
  /-- The data the last register read returned to the package monitor (R188, R358). -/
  monitorData : List Byte
  /-- Which manufactured part it is: it names the identity key (R361). -/
  part : Nat
  thermtrip : Bool
  upload : Option Upload
  verifying : Option (Nat × List Byte)
  image : List Byte
  m0 : BitVec 384
  m1 : BitVec 384
  config : Option (BitVec 1024)
  bringup : Nat
  /-- Failed training attempts of each unit of the phase in progress (R385). -/
  attempts : Map Nat
  recovery : Bool
  monitorPid : Option Word
  outbox : List Rec
  /-- Each link that is not up: 1 retraining, 2 down; when it replayed lately; retrains failed in a row (R372). -/
  links : Map Nat
  linkReplays : Map (List Nat)
  linkFails : Map Nat
  corrected : Map Nat
  lastCorrected : Map Nat
  deriving DecidableEq, Repr

/-- An agent that messages come from and go to (R73, R169). -/
inductive Agent where
  | core (c : CoreId)
  | dist (p b : Nat)
  | unit (p : Nat)
  deriving DecidableEq, Repr

/-- The message classes of R73. -/
inductive MsgClass where
  | control | channel | bulk
  deriving DecidableEq, Repr

/-- A remote operation on a core (R283 to R285, R292, R294, R303, R308). -/
inductive RemoteOp where
  | spawn (child : Proc)
  | chstat (h : Word) (sel : Word) (domain : BitVec 12)
  | tkt (e : EpId)
  | setpri (h : Word) (level : Word) (supv monitor : Bool) (domain : BitVec 12)
  | resume (h image : Word) (monitor : Bool) (domain : BitVec 12)
  | peek (h sel : Word) (monitor : Bool) (domain : BitVec 12)
  | poke (h sel v : Word) (monitor : Bool) (domain : BitVec 12)
  | kill (h : Word) (monitor : Bool) (domain : BitVec 12)
  deriving DecidableEq, Repr

/-- What a remote operation answers: a value, or a trap on the issuer. -/
inductive Answer where
  | value (v : Word)
  | nothing
  | trap (cause : Nat) (details : List Word)
  deriving DecidableEq, Repr

/-- What a message carries. -/
inductive Body where
  | offer (e : EpId) (o : Offer)
  | ack (k : Slot) (pid : Word)
  | block (k : Slot) (pid : Word) (len : Nat) (data : List (Nat × List Byte × Bool))
  | withdraw (e : EpId) (k : Slot) (pid : Word)
  | bind (k : Slot) (pid : Word) (mine peer : Word)
  | bindReply (k : Slot) (pid : Word) (a : Answer)
  | commit (e : EpId) (t n : Nat) (ring : List (Nat × List Byte × Bool)) (ticket : Option Nat)
  | ret (e : EpId) (h n : Nat)
  | desync (e : EpId) (bad : Word)
  | chsync (e source : EpId)
  | migrate (p : Proc) (src : Slot)
  | accept (k : Slot) (pid : Word) (job : Nat)
  | refuse (k : Slot) (pid : Word) (listed : Bool) (job : Nat)
  | space (k : Slot) (pid : Word)
  | probe (target : Slot) (origin : Slot) (originPid : Word) (serial : Nat) (sender : Slot) (path : List Word) (len : Nat)
  | echo (target : Slot) (origin : Slot) (serial : Nat) (path : List Word) (len : Nat)
  | remote (op : RemoteOp) (k : Slot) (pid : Word)
  | reply (a : Answer) (k : Slot) (pid : Word) (job : Nat)
  | device (l : BitVec 512) (k : Slot) (pid : Word) (supv : Bool) (domain : BitVec 12)
  | chunk (id : Word) (first size : Nat) (l : Launch)
  | chunkRefused (id : Word) (first size : Nat) (c : CoreId)
  | chunkReport (id : Word) (first : Nat) (c : CoreId)
  | increment (i : Nat) (home : CoreId) (k : Slot) (pid : Word) (a : Answer) (job : BitVec 48)
  | decrement (i : Nat) (home : CoreId) (job : BitVec 48)
  | slots (base : Nat) (m : Map (Nat × Nat × Nat × Nat))
  | mirrorAck (id : Word)
  | cancel (id : Word) (domain : Nat)
  | cancelAck (id : Word) (c : CoreId)
  | drain (id : Word)
  | drained (id : Word) (c : CoreId)
  | arrive (p step : Nat)
  | call (step : Nat)
  | entries (p u : Nat) (es : List StepEntry)
  | done (p u : Nat)
  | applied (p step : Nat)
  | release
  deriving DecidableEq, Repr

/-- A fabric message in flight (R73): delivered once, in order for its source, destination and class. -/
structure Msg where
  src : Agent
  dst : Agent
  cls : MsgClass
  body : Body
  deriving DecidableEq, Repr

/-- What the machine is told to do next, in place of the pipeline's next instruction (log 4). -/
inductive Turn where
  /-- The pipeline of a core issues. -/
  | issue (c : CoreId)
  /-- An event of the opcode table comes about. -/
  | event (i : Instr)
  /-- Cycles pass. -/
  | cycles (n : Nat)
  /-- A cluster cache writes a dirty line back (R14). -/
  | evict (line : Nat)
  /-- A core's next fetch (true), or the reply of the access of its next instruction, is late: MEMORY_REPLY brings it (R246;
  log 96). -/
  | wait (c : CoreId) (fetch : Bool)
  /-- The first runnable command of a core's tile or copy queue goes one part on: a pending write of it is performed, or its
  next unit begins (R148, R185; log 31). -/
  | part (c : CoreId) (copy : Bool) (pick : Nat)
  /-- A core's SETLUT, its next instruction or the one in progress, loads some granules of its source now and the others later
  (R139; log 31). -/
  | lut (c : CoreId) (gs : List Nat)
  /-- A granule of the channel block carried by a message reaches its destination ahead of the rest (R185). -/
  | land (n pick : Nat)
  /-- The walker of a base die keeps the table entries it reads on the walk of an address (R351; log 112). -/
  | keep (b dom : Nat) (va : Word)
  /-- A host's access of `n` bytes at an offset of BAR0 through a port: a read, or a write of a value (R356). -/
  | host (p port off n : Nat) (v : Option (BitVec 512))
  deriving DecidableEq, Repr

/-- An HBM line held dirty in a cluster cache (R14, R238, R347): the cluster, the key slot and domain it was written
under, and what HBM still holds. -/
structure Dirty where
  cluster : Nat
  key : Nat
  bytes : List Byte
  poison : List Nat
  material : Option (BitVec 512)
  deriving DecidableEq, Repr

/-- An ordered-add entry of a common-store bank (R223). -/
structure OrdAdd where
  gran : Nat
  rank : Nat
  core : CoreId
  mask : BitVec 8
  size : Nat
  sum : Word
  deriving DecidableEq, Repr

/-- The memory of the pod: (location, byte) pairs in one canonical form (Machine/Memory.lean). -/
abbrev Mem := List Host.Cell

/-- The whole machine. -/
structure State where
  /-- The slot the pipeline of interest issues for, and its process, held out of `procs` (log 4). -/
  self : Slot
  cur : Proc
  procs : Map Proc
  /-- The processes held at an access that has been performed and whose reply is still to come (R246): each as it will be
  once the reply has come (log 96). -/
  late : Map Proc
  cores : Map Core
  eps : Map Endpoint
  clusters : Map Cluster
  dies : Map Die
  bases : Map Base
  pkgs : Map Package
  mem : Mem
  poison : List Nat
  dirty : Map Dirty
  seals : Map (BitVec 512)
  ordadds : List OrdAdd
  armed : List (Nat × Slot)
  barriers : List (Nat × Slot)
  msgs : List Msg
  podFormed : Bool
  agenda : List Turn
  /-- The model's own counter for free values (log 5). -/
  draws : Nat
  deriving DecidableEq, Repr

/-! ## What an unlisted key holds -/

/-- A free context slot (R48, R49; log 2). -/
def Proc.empty : Proc :=
  { state := .free, waitk := 0, parkedAs := 0, pc := 0, light := false, supv := false, sstep := false, inalt := false,
    recording := false, recStatus := 0, cause := 0, domain := 0, g := Vector.replicate 32 0, pred := 1, tileown := 0, prio := 0,
    debt := 0, rank := 0, limit := 65536, used := 0, qen := 0, qdir := 0, pool := 0, fmtctl := 0, rowprog := 0,
    vext := none, pid := 0, job := 0, chome := 0, chidx := 0, chv := false, chpkg := 0, wait := .none, due := none, held := none,
    phase := .fresh, inflight := none, lastWord := 0, deadline := none, since := 0, resident := false, lastRan := 0,
    slice := none, overrun := 0, enrolled := false, arrivedIn := none, engaged := none,
    unflushedHost := [], unflushedIo := [], portRead := none, lost := none, engineErr := none, fenceErr := none, engineFault := [],
    qeps := [] }

/-- An endpoint entry at reset: zero, GEN included (R48). -/
def Endpoint.empty : Endpoint :=
  { state := 0, mode := 0, dir := false, nb := false, cls := 0, fmt := 0, gen := 0, domain := 0, port := 0,
    portv := false, waiter := none, shape := 0, tlimit := 0, peer := 0, rbase := 0, rlen := 0, head := 0, tail := 0,
    offer := none, fifo := [], nextt := 0, called := 0, reserved := 0, ticket := none, slots := [], callers := [],
    queue := [], chosen := none, held := 0, syncing := [], syncPeer := [], lastOp := none, linkReason := none, linkWords := [], badCount := 0 }

/-- An idle replay context (R277). -/
def Replay.idle : Replay :=
  { state := .idle, owner := 0, index := 0, pos := 0, id := 0, args := [], iword := 0, waiting := [], play := 0 }

/-- A core at reset (R40, R48). -/
def Core.atReset : Core :=
  { cdom := 0, busy := false, newDom := 0, slice := 4096, fulln := 64, lightn := 256, extn := 16, dlprobe := 1048576,
    spawns := 0, ready0 := [], ready1 := [], ready2 := [], ready3 := [], arrivals := [], refusals := [],
    running := none, storeQ := [], storeSeq := 0, tileQ := [], copyQ := [], tileTag := 0, copyTag := 0, acc := [],
    accPoison := [], lut := [], chunks := [], unreported := [], cancels := [], inFlight := [], drainFor := [], owed := [], recording := none,
    replay := Replay.idle, records := [], reserved := true, probeSerial := 0 }

/-- A cluster at reset (R40, R48). -/
def Cluster.atReset : Cluster :=
  { loadreg := 0, vigilInterval := 16777216, vigilSince := 0, tcache := [], tapes := [], temp := 0, throttled := false }

/-- Window 0 covers the whole common store for domain 0 at reset; the others are zero (R339). -/
def Window.atReset (w : Nat) : Window :=
  if w = 0 then { base := 0, size := 1024, domain := 0, valid := true }
  else { base := 0, size := 0, domain := 0, valid := false }

/-- A compute die at reset. -/
def Die.atReset : Die := { windows := [], clearing := none, windowQ := [], fenced := none }

/-- A base die at reset. -/
def Base.atReset : Base := { fenced := none, faults := [], waiting := [], serial := 1, slots := [], tables := [] }

/-- A domain descriptor at reset: only domain 0 is VALID (R336). -/
def Domain.atReset (d : Nat) : Domain :=
  { valid := d = 0, root := 0, secret := 0, supep := 0, pager := 0, chrefuse := 0 }

/-- A host queue at reset (R321). -/
def HostQueue.atReset : HostQueue :=
  { en := false, port := false, qpri := 3, supv := false, domain := 0, free := 16, nextser := 1, done := 0,
    depunder := false, badmsg := false, full := false, badport := false, rejects := 0, depser := 0 }

/-- A host endpoint entry at reset (R360). -/
def HostEp.atReset : HostEp := { handle := 0, ring := 0, valid := false, port := false, rlen := 0, hostidx := 0 }

/-- A host port at reset (R357, R363). -/
def Port.atReset : Port :=
  { linkup := false, wrerr := 0, badacc := 0, semerr := 0, nonce := 0, arg := 0, status := 0, config := 0, block := 0,
    report := 0, command := none, completion := [], interrupts := [], writes := [],
    requests := [], flushed := 0 }

/-- A package at reset (R40, R48, R208, R385). -/
def Package.atReset : Package :=
  { present := true, member := false, inPod := false, withdrawn := false, time := 0, heartbeat := 0, stepno := 0, fablimit := true,
    steplim := 1000, root := 0, newStepctl := none, ovfBase := 0, ovfSize := 0, phase := 0, hostdrop := 0,
    podsupv := 0, entries := [], openStep := 0, closing := false, arrivedSince := false, arrives := [], firstArrive := 0, lateSent := 0, called := none,
    doneFrom := [], passed := [], streamed := [], appliedFrom := [], applying := false, conflicts := 0,
    unreported := 0,
    domains := [], keys := [], queues := [], launches := [], devSerial := 1, master := 0, mirrorAt := 1,
    toSend := none, mirror := [], failover := none, report := [], rotation := [], hostEps := [], sems := [],
    port0 := Port.atReset, port1 := Port.atReset, monitorData := [], part := 0, thermtrip := false, upload := none, verifying := none, image := [],
    m0 := 0, m1 := 0, config := none, bringup := 1, attempts := [], recovery := false, monitorPid := none, outbox := [],
    links := [], linkReplays := [], linkFails := [], corrected := [], lastCorrected := [] }

/-- A package the machine does not have (log 94). -/
def Package.absent : Package := { Package.atReset with present := false }

/-- The slot number of the first full context of core 255 of package 0, where bring-up places the package monitor
(R414). -/
def monitorSlot : Slot := 255 * 2048

/-- The machine right after reset: one package in the first phase of its bring-up, named by the number it will be
configured with (R386; log 11, log 94), no process, every register at the reset value of its map (R48, R385). -/
def State.reset : State :=
  { self := monitorSlot, cur := Proc.empty, procs := [], late := [], cores := [], eps := [], clusters := [], dies := [],
    bases := [], pkgs := [(0, Package.atReset)], mem := [], poison := [], dirty := [], seals := [], ordadds := [],
    armed := [], barriers := [], msgs := [], podFormed := false, agenda := [], draws := 0 }

end Sys2Proof.Machine
end

