-- ==== Sys2Proof/Machine/Memory.lean ====
section
/-! DEFINITION. Memory as one canonical list of bytes: locations, reading and writing bytes, poison bits.
Every byte of the pod has one location number; an unlisted location reads as zero (R48; log 1). -/

namespace Sys2Proof.Machine

/-! ## Locations -/

/-- The locations one package takes: its HBM, its common stores, its scratchpads. -/
def pkgSpan : Nat := 2 ^ 42

/-- Where the common stores of a package begin. -/
def commonBase : Nat := 2 ^ 41

/-- Where the scratchpads of a package begin. -/
def spadBase : Nat := 2 ^ 41 + 2 ^ 30

/-- 768 GiB, the first physical address without HBM (R15). -/
def hbmSize : Nat := 768 * 2 ^ 30

/-- Bytes of a scratchpad (R14). -/
def spadSize : Nat := 393216

/-- The location of HBM physical address `pa` of package `p`. -/
def locHbm (p pa : Nat) : Nat := p * pkgSpan + pa

/-- The location of common-store offset `o` of compute die `e` of package `p`. -/
def locCommon (p e o : Nat) : Nat := p * pkgSpan + commonBase + e * 2 ^ 26 + o

/-- The location of offset `o` of core `c`'s scratchpad. -/
def locSpad (c : CoreId) (o : Nat) : Nat := c / 2048 * pkgSpan + spadBase + c % 2048 * 2 ^ 19 + o

/-- The package of a location. -/
def pkgOfLoc (loc : Nat) : Nat := loc / pkgSpan

/-- What kind of memory a location lies in. -/
inductive Kind where
  | hbm | common | spad
  deriving DecidableEq, Repr

/-- The kind of memory a location lies in. -/
def kindOf (loc : Nat) : Kind :=
  if loc % pkgSpan < commonBase then .hbm else if loc % pkgSpan < spadBase then .common else .spad

/-- The HBM physical address of a location. -/
def paOf (loc : Nat) : Nat := loc % pkgSpan

/-- The compute die (package number times 8 plus die) of a common-store location. -/
def dieOfCommon (loc : Nat) : Nat := pkgOfLoc loc * 8 + (loc % pkgSpan - commonBase) / 2 ^ 26

/-- The offset of a common-store location in its die. -/
def commonOff (loc : Nat) : Nat := (loc % pkgSpan - commonBase) % 2 ^ 26

/-- The core of a scratchpad location. -/
def coreOfSpad (loc : Nat) : CoreId := pkgOfLoc loc * 2048 + (loc % pkgSpan - spadBase) / 2 ^ 19

/-- The offset of a scratchpad location in its core. -/
def spadOff (loc : Nat) : Nat := (loc % pkgSpan - spadBase) % 2 ^ 19

/-- The home of a location: the bank of a scratchpad or common store, the 64-byte line of HBM (R44, R45, R170). -/
def homeOf (loc : Nat) : Nat :=
  match kindOf loc with
  | .hbm => loc / 64
  | .common => 2 ^ 60 + dieOfCommon loc * 1024 + commonOff loc / 64 % 1024
  | .spad => 2 ^ 61 + coreOfSpad loc * 384 + spadOff loc / 8 % 384

/-- The compute die on which a core sits, numbered in the pod (R11). -/
def dieOfCore (c : CoreId) : Nat := c / 256

/-- The cluster of a core, numbered in the pod (R11). -/
def clusterOf (c : CoreId) : Nat := c / 16

/-- The package of a core. -/
def pkgOf (c : CoreId) : Nat := c / 2048

/-- The base die of a compute die, numbered in the pod (R10). -/
def baseOfDie (e : Nat) : Nat := e / 2

/-- The base die of an HBM location (R15). -/
def baseOfHbm (loc : Nat) : Nat := pkgOfLoc loc * 4 + paOf loc / 2 ^ 36 / 3

/-- The core of a slot. -/
def coreOf (k : Slot) : CoreId := k / 2048

/-- The context index of a slot (R34). -/
def ctxOf (k : Slot) : Nat := k % 2048

/-! ## Bytes -/

/-- The byte at a location: zero where nothing is listed (R48, log 1). -/
def Mem.get (m : Mem) (a : Nat) : Byte :=
  match m with
  | [] => 0
  | (b, v) :: r => if a < b then 0 else if b = a then v else Mem.get r a

/-- The memory with one byte set, in canonical form: writing zero removes the entry. -/
def Mem.set (m : Mem) (a : Nat) (v : Byte) : Mem :=
  match m with
  | [] => if v = 0 then [] else [(a, v)]
  | (b, w) :: r =>
    if a < b then (if v = 0 then (b, w) :: r else (a, v) :: (b, w) :: r)
    else if b = a then (if v = 0 then r else (a, v) :: r)
    else (b, w) :: Mem.set r a v

/-- Every entry from a location on, and none that reads as an unlisted byte. -/
def Mem.wfFrom : Mem → Nat → Bool
  | [], _ => true
  | (a, v) :: r, lo => decide (lo ≤ a) && decide (v ≠ 0) && Mem.wfFrom r (a + 1)

/-- The canonical form: locations strictly rising, no listed zero. -/
def Mem.wf (m : Mem) : Bool := Mem.wfFrom m 0

/-- `n` bytes from a location. -/
def Mem.read (m : Mem) (a : Nat) : Nat → List Byte
  | 0 => []
  | n + 1 => m.get a :: Mem.read m (a + 1) n

/-- The memory with bytes written from a location on. -/
def Mem.write (m : Mem) (a : Nat) : List Byte → Mem
  | [] => m
  | b :: r => Mem.write (m.set a b) (a + 1) r

/-- The memory with every byte from `lo` to `hi − 1` zero. -/
def Mem.clear (m : Mem) (lo hi : Nat) : Mem := m.filter fun c => !(lo ≤ c.1 && c.1 < hi)

/-- The little-endian value of bytes (R2). -/
def leVal : List Byte → Nat
  | [] => 0
  | b :: r => b.toNat + 256 * leVal r

/-- The `n` little-endian bytes of a value (R2). -/
def leBytes (v : Nat) : Nat → List Byte
  | 0 => []
  | n + 1 => BitVec.ofNat 8 v :: leBytes (v / 256) n

/-! ## Poison -/

/-- Set membership in a rising list. -/
def natMem (l : List Nat) (x : Nat) : Bool :=
  match l with
  | [] => false
  | y :: r => if y = x then true else natMem r x

/-- Insertion in a rising list without repeats. -/
def natInsert (l : List Nat) (x : Nat) : List Nat :=
  match l with
  | [] => [x]
  | y :: r => if x < y then x :: y :: r else if y = x then y :: r else y :: natInsert r x

/-- Removal from a list without repeats. -/
def natErase (l : List Nat) (x : Nat) : List Nat := l.filter fun y => y ≠ x

/-- The aligned 8-byte granules that `n` bytes from a location touch (R171). -/
def granules (loc n : Nat) : List Nat := if n = 0 then [] else fromTo (loc / 8) ((loc + n - 1) / 8 + 1 - loc / 8)

end Sys2Proof.Machine
end

