-- ==== Sys2Proof/Machine/Ops.lean ====
section
/-! DEFINITION. The shared operations over the machine: reaching its parts, the life of a process (R240), parking and
waking (R73), taking a trap and its record (R8, R364 to R367), and the end of an instruction. -/

namespace Sys2Proof.Machine

/-- The outcome of a step of this machine. -/
abbrev Out := Host.Outcome State Fault Refusal

/-! ## Reaching the parts -/

/-- The process in a context slot. -/
def State.proc (s : State) (k : Slot) : Proc := if k = s.self then s.cur else s.procs.get k Proc.empty

/-- The state with a slot's process replaced. -/
def State.setProc (s : State) (k : Slot) (p : Proc) : State :=
  if k = s.self then { s with cur := p } else { s with procs := s.procs.put k p }

/-- The state with a slot's process changed. -/
def State.modProc (s : State) (k : Slot) (f : Proc → Proc) : State := s.setProc k (f (s.proc k))

/-- What a core holds. -/
def State.core (s : State) (c : CoreId) : Core := s.cores.get c Core.atReset

def State.setCore (s : State) (c : CoreId) (x : Core) : State := { s with cores := s.cores.put c x }

def State.modCore (s : State) (c : CoreId) (f : Core → Core) : State := s.setCore c (f (s.core c))

/-- An endpoint entry. -/
def State.ep (s : State) (e : EpId) : Endpoint := s.eps.get e Endpoint.empty

def State.setEp (s : State) (e : EpId) (x : Endpoint) : State := { s with eps := s.eps.put e x }

def State.modEp (s : State) (e : EpId) (f : Endpoint → Endpoint) : State := s.setEp e (f (s.ep e))

def State.cluster (s : State) (cl : Nat) : Cluster := s.clusters.get cl Cluster.atReset

def State.modCluster (s : State) (cl : Nat) (f : Cluster → Cluster) : State :=
  { s with clusters := s.clusters.put cl (f (s.cluster cl)) }

def State.die (s : State) (e : Nat) : Die := s.dies.get e Die.atReset

def State.modDie (s : State) (e : Nat) (f : Die → Die) : State := { s with dies := s.dies.put e (f (s.die e)) }

def State.base (s : State) (b : Nat) : Base := s.bases.get b Base.atReset

def State.modBase (s : State) (b : Nat) (f : Base → Base) : State := { s with bases := s.bases.put b (f (s.base b)) }

def State.pkg (s : State) (p : Nat) : Package := s.pkgs.get p (if p < 512 then Package.atReset else Package.absent)

def State.modPkg (s : State) (p : Nat) (f : Package → Package) : State :=
  { s with pkgs := s.pkgs.put p (f (s.pkg p)) }

def Package.domain (x : Package) (d : Nat) : Domain := x.domains.get d (Domain.atReset d)

def Die.window (x : Die) (w : Nat) : Window := x.windows.get w (Window.atReset w)

/-- The core of the process being issued for. -/
def State.here (s : State) : CoreId := coreOf s.self

/-- The time base of a core's package (R252). -/
def State.now (s : State) (c : CoreId) : Nat := (s.pkg (pkgOf c)).time

/-- Whether a core's compute die and its base die still work (R380). -/
def State.dieUp (s : State) (e : Nat) : Bool := (s.die e).fenced.isNone && (s.base (baseOfDie e)).fenced.isNone

/-- Every slot that holds a process. -/
def State.live (s : State) : List Slot :=
  (if s.cur.state = .free then [] else [s.self]) ++
    (s.procs.filter fun e => e.2.state ≠ .free && e.1 ≠ s.self).map (·.1)

/-- Every slot of a core that holds a process. -/
def State.liveOn (s : State) (c : CoreId) : List Slot := s.live.filter fun k => coreOf k = c

/-- Whether a core is a reserved service core (R13). -/
def State.isService (s : State) (c : CoreId) : Bool := c % 256 = 255 && (c % 2048 = 255 || (s.core c).reserved)

/-- Makes a slot the one the pipeline of interest issues for (log 4). -/
def State.focus (s : State) (k : Slot) : State :=
  if k = s.self then s
  else { s with self := k, cur := s.procs.get k Proc.empty, procs := (s.procs.put s.self s.cur).del k }

/-- Whether the slot's process is the package monitor (R414). -/
def State.isMonitor (s : State) (k : Slot) : Bool :=
  coreOf k % 2048 = 255 && (s.pkg (pkgOf (coreOf k))).monitorPid = some (s.proc k).pid

/-! ## Context area (R34, R35) -/

/-- S of R34: the bytes of the context area. -/
def ctxBytes (x : Core) : Nat := 384 * x.fulln + 96 * x.lightn + 2240 * x.extn

/-- B of R34: where the context area begins. -/
def ctxBase (x : Core) : Nat := spadSize - 1024 * ((ctxBytes x + 1023) / 1024)

/-! ## Handles -/

/-- The process handle of a slot (R283). -/
def State.handleOf (s : State) (k : Slot) : Word :=
  BitVec.ofNat 64 (pkgOf (coreOf k) % 512 * 2 ^ 55 + coreOf k % 2048 * 2 ^ 44 + ctxOf k * 2 ^ 33 +
    (s.proc k).pid.toNat % 2 ^ 32)

/-- The slot a process handle names (R283). -/
def slotOfHandle (h : Word) : Slot := (bits h 63 55 * 2048 + bits h 54 44) * 2048 + bits h 43 33

/-- The endpoint a channel handle names (R46). -/
def epOfHandle (h : Word) : EpId := (bits h 63 55 * 2048 + bits h 54 44) * 1024 + bits h 43 34

/-- The core of an endpoint. -/
def coreOfEp (e : EpId) : CoreId := e / 1024

/-- Whether a process handle is dead (R283). -/
def State.dead (s : State) (h : Word) : Bool :=
  (s.proc (slotOfHandle h)).state = .free || (s.proc (slotOfHandle h)).pid.toNat % 2 ^ 32 ≠ bits h 31 0

/-! ## Ready queues (R241) -/

def Core.ready (x : Core) (l : BitVec 2) : List Slot :=
  if l = 0 then x.ready0 else if l = 1 then x.ready1 else if l = 2 then x.ready2 else x.ready3

def Core.setReady (x : Core) (l : BitVec 2) (q : List Slot) : Core :=
  if l = 0 then { x with ready0 := q } else if l = 1 then { x with ready1 := q }
  else if l = 2 then { x with ready2 := q } else { x with ready3 := q }

/-- All ready processes in queue order, all levels taken together (R241). -/
def Core.queueOrder (x : Core) : List Slot := x.ready0 ++ x.ready1 ++ x.ready2 ++ x.ready3

/-- Appends a slot to the tail of its level. -/
def State.toTail (s : State) (k : Slot) : State :=
  s.modCore (coreOf k) fun x => x.setReady (s.proc k).prio (x.ready (s.proc k).prio ++ [k])

/-- Puts a slot at the head of its level (R241, pre-emption). -/
def State.toHead (s : State) (k : Slot) : State :=
  s.modCore (coreOf k) fun x => x.setReady (s.proc k).prio (k :: x.ready (s.proc k).prio)

/-- Takes a slot out of every list of its core's scheduler. -/
def State.unlist (s : State) (k : Slot) : State :=
  s.modCore (coreOf k) fun x =>
    { x with ready0 := natErase x.ready0 k, ready1 := natErase x.ready1 k, ready2 := natErase x.ready2 k,
             ready3 := natErase x.ready3 k, arrivals := natErase x.arrivals k,
             running := if x.running = some k then none else x.running }

/-! ## Park, hold, wake (R73, R240, R246) -/

/-- The phase of an instruction whose waker gives a value and a mark; mark 0 only makes it look again. -/
def Phase.woken (ph : Phase) (v : Word) (mark : Nat) : Phase :=
  match ph with
  | .fresh => .fresh
  | .after vals w m => if mark = 0 then .after vals w m else .after vals v mark

/-- Park(k, obj) of the current process (R73): the issue slot is released and USED becomes 0 (R240). -/
def State.park (s : State) (k : BitVec 4) (w : Wait) (ph : Phase) (dl : Option Nat) : State :=
  let s1 := s.modCore s.here fun x => { x with running := none }
  { s1 with cur := { s1.cur with state := .parked, waitk := k, parkedAs := k, wait := w, due := none, phase := ph, deadline := dl, held := none,
                                 used := 0, since := s.now s.here, lastRan := s.now s.here, slice := none, overrun := 0 } }

/-- Holds the current process at its instruction (R246). -/
def State.hold (s : State) (w : Wait) (ph : Phase) : State :=
  { s with cur := { s.cur with held := some (s.cur.held.getD (s.now s.here)), wait := w, phase := ph } }

/-- Whether a command of a process stands stopped on a fault (R162). -/
def State.faultHolds (s : State) (k : Slot) : Bool :=
  ((s.core (coreOf k)).tileQ ++ (s.core (coreOf k)).copyQ).any fun c =>
    c.faulted && c.owner = k && c.pid = (s.proc k).pid

/-- The end of a wait that has come already is kept; a mere look gives way to an answer. -/
def Proc.noteDue (p : Proc) (v : Word) (mark : Nat) : Proc :=
  { p with due := match p.due with
      | some (w, m) => if m = 0 then some (v, mark) else some (w, m)
      | none => some (v, mark) }

/-- Wake(ctx, why) (R73): a parked process becomes ready at the tail of its level, a held one issues on; any other is
left alone. One parked with WAITK 9 for a fault of a command of its own stays so until the command restarts (R162). -/
def State.wake (s : State) (k : Slot) (v : Word) (mark : Nat) : State :=
  let p := s.proc k
  let q := { p with wait := .none, waitk := 0, deadline := none, engaged := none, due := none, phase := p.phase.woken v mark }
  if p.state = .parked then
    if p.waitk = 9 && s.faultHolds k then s.setProc k (p.noteDue v mark)
    else (s.setProc k { q with state := .ready }).toTail k
  else if p.held.isSome then s.setProc k { q with held := none }
  else s

/-- Wakes several processes in order. -/
def State.wakeAll (s : State) : List Slot → State
  | [] => s
  | k :: r => (s.wake k 0 0).wakeAll r

/-! ## Messages (R73) -/

/-- Send(dst, cls, payload) (R73). -/
def State.send (s : State) (src dst : Agent) (cls : MsgClass) (b : Body) : State :=
  { s with msgs := s.msgs ++ [{ src := src, dst := dst, cls := cls, body := b }] }

/-- Whether the message at a position is the oldest for its source, destination and class. -/
def State.deliverable (s : State) (n : Nat) : Bool :=
  match s.msgs[n]? with
  | none => false
  | some m => !(s.msgs.take n).any fun x => x.src = m.src && x.dst = m.dst && x.cls = m.cls

/-- The package of an agent. -/
def Agent.pkg : Agent → Nat
  | .core c => pkgOf c
  | .dist p _ => p
  | .unit p => p

/-- The message at a position has been taken out of the fabric. A message delivered out of a cluster is a sink event of
that cluster (R262). -/
def State.taken (s : State) (n : Nat) (m : Msg) : State :=
  let t := { s with msgs := dropAt s.msgs n }
  match m.src, m.dst with
  | .core c, .core e =>
    if clusterOf e = clusterOf c then t else t.modCluster (clusterOf c) fun x => { x with vigilSince := s.now c }
  | .core c, _ => t.modCluster (clusterOf c) fun x => { x with vigilSince := s.now c }
  | _, _ => t

/-- Delivers the message at a position to what its body means; a message that cannot be delivered yet stays. -/
def State.deliver (s : State) (n : Nat) (f : Msg → State → Option State) : State :=
  match s.msgs[n]? with
  | none => s
  | some m => if s.deliverable n then (f m (s.taken n m)).getD s else s

/-! ## Records and traps (R8, R364 to R367) -/

/-- Details padded to four words. -/
def four (ds : List Word) : List Word := (ds ++ [0, 0, 0, 0]).take 4

/-- The words of a record of R364. -/
def recordWords (cause kind domain grans : Nat) (handle pc : Word) (word : IWord) (rank : Nat) (ds : List Word) :
    List Word :=
  [BitVec.ofNat 64 (cause + kind * 2 ^ 8 + domain * 2 ^ 16 + grans * 2 ^ 32), handle, pc,
    BitVec.ofNat 64 (word.toNat + rank * 2 ^ 32)] ++ four ds

/-- Buffers a record at a core (R367); it is committed by TRAP_RECORD. -/
def State.buffer (s : State) (c : CoreId) (r : Rec) : State :=
  s.modCore c fun x => { x with records := x.records ++ [r] }

/-- A report of KIND 2 or 3, or an event of KIND 4, from a unit of a package: it waits in the package's own buffer. -/
def State.report (s : State) (p : Nat) (domain : Option Nat) (cause kind : Nat) (ds : List Word) : State :=
  let dest : RecDest := match domain with | some d => .domain d | none => .monitor
  s.modPkg p fun x =>
    { x with outbox := x.outbox ++ [{ dest := dest, words := recordWords cause kind (domain.getD 0) 1 0 0 0 0 ds }] }

/-- The number of a process's job in the pod: its package and JOB; 0 for none (R319, R333). -/
def Proc.jobKey (p : Proc) : Nat := if p.job = 0 then 0 else p.chpkg * 2 ^ 48 + p.job.toNat

/-- Whether a migrating process has been accepted elsewhere, ACCEPT being on its way (R311). -/
def State.leftFor (s : State) (k : Slot) : Bool :=
  s.msgs.any fun m => match m.body with
    | .accept j pid _ => j = k && pid = (s.proc k).pid
    | _ => false

/-- The word of the instruction in progress. -/
def Proc.iword (p : Proc) : IWord := match p.inflight with | some (_, w) => w | none => 0

/-- A process parked at an endpoint looks again; one whose block is on its way (mark 3) or whose bind is being answered
(mark 4) does not (R253, R290). -/
def State.lookAgain (s : State) (k : Slot) : State :=
  match (s.proc k).phase with
  | .after _ _ 3 => s
  | .after _ _ 4 => s
  | _ => s.wake k 0 0

/-- The process parked first on an endpoint looks again. -/
def State.wakeEp (s : State) (e : EpId) : State :=
  match (s.ep e).waiter with
  | none => s
  | some k => s.lookAgain k

/-- A process leaves an endpoint it waits on; the next in order takes its place and looks again (R253, R254). -/
def State.leaveOne (s : State) (k : Slot) (e : EpId) : State :=
  let y := s.ep e
  let x := { y with syncing := natErase y.syncing k, queue := natErase y.queue k }
  if x.waiter = some k then
    match x.queue with
    | [] => s.setEp e { x with waiter := none }
    | j :: r => (s.setEp e { x with waiter := some j, queue := r }).lookAgain j
  else s.setEp e x

/-- The words that the instruction in progress of a process had taken from its ports stay at the heads of their FIFOs: it
ends without its effect (R8, R69; log 119). -/
def State.giveBack (s : State) (k : Slot) : State :=
  (s.proc k).qeps.foldl (fun (t : State) x =>
    if (t.ep x.2).held = 0 then t else (t.modEp x.2 fun y => { y with held := 0 }).wakeEp x.2) s

/-- A process leaves every endpoint of its core that names it. -/
def State.leaveAll (s : State) (k : Slot) : State :=
  (s.eps.filter fun (e, x) => coreOfEp e = coreOf k &&
    (x.waiter = some k || x.queue.contains k || x.syncing.contains k)).foldl (fun t (e, _) => t.leaveOne k e) s

/-- An offer of a process that has departed: its acknowledgement will find no one (R254). -/
def Offer.orphan (k : Slot) : Offer → Offer
  | .word j p v => .word j (if j = k then 0 else p) v
  | .block j p loc n => .block j (if j = k then 0 else p) loc n

/-- What becomes of a message in flight when a process leaves its wait: an answer bound for it will find no one (R254). -/
def Body.orphan (k : Slot) : Body → Body
  | .offer e o => .offer e (o.orphan k)
  | .ack j p => .ack j (if j = k then 0 else p)
  | .space j p => .space j (if j = k then 0 else p)
  | .refuse j p l g => .refuse j (if j = k then 0 else p) l g
  | .block j p n d => .block j (if j = k then 0 else p) n d
  | .bind j p a b => .bind j (if j = k then 0 else p) a b
  | .bindReply j p a => .bindReply j (if j = k then 0 else p) a
  | .remote o j p => .remote o j (if j = k then 0 else p)
  | .reply a j p g => .reply a j (if j = k then 0 else p) g
  | .increment i h j p a g => .increment i h j (if j = k then 0 else p) a g
  | .device l j p u d => .device l j (if j = k then 0 else p) u d
  | .migrate p j => .migrate (if j = k then { p with pid := 0 } else p) j
  | b => b

/-- The offers of a process that departs, held or on their way, carry PID 0 from then on: the withdrawal discards one that
no receiver takes first, and no acknowledgement of one reaches a later wait of the process (R254). -/
def State.orphanOffers (s : State) (k : Slot) : State :=
  { s with
    msgs := s.msgs.map fun m => { m with body := m.body.orphan k }
    eps := s.eps.map fun x => (x.1, { x.2 with offer := x.2.offer.map (Offer.orphan k) }) }

/-- Removes a process from what it waits on (R240, R254): a withdrawal is sent where its offer may stand, a migration
not yet accepted is taken back, its context on the way marked by PID 0 (R311). -/
def State.withdraw (s0 : State) (k : Slot) : State :=
  let p := s0.proc k
  let s1 := ((s0.giveBack k).leaveAll k).orphanOffers k
  let s := { s1 with late := s1.late.del k }
  match p.wait with
  | .endpoint e =>
    let x := s0.ep e
    (match p.phase with
     | .after _ _ _ =>
       if x.dir && x.mode = 0 && x.state = 2 && !x.portv && p.state = .parked then
         s.send (.core (coreOf k)) (.core (coreOfEp (epOfHandle x.peer))) .control (.withdraw (epOfHandle x.peer) k 0)
       else s
     | .fresh => s)
  | .line _ => { s with armed := s.armed.filter fun a => a.2 ≠ k }
  | .barrier _ => { s with barriers := s.barriers.filter fun a => a.2 ≠ k }
  | .ticket e t => s.modEp e fun x => { x with callers := x.callers.filter fun a => !(a.1 = t && a.2 = k) }
  | .migration c =>
    s.modCore c fun x => { x with refusals := natErase x.refusals k }
  | .fault _ =>
    { s with bases := s.bases.map fun (b, x) =>
        (b, { x with
          faults := x.faults.map fun (i, f) =>
            (i, { f with waiters := f.waiters.filter fun w => w.engine || w.slot ≠ k })
          waiting := x.waiting.filter fun (_, _, _, _, _, w) => w.engine || w.slot ≠ k }) }
  | _ => s

/-- Stops the process of a slot with a trap, an engine error or a report on it (R73, R240, R364): PSTAT.CAUSE and
LINK.STATE change, the wait is withdrawn, one record is buffered. -/
def State.stopProc (s : State) (k : Slot) (kind cause : Nat) (word : IWord) (ds : List Word) : State :=
  let p := s.proc k
  let s1 := (s.withdraw k).unlist k
  let s2 := s1.setProc k { s1.proc k with
    state := .stopped, waitk := 0, wait := .none, due := none, cause := BitVec.ofNat 8 cause, held := none, deadline := none,
    phase := .fresh, inflight := none, engaged := none, slice := none, overrun := 0 }
  s2.buffer (coreOf k) {
    dest := .domain p.domain.toNat, source := some (k, p.pid)
    words := recordWords cause kind p.domain.toNat 1 (s.handleOf k) p.pc word p.rank.toNat ds }

/-- Trap(cause, detail…) of the current process (R8, R73): TAKING AN EXCEPTION. The process stops with PC at the
instruction, CAUSE set and a record of KIND 0 on its way to the supervisor. -/
def State.trap (s : State) (cause : Nat) (ds : List Word) : State :=
  s.stopProc s.self 0 cause s.cur.iword ds

/-- The process of a slot stops with a process trap at the instruction in progress. -/
def State.trapOf (s : State) (k : Slot) (cause : Nat) (ds : List Word) : State :=
  s.stopProc k 0 cause (s.proc k).iword ds

/-- RESUME of a stopped process: THE RETURN FROM AN EXCEPTION (R240, R309). SSTEP comes from the image, CAUSE is kept,
the process goes to the tail of its level at the PC in its record. -/
def State.resumeProc (s : State) (k : Slot) (sstep : Bool) : State :=
  (s.modProc k fun p => { p with state := .ready, sstep := sstep, phase := .fresh, inflight := none }).toTail k

/-! ## The end of an instruction (R111) -/

/-- The next sequential PC (R111). -/
def nextPc (pc : Word) : Word := BitVec.ofNat 64 ((pc.toNat % 2 ^ 56 + 4) % 2 ^ 56)

/-- Ends the current instruction with the PC at a target; a single-stepped process then stops with BREAK (R37, R351). -/
def State.finishAt (s : State) (pc : Word) : State :=
  let w := s.cur.iword
  let t := { s with cur := { s.cur with pc := pc, phase := .fresh, inflight := none, lastWord := w, held := none,
                                        wait := .none } }
  if s.cur.sstep then t.stopProc t.self 0 0x16 w [1] else t

/-- Ends the current instruction at the next sequential PC. -/
def State.retire (s : State) : State := s.finishAt (nextPc s.cur.pc)

/-! ## Registers -/

/-- A general register; g0 reads zero (R25). -/
def Proc.reg (p : Proc) (r : Reg) : Word := if r = 0 then 0 else p.g[r.toNat]'r.isLt

/-- A general register written; a write to g0 is discarded (R25). -/
def Proc.setReg (p : Proc) (r : Reg) (v : Word) : Proc :=
  if r = 0 then p else { p with g := p.g.set r.toNat v r.isLt }

/-- A predicate; p0 reads 1 (R25). -/
def Proc.predicate (p : Proc) (r : PReg) : Bool := r = 0 || p.pred.getLsbD r.toNat

/-- A predicate written; a write to p0 is discarded (R25). -/
def Proc.setPred (p : Proc) (r : PReg) (b : Bool) : Proc :=
  if r = 0 then p else { p with pred := if b then p.pred ||| 1#8 <<< r.toNat else p.pred &&& ~~~(1#8 <<< r.toNat) }

/-- PSTAT as a word (R37). -/
def Proc.pstat (p : Proc) : Word :=
  BitVec.ofNat 64 (p.light.toNat + p.supv.toNat * 2 + p.vext.isSome.toNat * 4 + p.sstep.toNat * 8 +
    p.inalt.toNat * 16 + p.recording.toNat * 32 + p.cause.toNat * 2 ^ 8 + p.domain.toNat * 2 ^ 16)

/-- The code of LINK.STATE (R33). -/
def PState.code : PState → Nat
  | .free => 0 | .ready => 1 | .running => 2 | .parked => 3 | .stopped => 4 | .arriving => 5

/-- SCHW as a word (R33). -/
def Proc.schw (p : Proc) : Word :=
  BitVec.ofNat 64 ((p.pred ||| 1).toNat + p.tileown.toNat * 2 ^ 8 + p.prio.toNat * 2 ^ 16 + p.debt.toNat * 2 ^ 32)

/-- BUDGET as a word (R38). -/
def Proc.budget (p : Proc) : Word := BitVec.ofNat 64 (p.limit.toNat + p.used.toNat * 2 ^ 32)

/-- QMAP as a word (R38). -/
def Proc.qmap (p : Proc) : Word := BitVec.ofNat 64 (p.qen.toNat + p.qdir.toNat * 2 ^ 8)

end Sys2Proof.Machine
end

