-- ==== Sys2Proof/Machine/Access.lean ====
section
/-! DEFINITION. Reaching memory: address classes (R42), translation (R340 to R344), performing reads and writes at their
homes (R170 to R175), ordered-add groups (R224), step entries and package views (R194 to R199), the store queue
(R173, R174). -/

namespace Sys2Proof.Machine

/-! ## Where an access lands -/

/-- The place an address names, after its checks (R42, R192, R215). -/
inductive Spot where
  /-- Package memory at a location; for HBM, the key slot its page names. -/
  | mem (loc : Nat) (key : Option Nat)
  | step (loc rule key : Nat)
  | atomic (loc key : Nat)
  | port (port addr : Nat) (io : Bool)
  deriving DecidableEq, Repr

/-- The result of a check that can fail: a value, a trap, or a missing translation with the level that stopped the walk
and whether its entry was malformed. -/
inductive XRes (α : Type) where
  | ok (a : α)
  | trap (cause : Nat) (ds : List Word)
  | miss (va : Word) (level : Nat) (malformed : Bool)
  deriving DecidableEq, Repr

/-- The rights an access needs of its translation (R214, R342). -/
inductive Need where
  | read | write | both | exec | nothing
  deriving DecidableEq, Repr

def Need.writes : Need → Bool
  | .write => true
  | .both => true
  | _ => false

/-! ## Key slots and HBM lines (R347) -/

/-- The material of a key slot, none when it is empty. -/
def State.material (s : State) (p slot : Nat) : Option (BitVec 512) := ((s.pkg p).keys.find? slot).map Key.material

/-- The 64 bytes of an HBM line as an access through a page with the key slot sees them: plaintext while a cluster
cache holds the line or when it was stored under the same material, else the old ciphertext deciphered under the slot
as it stands (R347). A line that was never sealed reads as plaintext (log 14). -/
def State.lineUnder (s : State) (loc key : Nat) : List Byte :=
  let l := loc / 64
  let plain := s.mem.read (64 * l) 64
  match s.dirty.find? l, s.seals.find? l, s.material (pkgOfLoc loc) key with
  | none, some old, some new =>
    if old = new then plain
    else
      let pa := paOf (64 * l)
      let c := Aes.xtsLine true old.toNat pa (plain.map BitVec.toNat)
      (Aes.xtsLine false new.toNat pa c).map (BitVec.ofNat 8)
  | _, _, _ => plain

/-- Whether every line of a range reads as its plaintext under a key slot. -/
def State.plainUnder (s : State) (loc n key : Nat) : Bool :=
  (fromTo (loc / 64) ((loc + n + 63) / 64 - loc / 64)).all fun l =>
    match s.dirty.find? l, s.seals.find? l, s.material (pkgOfLoc loc) key with
    | none, some old, some new => old = new
    | _, _, _ => true

/-- Bytes of memory through a key slot. -/
def State.bytesAt (s : State) (loc n : Nat) (key : Option Nat) : List Byte :=
  match key with
  | none => s.mem.read loc n
  | some k =>
    if s.plainUnder loc n k then s.mem.read loc n
    else (fromTo loc n).map fun a => (s.lineUnder a k).getD (a % 64) 0

/-- Whether a granule in a range is poisoned (R216). -/
def State.poisoned (s : State) (loc n : Nat) : Bool := (granules loc n).any (natMem s.poison)

/-- Writes a dirty line back to HBM: its bytes stay, sealed under its key slot as it stands; an empty slot holds zero
material (R347, R348). -/
def State.writeBack (s : State) (l : Nat) : State :=
  match s.dirty.find? l with
  | none => s
  | some d =>
    { s with dirty := s.dirty.del l, seals := s.seals.put l ((s.material (pkgOfLoc (64 * l)) d.key).getD 0) }

/-- The lines a cluster cache holds: 4 MiB (R14). -/
def cacheLines : Nat := 65536

/-- A cluster cache whose every line is dirty writes one back before it takes another (R14, log 97). -/
def State.makeRoom (s : State) (cl : Nat) : State :=
  let mine := s.dirty.filter fun e => e.2.cluster = cl
  if mine.length < cacheLines then s
  else
    match mine[Config.victimLine s.draws % mine.length]? with
    | some e => { s.writeBack e.1 with draws := s.draws + 1 }
    | none => s

/-- The line becomes the plaintext its new key slot shows, ready to be written (R347). -/
def State.refill (s : State) (l key : Nat) : State :=
  if s.plainUnder (64 * l) 64 key then s else { s with mem := s.mem.write (64 * l) (s.lineUnder (64 * l) key) }

/-- A line taken for writing: by a cluster cache, which then holds it dirty (R170), or by the memory server after its
directory has recalled it (R222). -/
def State.takeLine (s : State) (l : Nat) (cl : Option Nat) (key : Nat) : State :=
  let s1 := s.refill l key
  match cl with
  | some c =>
    let s2 := if (s1.dirty.find? l).any fun d => d.cluster = c then s1 else s1.makeRoom c
    match s2.dirty.find? l with
    | some d => { s2 with dirty := s2.dirty.put l { d with cluster := c, key := key } }
    | none =>
      { s2 with dirty := s2.dirty.put l {
        cluster := c, key := key, bytes := s.mem.read (64 * l) 64,
        poison := (granules (64 * l) 64).filter (natMem s.poison), material := s.seals.find? l } }
  | none =>
    let s2 := s1.writeBack l
    match s2.material (pkgOfLoc (64 * l)) key with
    | some m => { s2 with seals := s2.seals.put l m }
    | none => s2

/-! ## What a write sets off -/

/-- The open recording of a core abandoned with a status (R269): its tape is removed. -/
def State.abandonRec (s : State) (c : CoreId) (status : Nat) : State :=
  match (s.core c).recording with
  | none => s
  | some r =>
    ((s.modCore c fun x => { x with recording := none }).modCluster (clusterOf c) fun x =>
      { x with tapes := x.tapes.del r.index }).modProc r.owner fun p => { p with recStatus := status }

/-- A tape made invalid (R281): it goes at once unless a replay still streams it. -/
def State.invalidate (s : State) (cl i : Nat) : State :=
  match (s.cluster cl).tapes.find? i with
  | none => s
  | some t =>
    if t.state ≠ 2 then s
    else s.modCluster cl fun x =>
      { x with tapes := if t.active = 0 then x.tapes.del i else x.tapes.put i { t with state := 3 } }

/-- A write performed at a scratchpad, against the watched pool ranges (R269, R281). -/
def State.poolWrite (s : State) (loc n : Nat) : State :=
  let c := coreOfSpad loc
  let o := spadOff loc
  (s.cluster (clusterOf c)).tapes.foldl (fun t (i, tp) =>
    if tp.core = c && tp.pcount ≠ 0 && o < 32 * (tp.pbase + tp.pcount) && 32 * tp.pbase < o + n then
      if tp.state = 1 then t.abandonRec c 3 else t.invalidate (clusterOf c) i
    else t) s

/-- Every waiter armed on a line of a range wakes and is disarmed (R186, R227). -/
def State.wakeLines (s : State) (loc n : Nat) : State :=
  let hit := s.armed.filter fun a => loc / 64 ≤ a.1 && a.1 ≤ (loc + n - 1) / 64
  State.wakeAll { s with armed := s.armed.filter fun a => !(loc / 64 ≤ a.1 && a.1 ≤ (loc + n - 1) / 64) } (hit.map fun a => a.2)

/-- A sink event of the vigil of a core's cluster (R262). -/
def State.sink (s : State) (c : CoreId) : State :=
  s.modCluster (clusterOf c) fun x => { x with vigilSince := s.now c }

/-- The granules of a range that are written whole lose their poison; the others keep it (R216). -/
def State.cleanse (s : State) (loc n : Nat) : State :=
  { s with poison := s.poison.filter fun g => !(loc ≤ 8 * g && 8 * g + 8 ≤ loc + n) }

/-- A granule's bytes written without what a write sets off. -/
def State.poke (s : State) (loc : Nat) (bs : List Byte) : State := { s with mem := s.mem.write loc bs }

/-! ## Ordered-add groups (R223, R224) -/

/-- Round(a + b, F, RNE, 0) under R119's rules, on codes of 4 or 8 bytes. -/
def fsum (size a b : Nat) : Nat := (farith .add (if size = 4 then .fp32 else .fp64) .rne false a b 0).1

/-- The elements of an entry added to the granule's value. -/
def OrdAdd.onto (e : OrdAdd) (v : Nat) : Nat :=
  if e.size = 8 then fsum 8 v e.sum.toNat
  else
    let lo := if e.mask.getLsbD 0 then fsum 4 (v % 2 ^ 32) (e.sum.toNat % 2 ^ 32) else v % 2 ^ 32
    let hi := if e.mask.getLsbD 4 then fsum 4 (v / 2 ^ 32) (e.sum.toNat / 2 ^ 32) else v / 2 ^ 32
    lo + hi * 2 ^ 32

/-- Insertion in increasing RANK and then increasing core number (R224). -/
def insertAdd (e : OrdAdd) : List OrdAdd → List OrdAdd
  | [] => [e]
  | x :: r => if e.rank < x.rank || (e.rank = x.rank && e.core < x.core) then e :: x :: r else x :: insertAdd e r

/-- The open group of a granule is applied and its entries freed (R224). -/
def State.applyGroup (s : State) (g : Nat) : State :=
  let group := (s.ordadds.filter fun e => e.gran = g).foldl (fun l e => insertAdd e l) []
  if group.isEmpty then s
  else
    let s1 := { s with ordadds := s.ordadds.filter fun e => e.gran ≠ g }
    if natMem s.poison g then s1
    else
      let v := group.foldl (fun v e => e.onto v) (leVal (s.mem.read (8 * g) 8))
      (s1.poke (8 * g) (leBytes v 8)).wakeLines (8 * g) 8

/-- The open groups of a range are applied before it is accessed (R224). -/
def State.applyGroups (s : State) (loc n : Nat) : State :=
  if s.ordadds.isEmpty then s else (granules loc n).foldl State.applyGroup s

/-! ## Performing an access at its home -/

/-- A write performed at its home (R170, R175): `cl` is the cluster whose cache takes an HBM line, none for a write of
the memory server; `by_` is the core whose cluster counts a sink event. -/
def State.writeAt (s : State) (cl : Option Nat) (by_ : Option CoreId) (loc : Nat) (bs : List Byte) (key : Option Nat) :
    State :=
  let n := bs.length
  if n = 0 then s
  else
    let s1 := s.applyGroups loc n
    let s2 := match kindOf loc with
      | .hbm => (fromTo (loc / 64) ((loc + n + 63) / 64 - loc / 64)).foldl
          (fun (t : State) l => t.takeLine l cl (key.getD 0)) s1
      | _ => s1
    let s3 := ((s2.poke loc bs).cleanse loc n).wakeLines loc n
    let s4 := if kindOf loc = .spad then s3.poolWrite loc n else s3
    match by_ with
    | some c => if kindOf loc = .spad then s4 else s4.sink c
    | none => s4

/-- The address operand of the instruction a process is parked in. -/
def Proc.firstValue (p : Proc) : Word :=
  match p.phase with
  | .after vals _ _ => vals.headD 0
  | .fresh => 0

/-- The processes parked in BARW on a barrier object whose word 0 or 1 is the granule are stopped with MEMERR (R233, R235). -/
def State.stopWaiters (s : State) (g : Nat) : State :=
  (s.barriers.filter fun x => x.1 / 8 ≤ g && g < x.1 / 8 + 2).foldl
    (fun (t : State) x => t.trapOf x.2 0x08 [(t.proc x.2).firstValue, 0]) s

/-- A granule poisoned (R154, R221, R368); who waits on a barrier object there is stopped (R235). -/
def State.poisonAt (s : State) (loc : Nat) : State :=
  State.stopWaiters { s with poison := natInsert s.poison (loc / 8) } (loc / 8)

/-- A read performed at its home: ordered-add groups are applied first (R224). The bytes, whether a granule is
poisoned, and the state after. -/
def State.readAt (s : State) (loc n : Nat) (key : Option Nat) : List Byte × Bool × State :=
  let s1 := s.applyGroups loc n
  (s1.bytesAt loc n key, s1.poisoned loc n, s1)

/-! ## Step entries (R194 to R200) -/

/-- One contribution to a granule: for each of its 8 bytes, the byte and its descriptor. -/
abbrev Contrib := List (Option (Byte × Desc))

/-- The width of a descriptor's element in bytes (R196). -/
def Desc.width : Desc → Nat
  | .unsigned n => n
  | .signed n => n
  | .float f => (match Fmt.ofCode f with | some (.float F) => F.width / 8 | _ => 1)

/-- Round(a + b) in an element's format, or the wrapping sum (R106, R197, R199). -/
def Desc.sum (d : Desc) (a b : Nat) : Nat :=
  match d with
  | .float f => (match Fmt.ofCode f with | some (.float F) => (farith .add F .rne false a b 0).1 | _ => a)
  | _ => (a + b) % 2 ^ (8 * d.width)

/-- The smaller or larger of two elements, compared by kind (R197, R199). -/
def Desc.minmax (d : Desc) (isMax : Bool) (a b : Nat) : Nat :=
  match d with
  | .float f => (match Fmt.ofCode f with | some (.float F) => (fminmax isMax F false a b).1 | _ => a)
  | .unsigned _ => if (a < b) != isMax then a else b
  | .signed n => if decide (signedOf (8 * n) a < signedOf (8 * n) b) != isMax then a else b

/-- Combination of two elements under SUM, MIN or MAX. -/
def Desc.combine (d : Desc) (rule a b : Nat) : Nat :=
  if rule = 3 then d.sum a b else d.minmax (rule = 5) a b

/-- The value of an element of a granule, from the byte its element begins at. -/
def elemOf (bs : List Byte) (at_ w : Nat) : Nat := leVal ((bs.drop at_).take w)

/-- The bytes of an entry, those it does not hold as zero. -/
def StepEntry.raw (e : StepEntry) : List Byte := e.bytes.map fun b => match b with | some (v, _, _) => v | none => 0

/-- The combination of one byte of a contribution into an entry (R197). -/
def combineByte (rule : Nat) (old : List (Option (Byte × Desc × Bool))) (new : Contrib) (i : Nat) :
    Option (Byte × Desc × Bool) :=
  match old.getD i none, new.getD i none with
  | o, none => o
  | none, some (v, d) => some (v, d, false)
  | some (ov, od, bad), some (v, d) =>
    if rule ≤ 2 then some (v, d, bad)
    else if rule = 6 then some (ov ||| v, d, bad)
    else if rule = 7 then some (ov &&& v, d, bad)
    else if od ≠ d || bad then some (ov, od, true)
    else
      let at_ := i - i % d.width
      let raw := fun (l : List (Option (Byte × Desc × Bool))) => l.map fun b => match b with | some (x, _, _) => x | none => 0
      let nraw := new.map fun b => match b with | some (x, _) => x | none => 0
      let r := d.combine rule (elemOf (raw old) at_ d.width) (elemOf nraw at_ d.width)
      some ((leBytes r d.width).getD (i - at_) 0, d, false)

/-- A contribution combined into an entry (R197). -/
def StepEntry.add (e : StepEntry) (new : Contrib) : StepEntry :=
  { e with bytes := (upTo 8).map (combineByte e.rule e.bytes new) }

/-- The order of R200: RANK, then package, then die; the die number counts through the pod. -/
def StepEntry.before (a b : StepEntry) : Bool := a.rank < b.rank || (a.rank = b.rank && a.die < b.die)

def insertEntry (e : StepEntry) : List StepEntry → List StepEntry
  | [] => [e]
  | x :: r => if e.before x then e :: x :: r else x :: insertEntry e r

def sortEntries (es : List StepEntry) : List StepEntry := es.foldl (fun l e => insertEntry e l) []

/-- The entries of a sorted list that hold byte `i`. -/
def covering (es : List StepEntry) (i : Nat) : List (StepEntry × Byte × Desc × Bool) :=
  es.filterMap fun e => match e.bytes.getD i none with | some (v, d, b) => some (e, v, d, b) | none => none

/-- Whether a byte is shape-conflicted or covered by different descriptors (R199). -/
def mixed (es : List StepEntry) (i : Nat) : Bool :=
  match covering es i with
  | [] => false
  | (_, _, d, b) :: r => b || r.any fun x => x.2.2.1 ≠ d || x.2.2.2

/-- Byte `i` of a granule after the conflict rule is applied to the image and the sorted entries, and whether it is
conflicting (R199, R200). -/
def applyByte (image : List Byte) (es : List StepEntry) (i : Nat) : Byte × Bool :=
  let old := image.getD i 0
  match es, covering es i with
  | _, [] => (old, false)
  | [], _ => (old, false)
  | e0 :: _, (e1, v, d, b) :: r =>
    if es.any fun e => e.rule ≠ e0.rule then (old, true)
    else if e0.rule = 0 then (if r.isEmpty then (v, false) else (old, true))
    else if e0.rule = 1 then (v, false)
    else if e0.rule = 2 then (((((e1, v, d, b) :: r).getLast?.map fun x => x.2.1).getD v), false)
    else if e0.rule = 6 then (((e1, v, d, b) :: r).foldl (fun a x => a ||| x.2.1) old, false)
    else if e0.rule = 7 then (((e1, v, d, b) :: r).foldl (fun a x => a &&& x.2.1) old, false)
    else
      let at_ := i - i % d.width
      if (fromTo at_ d.width).any (mixed es) then (old, true)
      else
        let acc := ((e1, v, d, b) :: r).foldl
          (fun a x => d.combine e0.rule a (elemOf x.1.raw at_ d.width)) (elemOf image at_ d.width)
        ((leBytes acc d.width).getD (i - at_) 0, false)

/-- A granule after its entries are applied: its bytes and which of them conflict. -/
def applyEntries (image : List Byte) (es : List StepEntry) : List (Byte × Bool) :=
  (upTo 8).map (applyByte image (sortEntries es))

/-- How many calends a package has released since the pod formed: the number of the step whose calends it takes part in
(R193, R203). -/
def Package.released (x : Package) : Nat := if x.phase = 0 then x.openStep else x.openStep - 1

/-- The package view of package `p` of a granule of a STEP page (R194): its entries are those its step unit has accepted
bytes into; one that is only reserved holds none. Entries of a step whose calends the home has released stand in the
home's image already (R205). -/
def State.viewGranule (s : State) (p g : Nat) (key : Nat) : List Byte :=
  let es := (s.pkg p).entries.filter fun e =>
    e.gran = g && e.bytes.any Option.isSome && decide ((s.pkg (pkgOfLoc (8 * g))).released ≤ e.step)
  (applyEntries (s.bytesAt (8 * g) 8 (some key)) es).map (·.1)

/-- The package view of a range of a STEP page, and whether a granule it reads is poisoned. -/
def State.viewAt (s : State) (p loc n key : Nat) : List Byte × Bool :=
  (((granules loc n).flatMap fun g => s.viewGranule p g key).drop (loc % 8) |>.take n, s.poisoned loc n)

/-- The byte the parts of a write hold for an address: that of the last part there. -/
def partAt (parts : List (Nat × List Byte)) (a : Nat) : Option Byte :=
  parts.foldl (fun b x => if x.1 ≤ a && a < x.1 + x.2.length then x.2[a - x.1]? else b) none

/-- The parts of a write laid over the granule `g` as one contribution (R196): elements of the descriptor's width. -/
def contribOf (parts : List (Nat × List Byte)) (g : Nat) (d : Desc) : Contrib :=
  (upTo 8).map fun i => (partAt parts (8 * g + i)).map fun b => (b, d)

/-- Whether an entry is the one a contribution combines into (R197). -/
def StepEntry.takes (e : StepEntry) (g rank die rule step : Nat) : Bool :=
  e.gran = g && e.rank = rank && e.die = die && e.rule = rule && e.step = step

/-- Entries one step unit can hold in SRAM (R197). -/
def unitEntries : Nat := 507904

/-- The step unit of a granule: physical address bits [7:6] (R197). -/
def unitOf (g : Nat) : Nat := g / 8 % 4

/-- Reserves an entry for a granule in the package's open step (R198): none when neither SRAM nor the overflow quarter
has room. -/
def Package.reserve (x : Package) (g rank die rule key domain : Nat) : Option Package :=
  if x.entries.any fun e => e.takes g rank die rule x.openStep then some x
  else
    let mine := x.entries.filter fun e => unitOf e.gran = unitOf g
    let sram := (mine.filter fun e => !e.overflow).length
    let ovf := (mine.filter fun e => e.overflow).length
    let fresh := fun o => { x with entries := x.entries ++ [{
      gran := g, rank := rank, die := die, rule := rule, key := key, domain := domain, step := x.openStep, overflow := o,
      poisoned := false, bytes := List.replicate 8 none }] }
    if sram < unitEntries then some (fresh false)
    else if ovf < x.ovfSize * 2048 / 4 then some (fresh true)
    else none

/-- An entry after a contribution that its granule, writer, rule and step take is combined into it (R193, R197). -/
def StepEntry.accept (e : StepEntry) (parts : List (Nat × List Byte)) (d : Desc) (rank die rule step : Nat) : StepEntry :=
  if parts.any fun y => (granules y.1 y.2.length).any fun g => e.takes g rank die rule step then
    e.add (contribOf parts e.gran d)
  else e

/-- The step unit accepts a contribution into the entries reserved for it (R193, R197): its parts together. -/
def State.accept (s : State) (p : Nat) (parts : List (Nat × List Byte)) (d : Desc) (rank die rule step : Nat) : State :=
  s.modPkg p fun x => { x with entries := x.entries.map fun e => e.accept parts d rank die rule step }

/-! ## Host ports -/

def Package.port (x : Package) (n : Nat) : Port := if n = 0 then x.port0 else x.port1

def Package.setPort (x : Package) (n : Nat) (q : Port) : Package :=
  if n = 0 then { x with port0 := q } else { x with port1 := q }

/-- A posted write of some parts leaves a host port (R187, R188, R230). -/
def State.post (s : State) (p port : Nat) (parts : List (Nat × List Byte)) : State :=
  s.modPkg p fun x => x.setPort port { x.port port with writes := (x.port port).writes ++ [parts] }

/-- A non-posted request leaves a host port (R187, R225). -/
def State.request (s : State) (p port : Nat) (r : PortReq) : State :=
  s.modPkg p fun x => x.setPort port { x.port port with requests := (x.port port).requests ++ [r] }

/-- The number of a host port in the pod. -/
def portKey (p port : Nat) : Nat := 2 * p + port

/-- How many writes a port of the pod has posted. -/
def State.postedOn (s : State) (key : Nat) : Nat := ((s.pkg (key / 2)).port (key % 2)).writes.length

/-- A read that a port issued after its first `n` posted writes has been completed: those writes are flushed (R178,
R187). -/
def State.flushPort (s : State) (key n : Nat) : State :=
  s.modPkg (key / 2) fun x =>
    x.setPort (key % 2) { x.port (key % 2) with flushed := max (x.port (key % 2)).flushed n }

/-- Whether the posted writes a process is answerable for are flushed: each port's completed reads cover them (R178). -/
def State.flushDone (s : State) (m : Map Nat) : Bool :=
  m.all fun e => decide (e.2 ≤ ((s.pkg (e.1 / 2)).port (e.1 % 2)).flushed)

/-- A posted write of a process, which becomes answerable for its flush (R178). -/
def State.postFor (s : State) (k : Slot) (pid : Word) (p port : Nat) (parts : List (Nat × List Byte)) (io : Bool) :
    State :=
  let t := s.post p port parts
  let key := portKey p port
  t.modProc k fun q =>
    if q.pid ≠ pid then q
    else if io then { q with unflushedIo := q.unflushedIo.put key (t.postedOn key) }
    else { q with unflushedHost := q.unflushedHost.put key (t.postedOn key) }

/-! ## The store queue (R173, R174, R178) -/

/-- The home of a queued store: for package memory that of its location, for a STEP page the package's step unit of its
line (R170, R197), for a host port the port. Every store lies in one aligned granule, and so has one home. -/
def Target.home : Target → Nat
  | .mem loc => homeOf loc
  | .step loc _ _ _ => 2 ^ 62 + loc / 64 % 4
  | .port pt _ _ => 2 ^ 63 + pt

/-- Whether a scope's drain class waits for the store queue alone, for performed accesses, or for more (R178). -/
def drainOf (scope : Nat) : Drain :=
  if scope = 0 then .none else if scope ≤ 2 then .corePoint else if scope ≤ 6 then .package
  else if scope = 7 then .host else if scope = 8 then .podstep else if scope = 9 then .podnow
  else if scope = 10 then .io else .system

/-- Whether the cross-package channel messages of a core's processes have all been delivered (R178, podnow). -/
def State.channelsQuiet (s : State) (c : CoreId) : Bool :=
  !s.msgs.any fun m => m.src = .core c && m.cls = .channel && m.dst.pkg ≠ pkgOf c

/-- Whether the drain of a class is complete for a process on core `c` over a list of its queued stores (R178). -/
def State.drainedFor (s : State) (c : CoreId) (p : Proc) (q : List QStore) (d : Drain) : Bool :=
  match d with
  | .none => true
  | .corePoint => q.all (·.passed)
  | .stores => q.all (·.passed)
  | .package => q.isEmpty
  | .host => q.isEmpty && s.flushDone p.unflushedHost
  | .io => q.isEmpty && s.flushDone p.unflushedIo
  | .podstep => q.isEmpty
  | .podnow => q.isEmpty && s.channelsQuiet c
  | .system => q.isEmpty && s.flushDone p.unflushedHost && s.flushDone p.unflushedIo && s.channelsQuiet c

/-- Whether the drain of a class is complete for the accesses a process has made (R178); an operation that counts as a
store also waits for the marks of its FENCEs (R179). -/
def State.drained (s : State) (k : Slot) (d : Drain) : Bool :=
  let p := s.proc k
  let q := (s.core (coreOf k)).storeQ.filter fun e =>
    e.owner = k && e.pid = p.pid && (e.target.isSome || d = .stores)
  s.drainedFor (coreOf k) p q d

/-- A process that waits for a drain that has completed goes on. -/
def State.recheck (s : State) (k : Slot) : State :=
  match (s.proc k).wait with
  | .drain d => if s.drained k d then s.wake k 0 0 else s
  | .storeQueue => s.wake k 0 0
  | _ => s

/-- Every process of a core that waits for the store queue or a drain looks again. -/
def State.recheckCore (s : State) (c : CoreId) : State := (s.liveOn c).foldl State.recheck s

/-- The parts of a queued store whose first byte goes to `a`: where each goes, and its bytes. -/
def QStore.parts (q : QStore) (a : Nat) : List (Nat × List Byte) := (a, q.bytes) :: q.more

/-- The compute die or base die that a location of package memory is lost with, by the number of R365 and the fence's
reason, when it is fenced (R381, R382). -/
def State.lostUnit (s : State) (loc : Nat) : Option (Nat × Nat) :=
  match kindOf loc with
  | .common =>
    if s.dieUp (dieOfCommon loc) then none else some (dieOfCommon loc % 8, (s.die (dieOfCommon loc)).fenced.getD 4)
  | .spad =>
    let e := dieOfCore (coreOfSpad loc)
    if s.dieUp e then none else some (e % 8, (s.die e).fenced.getD 4)
  | .hbm => (s.base (baseOfHbm loc)).fenced.map fun r => (8 + baseOfHbm loc % 4, r)

/-- The trap of a FENCE whose drain cannot complete, after the process has issued on: a parked process stops at once, any
other at its next instruction boundary, a stopped one at its first after its RESUME (R382, R384). -/
def State.fenceTrap (s : State) (k : Slot) (pid : Word) (word : IWord) (ds : List Word) : State :=
  let p := s.proc k
  if p.pid ≠ pid || p.state = .free then s
  else if p.state = .parked then s.stopProc k 0 0x19 word ds
  else
    let e : EngineStop := { kind := 0, cause := 0x19, word := word, details := ds, rowprog := none }
    s.modProc k fun p => { p with fenceErr := some (p.fenceErr.getD e) }

/-- A store bound for a fenced die is lost (R382): where a FENCE it was covered by still waits for it, that FENCE's drain
traps, else the issuer's next operation whose drain covers it (log 21). -/
def State.loseStore (s : State) (c : CoreId) (q : QStore) (unit reason : Nat) : State :=
  let ds := [q.va, BitVec.ofNat 64 unit, BitVec.ofNat 64 reason]
  match List.find? (fun (m : QStore) => m.owner = q.owner && m.pid = q.pid && m.target.isNone && decide (q.seq < m.seq))
      (s.core c).storeQ with
  | some m => s.fenceTrap q.owner q.pid (BitVec.ofNat 32 (leVal m.bytes)) ds
  | none =>
    s.modProc q.owner fun p =>
      if p.pid = q.pid && p.lost.isNone then { p with lost := some (q.va, unit, reason) } else p

/-- What performing a queued store does at its home (R170, R172, R382): its parts together, in lane order (R171), which
clear the poison of a granule they cover (R216); on a HOST page they leave as one write, on an IO page each alone (R188,
R230); a store bound for a fenced die is lost. -/
def State.performStore (s : State) (c : CoreId) (q : QStore) : State :=
  match q.target with
  | none => s
  | some (.mem loc) =>
    (match s.lostUnit loc with
     | some (unit, reason) => s.loseStore c q unit reason
     | none =>
       let t := (q.parts loc).foldl (fun (t : State) x =>
         t.writeAt (some (clusterOf c)) (some c) x.1 x.2 (if kindOf loc = .hbm then some q.keySlot else none)) s
       let g := loc / 8 * 8
       if (fromTo g 8).all fun a => (partAt (q.parts loc) a).isSome then t.cleanse g 8 else t)
  | some (.step loc rule _ st) =>
    s.accept (pkgOf c) (q.parts loc) q.desc q.rank (dieOfCore c) rule st
  | some (.port pt addr io) =>
    let ws := if io then (q.parts addr).map fun x => [x] else [q.parts addr]
    ws.foldl (fun (t : State) w => t.postFor q.owner q.pid (pkgOf c) pt w io) s

/-- Removes the entry with a sequence number and lets its owner's waits look again. -/
def State.dropStore (s : State) (c : CoreId) (q : QStore) : State :=
  let s1 := s.modCore c fun x => { x with storeQ := x.storeQ.filter fun e => e.seq ≠ q.seq }
  s1.recheck q.owner

/-- The passed and unperformed stores of a core with a home among those of a range are performed first, in the order in
which they passed (R174). -/
def State.settle (s : State) (c : CoreId) (homes : Nat → Bool) : State :=
  (s.core c).storeQ.foldl (fun t q =>
    match q.target with
    | some tg => if q.passed && homes tg.home then (t.performStore c q).dropStore c q else t
    | none => t) s

/-- The passed stores of a core to a host port are posted (R174, R187, R188). -/
def State.settlePort (s : State) (c : CoreId) (port : Nat) : State := s.settle c fun h => h = 2 ^ 63 + port

/-- The passed stores of a core to the step unit of a location are accepted (R174, R197). -/
def State.settleStep (s : State) (c : CoreId) (loc : Nat) : State := s.settle c fun h => h = 2 ^ 62 + loc / 64 % 4

/-- The homes of a range of package memory. -/
def homesOf (loc n : Nat) (h : Nat) : Bool := (fromTo (loc / 8) ((loc + n + 7) / 8 - loc / 8)).any fun g => homeOf (8 * g) = h

/-- A read of package memory by an agent of core `c`: earlier passed stores to the same home first (R174). -/
def State.coreRead (s : State) (c : CoreId) (loc n : Nat) (key : Option Nat) : List Byte × Bool × State :=
  (if (s.core c).storeQ.isEmpty then s else s.settle c (homesOf loc n)).readAt loc n key

/-- A write of package memory by an agent of core `c`, likewise. -/
def State.coreWrite (s : State) (c : CoreId) (loc : Nat) (bs : List Byte) (key : Option Nat) : State :=
  (if (s.core c).storeQ.isEmpty then s else s.settle c (homesOf loc bs.length)).writeAt (some (clusterOf c)) (some c) loc bs key

/-- Whether the drain a mark of the store queue stands for is complete: over the owner's stores before it (R179). -/
def State.markDone (s : State) (c : CoreId) (m : QStore) : Bool :=
  let p := s.proc m.owner
  let q := (s.core c).storeQ.filter fun e =>
    e.owner = m.owner && e.pid = m.pid && e.target.isSome && decide (e.seq < m.seq)
  s.drainedFor c (if p.pid = m.pid then p else Proc.empty) q m.drain

/-- Whether an entry of the store queue may pass the ordering point: no earlier store of its process has still to pass,
and no mark before it still waits (R173, R179). -/
def State.mayPass (s : State) (c : CoreId) (n : Nat) (q : QStore) : Bool :=
  !((s.core c).storeQ.take n).any fun e =>
    e.owner = q.owner && e.pid = q.pid && (if e.target.isSome then !e.passed else !s.markDone c e)

/-- Whether a passed store may be performed: no store of the core that passed before it goes to its home (R174). The
passed stores of a queue stand before the others, in the order in which they passed. -/
def State.mayPerform (s : State) (c : CoreId) (n : Nat) (q : QStore) : Bool :=
  !((s.core c).storeQ.take n).any fun e => e.passed &&
    (match e.target, q.target with | some a, some b => a.home = b.home | _, _ => false)

/-- Whether a store goes to the core's own scratchpad, where passing and performing coincide. -/
def QStore.ownSpad (q : QStore) (c : CoreId) : Bool :=
  match q.target with
  | some (.mem loc) => kindOf loc = .spad && coreOfSpad loc = c
  | _ => false

/-- An entry of a store queue behind those that have passed before it (R173, R174). -/
def passedOf (es : List QStore) (q : QStore) : List QStore :=
  es.filter (·.passed) ++ { q with passed := true } :: es.filter fun e => !e.passed && e.seq ≠ q.seq

/-- The n-th entry of a store queue passes the ordering point, behind those that have passed before it; one to the own
scratchpad, or any when asked, is performed with it where none of them to its home still waits (R173, R174). -/
def State.passStore (s : State) (c : CoreId) (n : Nat) (q : QStore) (perform : Bool) : State :=
  let m := if q.passed then n else ((s.core c).storeQ.filter (·.passed)).length
  let t := if q.passed then s else s.modCore c fun x => { x with storeQ := passedOf x.storeQ q }
  if (q.ownSpad c || perform) && t.mayPerform c m q then (t.performStore c q).dropStore c q else t

/-! ## Translation (R340 to R344) -/

/-- The 8 bytes of a page-table entry at a physical address (log 14: the walker sees table memory as plaintext). -/
def State.tableWord (s : State) (p pa : Nat) : Word := BitVec.ofNat 64 (leVal (s.mem.read (locHbm p pa) 8))

/-- Whether a leaf entry at a level is malformed (R342). -/
def badLeaf (level : Nat) (w : Word) : Bool :=
  let mode := bits w 8 6
  let frame := bits w 63 32
  level = 3 || mode ≥ 5 || (mode ≠ 1 && bits w 11 9 ≠ 0) || (mode ≥ 3 && bits w 22 12 ≠ 0) ||
    frame % 2 ^ (9 * level) ≠ 0 || (mode ≤ 2 && 65536 * frame ≥ hbmSize)

/-- Whether a table entry is malformed (R341, R342). -/
def badTable (level : Nat) (w : Word) : Bool :=
  level = 0 || bits w 11 1 ≠ 0 || bits w 63 48 ≠ 0 || bits w 47 12 * 4096 ≥ hbmSize

/-- The virtual page of an address at a leaf level. -/
def pageAt (va level : Nat) : Nat := va / 2 ^ (16 + 9 * level)

/-- The entry the walker of base die `b` reads for an address at a level and a physical address: the one it keeps, or
memory's (R351). -/
def State.tableAt (s : State) (b dom va level pa : Nat) : Word :=
  match List.find? (fun (e : KeptEntry) =>
      e.domain = dom && e.level = level && e.page = pageAt va level && e.entryAt = pa) (s.base b).tables with
  | some e => e.word
  | none => s.tableWord (b / 4) pa

/-- The walk from a level's table (R340): the leaf with its level and the physical address of its entry, or the level
that stopped it and whether its entry was malformed. -/
def State.walkFrom (s : State) (b dom va : Nat) : Nat → Nat → Nat → Sum (Word × Nat × Nat) (Nat × Bool)
  | 0, level, _ => .inr (level, false)
  | fuel + 1, level, table =>
    let at_ := table + 8 * (va / 2 ^ (16 + 9 * level) % 512)
    let w := s.tableAt b dom va level at_
    if !w.getLsbD 0 then .inr (level, false)
    else if w.getLsbD 5 then (if badLeaf level w then .inr (level, true) else .inl (w, level, at_))
    else if badTable level w then .inr (level, true)
    else s.walkFrom b dom va fuel (level - 1) (bits w 47 12 * 4096)

/-- The walk of an address in a domain by the walker of base die `b`, from the domain's ROOT. -/
def State.walk (s : State) (b dom va : Nat) : Sum (Word × Nat × Nat) (Nat × Bool) :=
  s.walkFrom b dom va 4 3 (((s.pkg (b / 4)).domain dom).root).toNat

/-- The good table entries above the leaf that a walk reads. -/
def State.tablesFrom (s : State) (b dom va : Nat) : Nat → Nat → Nat → List KeptEntry
  | 0, _, _ => []
  | fuel + 1, level, table =>
    let at_ := table + 8 * (va / 2 ^ (16 + 9 * level) % 512)
    let w := s.tableAt b dom va level at_
    if !w.getLsbD 0 || w.getLsbD 5 || badTable level w then []
    else { domain := dom, level := level, page := pageAt va level, entryAt := at_, word := w } ::
      s.tablesFrom b dom va fuel (level - 1) (bits w 47 12 * 4096)

/-- The walker of base die `b` keeps the table entries it reads on the walk of an address (R351; log 112). -/
def State.keepTables (s : State) (b dom : Nat) (va : Word) : State :=
  let es := s.tablesFrom b dom (va.toNat % 2 ^ 52) 4 3 (((s.pkg (b / 4)).domain dom).root).toNat
  if (s.base b).fenced.isSome then s
  else s.modBase b fun x => { x with tables := x.tables ++ es.filter fun e => !x.tables.contains e }

/-- The fenced base die that holds a table the walk of an address has to read, if there is one: the stack took its
addresses with it (R15; log 98). -/
def State.walkLost (s : State) (b dom va : Nat) : Nat → Nat → Nat → Option Nat
  | 0, _, _ => none
  | fuel + 1, level, table =>
    let at_ := table + 8 * (va / 2 ^ (16 + 9 * level) % 512)
    let w := s.tableAt b dom va level at_
    let home := baseOfHbm (locHbm (b / 4) at_)
    if (s.base home).fenced.isSome then some home
    else if !w.getLsbD 0 || w.getLsbD 5 || badTable level w then none
    else s.walkLost b dom va fuel (level - 1) (bits w 47 12 * 4096)

/-- Whether the walk of an address in a domain meets a lost stack. -/
def State.walkFenced (s : State) (b dom va : Nat) : Option Nat :=
  s.walkLost b dom va 4 3 (((s.pkg (b / 4)).domain dom).root).toNat

/-- The DIEFENCED trap of an access whose home, or whose page table, is on a fenced base die (R15, R365, R381). -/
def State.baseTrap (s : State) {α : Type} (va : Word) (b : Nat) : XRes α :=
  .trap 0x19 [va, BitVec.ofNat 64 (8 + b % 4), BitVec.ofNat 64 ((s.base b).fenced.getD 0)]

/-- Sets bits of a table entry by an atomic OR at its memory server (R343): a write, which wakes the waiters armed on its
line (R186). -/
def State.orEntry (s : State) (p pa : Nat) (m : Word) : State :=
  (s.poke (locHbm p pa) (leBytes (s.tableWord p pa ||| m).toNat 8)).wakeLines (locHbm p pa) 8

/-- The cached translation of an address (R344). -/
def Cluster.hit (x : Cluster) (dom va : Nat) : Option Trans :=
  x.tcache.find? fun t => t.domain = dom && t.page = pageAt va t.level

/-- Fills the translation cache, at most 4,096 leaves; the walker sets A (R343, R344). -/
def State.fillCache (s : State) (cl p : Nat) (t : Trans) : State :=
  let t' := { t with leaf := t.leaf ||| 8 }
  (s.orEntry p t.entryAt 8).modCluster cl fun x => { x with tcache := (x.tcache ++ [t']).drop (x.tcache.length - 4095) }

/-- Sets D on the first write through a cached translation whose D is clear (R343). -/
def State.markDirty (s : State) (cl p : Nat) (t : Trans) : State :=
  if t.leaf.getLsbD 4 then s
  else (s.orEntry p t.entryAt 16).modCluster cl fun x =>
    { x with tcache := x.tcache.map fun u => if u = t then { u with leaf := u.leaf ||| 16 } else u }

/-- The members that a configuration names (R386): bit n of bytes 0x10 to 0x4F. -/
def namesMember (cfg : BitVec 1024) (n : Nat) : Bool := n < 512 && cfg.getLsbD (128 + n)

/-- Whether package `q` is, for package `p`, a member of the pod, or has been one since it formed (R192): before it forms,
one that the configuration of `p` names. -/
def State.podMember (s : State) (p q : Nat) : Bool :=
  if s.podFormed then (s.pkg q).inPod else (s.pkg p).config.any fun cfg => namesMember cfg q

/-- The place behind a leaf, with the checks that follow the walk, in their order (R192, R342, R355). -/
def State.spotOf (s : State) (p dom : Nat) (va : Word) (t : Trans) (need : Need) : XRes Spot :=
  let w := t.leaf
  let mode := bits w 8 6
  let key := bits w 22 12
  let place := bits w 31 23
  let off := va.toNat % 2 ^ (16 + 9 * t.level)
  let pa := 65536 * bits w 63 32 + off
  let keyBad := match (s.pkg p).keys.find? key with | some k => k.owner ≠ dom | none => true
  if need.writes && !w.getLsbD 1 then .trap 0x05 [va]
  else if need = .exec && !w.getLsbD 2 then .trap 0x05 [va]
  else if mode ≤ 2 && keyBad then .trap 0x06 [va]
  else if mode ≥ 3 then .ok (.port (bits w 63 63) (65536 * bits w 62 32 + off) (mode = 4))
  else if mode = 0 && place ≠ p then .trap 0x05 [va]
  else
    let home := if mode = 0 then p else place
    let loc := locHbm home pa
    if mode ≠ 0 && (s.pkg home).withdrawn then .trap 0x08 [va]
    else if !(s.pkg home).present || (mode ≠ 0 && home ≠ p && !s.podMember p home) then .trap 0x05 [va]
    else if (s.base (baseOfHbm loc)).fenced.isSome then s.baseTrap va (baseOfHbm loc)
    else if mode = 0 then .ok (.mem loc (some key))
    else if mode = 1 then .ok (.step loc (bits w 11 9) key)
    else .ok (.atomic loc key)

/-- Translate(va, domain) of R73, for an agent of core `c`: from the translation cache, or by a walk that fills it. A first
write whose D bit stands in a lost stack traps DIEFENCED (R343, R383; log 98). -/
def State.translate (s : State) (c : CoreId) (dom : Nat) (va : Word) (need : Need) : XRes Spot × State :=
  let p := pkgOf c
  let cl := clusterOf c
  let a := va.toNat % 2 ^ 52
  let use := fun (t : Trans) (s : State) =>
    let b := baseOfHbm (locHbm p t.entryAt)
    match s.spotOf p dom va t need with
    | .ok sp =>
      if need.writes && !t.leaf.getLsbD 4 && (s.base b).fenced.isSome then (s.baseTrap va b, s)
      else (.ok sp, if need.writes then s.markDirty cl p t else s)
    | r => (r, s)
  match (s.cluster cl).hit dom a with
  | some t => use t s
  | none =>
    match s.walkFenced (baseOfDie (dieOfCore c)) dom a, s.walk (baseOfDie (dieOfCore c)) dom a with
    | some b, _ => (s.baseTrap va b, s)
    | none, .inl (w, level, at_) =>
      let t : Trans := { domain := dom, page := pageAt a level, level := level, leaf := w ||| 8, entryAt := at_ }
      use t (s.fillCache cl p t)
    | none, .inr (level, bad) => (.miss va level bad, s)

/-! ## Address classes (R35, R42) -/

/-- Whether a window of die `e` covers an offset for a domain (R339). -/
def State.inWindow (s : State) (e dom o : Nat) : Bool :=
  (upTo 16).any fun w =>
    let x := (s.die e).window w
    x.valid && x.domain = dom && 65536 * x.base ≤ o && o < 65536 * (x.base + x.size)

/-- Whether bytes of a scratchpad reach the context area of their core (R35). -/
def State.inContext (s : State) (c : CoreId) (o n : Nat) : Bool := o + n > ctxBase (s.core c)

/-- The DIEFENCED trap of an access to a fenced die (R381), or the place. -/
def State.onDie (s : State) (die : Nat) (va : Word) (sp : Spot) : XRes Spot :=
  if s.dieUp die then .ok sp
  else .trap 0x19 [va, BitVec.ofNat 64 (die % 8), BitVec.ofNat 64 ((s.die die).fenced.getD 4)]

/-- Classify(a, domain) and then R35, for `n` bytes accessed by an agent of core `c`; `supv` exempts from R35. -/
def State.classify (s : State) (c : CoreId) (dom : Nat) (supv : Bool) (va : Word) (n : Nat) (need : Need) :
    XRes Spot × State :=
  let p := pkgOf c
  let cls := bits va 55 52
  let ctx := fun (k : CoreId) (o : Nat) =>
    if !supv && s.inContext k o n then .trap 0x05 [va] else s.onDie (dieOfCore k) va (.mem (locSpad k o) none)
  if cls = 0 then s.translate c dom va need
  else if cls ≤ 11 then (.trap 0x07 [va], s)
  else if cls = 12 then (if bits va 51 0 ≥ spadSize then .trap 0x05 [va] else ctx c (bits va 18 0), s)
  else if cls = 13 then
    let k := p * 2048 + bits va 51 41
    if bits va 40 19 ≠ 0 || bits va 18 0 ≥ spadSize then (.trap 0x05 [va], s)
    else if (s.core k).cdom.toNat ≠ dom then (.trap 0x05 [va], s)
    else (ctx k (bits va 18 0), s)
  else if cls = 14 then
    let e := p * 8 + bits va 51 49
    if bits va 48 26 ≠ 0 || !s.inWindow e dom (bits va 25 0) then (.trap 0x05 [va], s)
    else (s.onDie e va (.mem (locCommon p (bits va 51 49) (bits va 25 0)) none), s)
  else (.trap 0x05 [va], s)

/-! ## Missing translations (R73, R344) -/

/-- The walker of a core's base die queues or merges a fault (R344). -/
def State.addFault (s : State) (c : CoreId) (dom : Nat) (va : Word) (level : Nat) (bad writes fetches : Bool)
    (w : FaultWaiter) : State :=
  let b := baseOfDie (dieOfCore c)
  let page := bits va 51 16
  let x := s.base b
  match List.find? (fun (e : Nat × FaultEntry) => e.2.domain = dom && bits e.2.va 51 16 = page) x.faults with
  | some (i, f) =>
    let f' : FaultEntry :=
      { f with waiters := f.waiters ++ [w], writes := f.writes || writes, fetches := f.fetches || fetches,
               engines := f.engines || w.engine }
    s.modBase b fun x => { x with faults := Map.put x.faults i f' }
  | none =>
    match (upTo 256).find? fun i => (Map.find? x.faults i).isNone with
    | some i =>
      let f : FaultEntry :=
        { serial := x.serial, va := va, domain := dom, writes := writes, fetches := fetches, engines := w.engine,
          malformed := bad, level := level, first := w.pid, waiters := [w], sent := false, ticket := none, toMonitor := false }
      s.modBase b fun x => { x with
        serial := if x.serial + 1 = 2 ^ 22 then 1 else x.serial + 1
        faults := Map.put x.faults i f }
    | none => s.modBase b fun x => { x with waiting := x.waiting ++ [(dom, writes, fetches, bad, level, w)] }

/-- The phase from which an instruction goes on when it parks again: a reply it was given is kept among its values. -/
def Phase.again (ph : Phase) : Phase :=
  match ph with
  | .after vals v 1 => .after (vals ++ [v]) 0 0
  | ph => ph

/-- A check of the current process's access: a value goes on, a failure traps, a missing translation parks with WAITK 9
and the instruction restarts (R73). -/
def State.checked {α : Type} (r : XRes α × State) (s0 : State) (need : Need) (k : α → State → State) : State :=
  match r with
  | (.ok a, s) => k a s
  | (.trap cause ds, _) => s0.trap cause ds
  | (.miss va level bad, _) =>
    (s0.addFault s0.here s0.cur.domain.toNat va level bad need.writes (need = .exec)
      { slot := s0.self, pid := s0.cur.pid, va := va, engine := false, copy := false }).park 9 (.fault va) s0.cur.phase.again none

end Sys2Proof.Machine
end

