-- ==== Sys2Proof/Machine/Handle.lean ====
section
/-! DEFINITION. Channel handles: CHECK (R349), refusal (R46), the words of an endpoint entry, and what a lost peer does to
the processes parked at an endpoint (R375, R376). -/

namespace Sys2Proof.Machine

/-! ## Handles (R46, R349) -/

/-- CHECK of a handle for a domain's SECRET (R349). -/
def checkOf (secret : BitVec 128) (domain : Nat) (h : Word) : Nat :=
  Aes.numOf (Aes.encrypt (Aes.bytesOf secret.toNat 16) (Aes.bytesOf (domain * 2 ^ 44 + h.toNat / 2 ^ 20) 16)) % 2 ^ 20

/-- The SECRET under which the handles of an endpoint are made: its owning domain's, at its home package. -/
def State.secretOf (s : State) (e : EpId) : BitVec 128 :=
  ((s.pkg (pkgOf (coreOfEp e))).domain (s.ep e).domain.toNat).secret

/-- The handle of an endpoint as it stands. -/
def State.epHandle (s : State) (e : EpId) : Word :=
  let c := coreOfEp e
  let h : Word := BitVec.ofNat 64 (pkgOf c % 512 * 2 ^ 55 + c % 2048 * 2 ^ 44 + e % 1024 * 2 ^ 34 +
    (s.ep e).gen.toNat * 2 ^ 20)
  h ||| BitVec.ofNat 64 (checkOf (s.secretOf e) (s.ep e).domain.toNat h)

/-- Whether CHECK of a handle differs from the one its entry's domain gives (R349). -/
def State.badCheck (s : State) (h : Word) : Bool :=
  let e := epOfHandle h
  (s.ep e).state ≠ 0 && checkOf (s.secretOf e) (s.ep e).domain.toNat h ≠ bits h 19 0

/-- Whether the home core accepts a handle for an issuer's domain (R46). -/
def State.accepts (s : State) (h : Word) (domain : BitVec 12) : Bool :=
  let x := s.ep (epOfHandle h)
  x.state ≠ 0 && x.gen.toNat = bits h 33 20 && x.domain = domain && !s.badCheck h

/-- A handle the home core refuses is counted in CHREFUSE of the domain that owns the entry it names; a free entry has no
owner (R336, R349; log 104). -/
def State.countRefusal (s : State) (h : Word) : State :=
  let e := epOfHandle h
  if (s.ep e).state = 0 then s
  else
    s.modPkg (pkgOf (coreOfEp e)) fun x =>
      let d := (s.ep e).domain.toNat
      let y := x.domain d
      { x with domains := Map.put x.domains d { y with chrefuse := if y.chrefuse = BitVec.allOnes 32 then y.chrefuse else y.chrefuse + 1 } }

/-- A handle held in a register or table is shown to its home core for a domain: a refusal is counted (R349). -/
def State.shown (s : State) (h : Word) (domain : BitVec 12) : State :=
  if h = 0 || s.accepts h domain then s else s.countRefusal h

/-! ## The entry's words (R47, R292) -/

/-- Granules committed and not retired. -/
def Endpoint.committed (x : Endpoint) : Nat := (x.tail - x.head).toNat

/-- The slot of an ANY ring in granules, Z of R259. -/
def Endpoint.slotSize (x : Endpoint) : Nat := max 1 ((x.shape.toNat + 63) / 64)

/-- S of R259: the slots an ANY ring holds. -/
def Endpoint.slotCount (x : Endpoint) : Nat := x.rlen / x.slotSize

/-- The ticket whose slot stands at HEAD of an ANY ring (R259). -/
def Endpoint.headTicket (x : Endpoint) : Nat := (x.called - BitVec.ofNat 32 x.slotCount).toNat

/-- Whether a ticket has been called: t − CALLED ≥ 2^31 modulo 2^32 (R259). -/
def Endpoint.hasCalled (x : Endpoint) (t : Nat) : Bool := (BitVec.ofNat 32 t - x.called).toNat ≥ 2 ^ 31

/-- An entry back in STATE 1 (R291, R375): PEER, HEAD and TAIL zero, reservations and tickets released. -/
def Endpoint.unbound (x : Endpoint) : Endpoint :=
  { x with state := 1, peer := 0, head := 0, tail := 0, reserved := 0, ticket := none, offer := none, syncing := [],
           syncPeer := [], linkReason := none, linkWords := [], badCount := 0 }

/-! ## A lost peer (R375, R376) -/

/-- The detail words of CHLINK (R376): as they stood when the peer was lost, for an operation after that. -/
def State.linkDetails (s : State) (e : EpId) (reason : Nat) : List Word :=
  let x := s.ep e
  if x.linkReason.isSome then s.epHandle e :: x.linkWords
  else
  [s.epHandle e, BitVec.ofNat 64 (x.committed + x.head.toNat % x.rlen * 2 ^ 16 + x.reserved % 2 ^ 16 * 2 ^ 32 +
    reason * 2 ^ 48), x.peer]

/-- The processes parked at an endpoint, the one that is first there as the last: its leaving lets the next look again. -/
def State.parkedAt (s : State) (e : EpId) : List Slot :=
  ((s.ep e).queue ++ (s.ep e).syncing ++ (s.ep e).waiter.toList).filter fun k => (s.proc k).state = .parked

/-- Whether a process's offer has been taken, its acknowledgement being on its way (R253). -/
def State.acked (s : State) (k : Slot) : Bool :=
  s.msgs.any fun m => match m.body with
    | .ack j pid => j = k && pid = (s.proc k).pid
    | _ => false

/-- Whether the block of a parked rendezvous process is being transferred (R253, R376). -/
def State.inTransfer (s : State) (k : Slot) : Bool :=
  match (s.proc k).phase, (s.proc k).inflight with
  | .after _ _ 3, some (.inBlock _ _ _, _) => true
  | _, some (.outBlock _ _ _, _) => s.acked k
  | _, _ => false

/-- The details with which a process parked at an endpoint is stopped: word 1 is zero where a block was on its way (R376). -/
def State.linkWordsOf (s : State) (e : EpId) (reason : Nat) (k : Slot) : List Word :=
  let ds := s.linkDetails e reason
  if s.inTransfer k then [ds.getD 0 0, 0, ds.getD 2 0] else ds

/-- The processes of a list are stopped with CHLINK at an endpoint. -/
def State.stopLinked (s : State) (e : EpId) (reason : Nat) (ks : List Slot) : State :=
  let ds := s.linkWordsOf e reason
  ks.foldl (fun (t : State) k => if (t.proc k).state = .stopped then t else t.trapOf k 0x0C (ds k)) s

/-- Every process parked at an endpoint is stopped with CHLINK. -/
def State.stopParked (s : State) (e : EpId) (reason : Nat) : State := s.stopLinked e reason (s.parkedAt e)

/-- Whether a message acts on an endpoint. -/
def Body.actsOn (e : EpId) : Body → Bool
  | .offer f _ => f = e
  | .withdraw f _ _ => f = e
  | .commit f _ _ _ _ => f = e
  | .ret f _ _ => f = e
  | .desync f _ => f = e
  | .chsync f _ => f = e
  | _ => false

/-- The messages in flight to an endpoint are lost. -/
def State.dropMessages (s : State) (e : EpId) : State :=
  { s with msgs := s.msgs.filter fun m => !m.body.actsOn e }

/-- An endpoint's peer becomes unreachable (R375): the parked processes stop at once, the next operation traps. -/
def State.peerLost (s : State) (e : EpId) (reason : Nat) : State :=
  if (s.ep e).state < 2 then s
  else ((s.stopParked e reason).dropMessages e).modEp e fun x =>
    { x with linkReason := some reason, linkWords := (s.linkDetails e reason).drop 1, offer := none }

/-- What the free of one end does to an end bound to it (R291, R375): it returns to STATE 1, the processes parked at it are
stopped, but not a sender whose word or block has been taken (R316), and its next operation traps CHLINK. -/
def State.cutPeer (s : State) (e : EpId) (reason : Nat) : State :=
  let words := (s.linkDetails e reason).drop 1
  let stopped := s.stopLinked e reason ((s.parkedAt e).filter fun k => !s.acked k)
  (stopped.dropMessages e).modEp e fun x => { x.unbound with linkReason := some reason, linkWords := words }

/-- A waiting record's ticket at an endpoint is gone: it goes to the package monitor (R366). -/
def Rec.dropTicket (e : EpId) (r : Rec) : Rec :=
  if r.ticket.map (·.1) = some e then { r with ticket := none, dest := .monitor } else r

/-- Likewise of a waiting fault entry (R345). -/
def FaultEntry.dropTicket (e : EpId) (r : FaultEntry) : FaultEntry :=
  if r.ticket.map (·.1) = some e then { r with ticket := none, toMonitor := true } else r

/-- Likewise of a completion message. -/
def Launch.dropTicket (e : EpId) (r : Launch) : Launch :=
  { r with ticket := match r.ticket with | some (f, t) => if f = e then none else some (f, t) | none => none }

/-- The records, fault entries and completion messages that wait for a call of an endpoint that is freed or enters DESYNC
lose their tickets; records and fault entries go to the package monitor (R345, R366, R418). -/
def State.dropTickets (s : State) (e : EpId) : State :=
  let faults := fun (m : Map FaultEntry) => m.map fun y => (y.1, y.2.dropTicket e)
  { s with
    cores := s.cores.map fun x => (x.1, { x.2 with records := x.2.records.map (Rec.dropTicket e) })
    pkgs := s.pkgs.map fun x => (x.1, { x.2 with
      outbox := x.2.outbox.map (Rec.dropTicket e), launches := x.2.launches.map (Launch.dropTicket e),
      mirror := x.2.mirror.map (Launch.dropTicket e) })
    bases := s.bases.map fun x => (x.1, { x.2 with faults := faults x.2.faults }) }

/-- Every endpoint bound to the endpoint `e`. -/
def State.boundTo (s : State) (e : EpId) : List EpId :=
  (s.eps.filter fun (_, x) => x.state ≥ 2 && x.peer ≠ 0 && epOfHandle x.peer = e).map (·.1)

/-- CHLINK of an operation on an endpoint whose peer was lost; the endpoint returns to STATE 1 (R375). -/
def State.linkTrap (s : State) (e : EpId) (reason : Nat) : State :=
  let ds := s.linkDetails e reason
  (s.modEp e Endpoint.unbound).trap 0x0C ds

/-! ## Own-scratchpad pointers (R288, R297, R298) -/

/-- The own-scratchpad offset a pointer names, by class 0xC or by class 0xD with the own core. -/
def ownOffset (c : CoreId) (a : Word) : Option Nat :=
  if bits a 55 52 = 12 then (if bits a 51 0 < spadSize then some (bits a 51 0) else none)
  else if bits a 55 52 = 13 && bits a 51 41 = c % 2048 && bits a 40 19 = 0 && bits a 18 0 < spadSize then
    some (bits a 18 0)
  else none

/-- The checks of a pointer into the own scratchpad: its class, its alignment, its end below B. -/
def State.ownPointer (s : State) (a : Word) (align n : Nat) (f : Nat → State → State) : State :=
  match ownOffset s.here a with
  | none => s.trap 0x05 [a]
  | some o =>
    if o % align ≠ 0 then s.trap 0x03 [a]
    else if o + n > ctxBase (s.core s.here) then s.trap 0x05 [a]
    else f o s

end Sys2Proof.Machine
end

