-- ==== Sys2Proof/Machine/Operands.lean ====
section
/-! DEFINITION. Operands: the checks before an instruction (R27, R28, R68), queue ports (R69, R251), registers read and
written, vectors and masks. -/

namespace Sys2Proof.Machine

/-- What the checks before an instruction need to know of it. -/
structure Shape where
  /-- Source fields that name general registers, field a first: the order in which they take words from one port (R69). -/
  srcs : List Reg := []
  /-- The destination field, if it names a general register. -/
  dst : Option Reg := none
  /-- A d field that is a source and, in FMA, BFI, MOVK, STT and where it is the destination too, may name no mapped port
  (R108). -/
  dsrc : Option Reg := none
  /-- Outside the light repertoire (R27). -/
  full : Bool := false
  /-- A privileged encoding (R68). -/
  priv : Bool := false
  /-- Names a v register or m1 to m7 (R28). -/
  vec : Bool := false
  /-- 0 an ordinary instruction, 1 ALTS, 2 another ALT member (R68, R299). -/
  alt : Nat := 0
  deriving DecidableEq, Repr

/-- The general registers the word names (R27). -/
def Shape.named (sh : Shape) : List Reg := sh.srcs ++ sh.dst.toList ++ sh.dsrc.toList

/-- Whether the instruction goes on after a Park. -/
def Proc.resumed (p : Proc) : Bool := match p.phase with | .after _ _ _ => true | .fresh => false

/-! ## Queue ports (R69, R251) -/

/-- The port a register field names, when QMAP maps it. -/
def Proc.port (p : Proc) (r : Reg) : Option Nat :=
  if 16 ≤ r.toNat && r.toNat ≤ 23 && p.qen.getLsbD (r.toNat - 16) then some (r.toNat - 16) else none

/-- Whether a mapped port pushes (QMAP.DIR). -/
def Proc.pushes (p : Proc) (i : Nat) : Bool := p.qdir.getLsbD i

/-- The endpoint whose FIFO a port of the process uses: the bound one for a pop port, its peer for a push port. -/
def State.fifoEp (s : State) (p : Proc) (i : Nat) : EpId :=
  let e := p.qeps.get i 0
  if p.pushes i then epOfHandle (s.ep e).peer else e

/-- How many of the fields name a port. -/
def countPort (p : Proc) (i : Nat) (fs : List Reg) : Nat := (fs.filter fun r => p.port r = some i).length

/-- Why the ports of an instruction do not let it go on. -/
inductive PortCheck where
  | ready | misuse | lost (e : EpId) (reason : Nat) | desync (e : EpId) | wait (e : EpId)
  deriving DecidableEq, Repr

/-- Whether the endpoint a port is bound to can carry words: bound to a peer (R251, R285). -/
def State.portBound (s : State) (p : Proc) (i : Nat) : Bool := (s.ep (p.qeps.get i 0)).state = 2

/-- The process whose ALTW selected an end and that still lives (R258). -/
def State.chosenBy (s : State) (x : Endpoint) : Option Slot :=
  match x.chosen with
  | some (k, pid) => if (s.proc k).state ≠ .free && (s.proc k).pid = pid then some k else none
  | none => none

/-- Whether another process comes before the current one on an endpoint: the one whose ALTW selected it, else one that
waits on it (R253, R258). -/
def State.behind (s : State) (x : Endpoint) : Bool :=
  match s.chosenBy x with
  | some k => k ≠ s.self
  | none => x.waiter.isSome && x.waiter ≠ some s.self

/-- The words of a port FIFO that no instruction in progress has taken (R69, R251). -/
def Endpoint.free (x : Endpoint) : List Word := x.fifo.drop x.held

/-- The port checks of R69 and R108. A port that is not ready makes the process wait at its own endpoint: a word that the
ALTW of another process has found, or that another process waits for, is not there for it (R253, R258). -/
def State.portCheck (s : State) (sh : Shape) : PortCheck :=
  let p := s.cur
  if p.qen = 0 then .ready
  else if (sh.dsrc.toList.any fun r => (p.port r).isSome) ||
      (sh.srcs.any fun r => match p.port r with | some i => p.pushes i | none => false) ||
      (sh.dst.toList.any fun r => match p.port r with | some i => !p.pushes i | none => false) then .misuse
  else
    let short := sh.srcs.filterMap fun r =>
      match p.port r with
      | some i =>
        let x := s.ep (s.fifoEp p i)
        if s.behind x || x.free.length < countPort p i sh.srcs then some (p.qeps.get i 0) else none
      | none => none
    let full := sh.dst.toList.filterMap fun r =>
      match p.port r with
      | some i =>
        if !s.portBound p i || (s.ep (s.fifoEp p i)).fifo.length ≥ 16 then some (p.qeps.get i 0) else none
      | none => none
    let used := (sh.srcs ++ sh.dst.toList).filterMap fun r => (p.port r).map fun i => p.qeps.get i 0
    match used.find? fun e => (s.ep e).linkReason.isSome || (s.ep e).state = 3 with
    | some e => (match (s.ep e).linkReason with | some r => .lost e r | none => .desync e)
    | none =>
      match short ++ full with
      | [] => .ready
      | e :: _ => .wait e

/-- The value of a source field: the register, or the word of the mapped port that is its turn (R69). -/
def State.sourceValue (s : State) (earlier : List Reg) (r : Reg) : Word :=
  match s.cur.port r with
  | some i => (s.ep (s.fifoEp s.cur i)).fifo.getD (countPort s.cur i earlier) 0
  | none => s.cur.reg r

/-- The values of the source fields, in order. Of two that name one port the earlier takes the older word: field a before the
others (R69), and b before d in TIS (DESIGN CHOICE, log 118). -/
def State.sourceValues (s : State) : List Reg → List Reg → List Word
  | _, [] => []
  | earlier, r :: rest => s.sourceValue earlier r :: s.sourceValues (earlier ++ [r]) rest

/-- The current process is named as waiting on an endpoint, behind any process already there (R253). -/
def State.joinEp (s : State) (e : EpId) : State :=
  s.modEp e fun x =>
    if x.waiter.isNone || x.waiter = some s.self then { x with waiter := some s.self }
    else if x.queue.contains s.self then x else { x with queue := x.queue ++ [s.self] }

/-- Parks the current process on an endpoint. -/
def State.parkEp (s : State) (k : BitVec 4) (e : EpId) (ph : Phase) (dl : Option Nat) : State :=
  (s.joinEp e).park k (.endpoint e) ph dl

/-- What the current process's ALTW selected has been taken; the process parked first looks again (R258). -/
def State.unchoose (s : State) (e : EpId) : State :=
  if s.chosenBy (s.ep e) = some s.self then (s.modEp e fun x => { x with chosen := none }).wakeEp e else s

/-- The current process no longer waits on the endpoint; the next in order is woken (R253). -/
def State.leaveEp (s0 : State) (e : EpId) : State :=
  let s := s0.unchoose e
  let x := s.ep e
  if x.waiter = some s.self then
    match x.queue with
    | [] => s.setEp e { x with waiter := none }
    | k :: r => (s.setEp e { x with waiter := some k, queue := r }).lookAgain k
  else s.setEp e { x with queue := natErase x.queue s.self }

/-- A process has operated on an endpoint (R260). -/
def State.operatedBy (s : State) (k : Slot) (e : EpId) : State :=
  let pid := (s.proc k).pid
  s.modEp e fun y => { y with lastOp := some (k, pid) }

/-- Every pop of the source fields, together (R69); a party waiting for room is woken. -/
def State.takePorts (s : State) (srcs : List Reg) : State :=
  if s.cur.qen = 0 then s
  else
    srcs.foldl (fun t r =>
      match t.cur.port r with
      | some i =>
        let e := t.fifoEp t.cur i
        (((t.operatedBy t.self e).modEp e fun x => { x with fifo := x.fifo.drop 1, held := x.held - 1 }).leaveEp
          e).wakeEp (epOfHandle (t.ep e).peer)
      | none => t) s

/-- The FIFO of each port that some source fields name, and how many of its words they take. -/
def State.portWords (s : State) (srcs : List Reg) : List (EpId × Nat) :=
  if s.cur.qen = 0 then []
  else srcs.filterMap fun r => (s.cur.port r).map fun i => (s.fifoEp s.cur i, countPort s.cur i srcs)

/-- The words that an instruction has read from its ports are its own while it stands parked, and nobody else's (R69, R251;
log 119). -/
def State.keepWords (s : State) (ports : List (EpId × Nat)) : State :=
  if s.cur.resumed then ports.foldl (fun t x => t.modEp x.1 fun y => { y with held := x.2 }) s else s

/-- A result written to a destination field: a register, or a push (R69). -/
def State.putDst (s : State) (d : Reg) (v : Word) : State :=
  match s.cur.port d with
  | some i =>
    let e := s.fifoEp s.cur i
    let mine := s.cur.qeps.get i 0
    (((s.operatedBy s.self mine).modEp e fun x => { x with fifo := x.fifo ++ [v] }).leaveEp mine).wakeEp e
  | none => { s with cur := s.cur.setReg d v }

/-! ## The checks before an instruction -/

/-- The free vector-extension slot an allocation on the current core takes (R28, R34): the lowest-numbered (DESIGN CHOICE,
log 116). -/
def State.freeExt (s : State) : Option Nat :=
  let used := (s.liveOn s.here).filterMap fun k => (s.proc k).vext.map VExt.slot
  (upTo (s.core s.here).extn).find? fun i => !used.contains i

/-- A vector extension as it is allocated (R28). -/
def VExt.fresh (slot : Nat) : VExt :=
  { slot := slot, v := Vector.replicate 32 0, m := Vector.replicate 8 (BitVec.allOnes 64), vprog := 0 }

/-- CHDESYNC of an operation on an endpoint (R256, R365, R377). -/
def State.desyncTrap (s : State) (e : EpId) : State :=
  let x := s.ep e
  s.trap 0x0D [s.epHandle e, x.head.zeroExtend 64, x.tail.zeroExtend 64, x.badCount]

/-- Whether the destination is a push port: a push is a release at CORE scope, so the process's stores must have passed
the ordering point (R183, R251). -/
def State.pushWaits (s : State) (sh : Shape) : Bool :=
  (sh.dst.bind s.cur.port).isSome && !s.drained s.self .corePoint

/-- The port checks, then the instruction itself on its source values. -/
def State.withPorts (s : State) (sh : Shape) (body : List Word → State → State) : State :=
  match s.portCheck sh with
  | .ready =>
    if s.pushWaits sh then s.hold (.drain .corePoint) s.cur.phase
    else (body (s.sourceValues [] sh.srcs) s).keepWords (s.portWords sh.srcs)
  | .misuse => s.trap 0x01 [2]
  | .lost e r => s.linkTrap e r
  | .desync e => s.desyncTrap e
  | .wait e => (s.operatedBy s.self e).parkEp 1 e .fresh none

/-- The endpoint of a destination's push port that has no room, for an instruction that goes on after a Park. -/
def State.dstFull (s : State) (sh : Shape) : Option EpId :=
  match sh.dst.bind s.cur.port with
  | some i =>
    if !s.portBound s.cur i || (s.ep (s.fifoEp s.cur i)).fifo.length ≥ 16 then some (s.cur.qeps.get i 0) else none
  | none => none

/-- The checks before an instruction in the order of R68, then the instruction on its source values. An instruction that
goes on after a Park has passed them already (R73). -/
def State.issue (s : State) (sh : Shape) (body : List Word → State → State) : State :=
  match s.cur.phase with
  | .after vals _ _ =>
    (match s.dstFull sh with
     | some e => (s.operatedBy s.self e).parkEp 1 e s.cur.phase none
     | none => if s.pushWaits sh then s.hold (.drain .corePoint) s.cur.phase else (body vals s).keepWords (s.portWords sh.srcs))
  | .fresh =>
    if s.cur.light && (sh.full || sh.named.any fun r => 9 ≤ r.toNat) then s.trap 0x01 [1]
    else if (sh.alt = 0 && s.cur.inalt) || (sh.alt = 2 && !s.cur.inalt) then s.trap 0x01 [5]
    else if sh.priv && !s.cur.supv then s.trap 0x02 []
    else if sh.vec && s.cur.vext.isNone then
      match s.freeExt with
      | none => s.trap 0x05 [2]
      | some i => State.withPorts { s with cur := { s.cur with vext := some (VExt.fresh i) } } sh body
    else s.withPorts sh body

/-- The instruction ends without a result: its pops happen as it takes effect, so that one that traps after a Park leaves
the words where they are (R8, R69). -/
def State.done (s : State) (sh : Shape) : State := (s.takePorts sh.srcs).retire

/-- The instruction ends with a result for its destination. -/
def State.doneWith (s : State) (sh : Shape) (v : Word) : State :=
  match sh.dst with
  | none => s.done sh
  | some d => ((s.takePorts sh.srcs).putDst d v).retire

/-- The instruction ends with a predicate. -/
def State.doneWithPred (s : State) (sh : Shape) (p : PReg) (b : Bool) : State :=
  let t := s.takePorts sh.srcs
  ({ t with cur := t.cur.setPred p b } : State).retire

/-- Park whose pseudocode goes on after the call, with the operand values it has read (R73). -/
def State.parkAfter (s : State) (k : BitVec 4) (w : Wait) (vals : List Word) (dl : Option Nat) : State :=
  s.park k w (.after vals 0 0) dl

/-- The mark and the value with which a parked instruction was woken. -/
def Proc.mark (p : Proc) : Nat := match p.phase with | .after _ _ m => m | .fresh => 0

def Proc.answer (p : Proc) : Word := match p.phase with | .after _ v _ => v | .fresh => 0

/-- The n-th of a list of operand values. -/
def op (vals : List Word) (n : Nat) : Word := vals.getD n 0

/-! ## Vectors and masks (R25, R127, R128) -/

/-- A vector register. -/
def Proc.vec (p : Proc) (r : VReg) : BitVec 512 :=
  match p.vext with | some x => x.v[r.toNat]'r.isLt | none => 0

/-- A vector register written. -/
def Proc.setVec (p : Proc) (r : VReg) (v : BitVec 512) : Proc :=
  match p.vext with | some x => { p with vext := some { x with v := x.v.set r.toNat v r.isLt } } | none => p

/-- A mask register; m0 reads all ones (R25), and so does one of a process without a vector extension (DESIGN CHOICE,
log 122). -/
def Proc.mask (p : Proc) (r : PReg) : Word :=
  if r = 0 then BitVec.allOnes 64 else match p.vext with | some x => x.m[r.toNat]'r.isLt | none => BitVec.allOnes 64

/-- A mask register written; a write to m0 is discarded (R25), and so is one of a process without a vector extension
(DESIGN CHOICE, log 122). -/
def Proc.setMask (p : Proc) (r : PReg) (v : Word) : Proc :=
  if r = 0 then p
  else match p.vext with | some x => { p with vext := some { x with m := x.m.set r.toNat v r.isLt } } | none => p

/-- The completed-lane mask (R30). -/
def Proc.vprog (p : Proc) : Word := match p.vext with | some x => x.vprog | none => 0

def Proc.setVprog (p : Proc) (v : Word) : Proc :=
  match p.vext with | some x => { p with vext := some { x with vprog := v } } | none => p

end Sys2Proof.Machine
end

