-- ==== Sys2Proof/Machine/Flags.lean ====
section
/-! DEFINITION. The flags: FMTCTL's sticky bits and modes (R38, R39, R89), the conditions of CMP (R116). -/

namespace Sys2Proof.Machine

/-- FMTCTL.RM (R38). -/
def Proc.rm (p : Proc) : Rm := Rm.ofCode (bits p.fmtctl 1 0)

/-- FMTCTL.SAT (R38). -/
def Proc.sat (p : Proc) : Bool := p.fmtctl.getLsbD 2

/-- FMTCTL.FTZ (R38). -/
def Proc.ftz (p : Proc) : Bool := p.fmtctl.getLsbD 3

/-- FMTCTL[12:8] := FMTCTL[12:8] OR fl (R119). -/
def Proc.raise (p : Proc) (fl : FFlags) : Proc := { p with fmtctl := p.fmtctl ||| (fl.zeroExtend 64 <<< 8) }

/-- The sticky flags of the current process take those of its instruction (R39, R89). -/
def State.raise (s : State) (fl : FFlags) : State := { s with cur := s.cur.raise fl }

/-- Cond of R116. -/
def condHolds (c : Nat) (x y : Word) : Bool :=
  match c with
  | 0 => x = y
  | 1 => x ≠ y
  | 2 => x.slt y
  | 3 => !x.slt y
  | 4 => x.ult y
  | 5 => !x.ult y
  | 6 => x.sle y
  | 7 => !x.sle y
  | 8 => x.ule y
  | 9 => !x.ule y
  | _ => (x &&& y) ≠ 0

end Sys2Proof.Machine
end

