-- ==== Sys2Proof/Machine/MemOps.lean ====
section
/-! DEFINITION. The shared operations of the memory instructions: Locate (R214, R215), loads with forwarding (R173, R216),
stores into the queue (R173, R198), drains (R178, R179). -/

namespace Sys2Proof.Machine

/-- The access kinds of R214, the atomics with their member code. -/
inductive AKind where
  | load | store | amo (member : Nat) | cas | ord | wait | bar
  deriving DecidableEq, Repr

def AKind.need : AKind → Need
  | .load => .read
  | .wait => .read
  | .store => .write
  | .ord => .write
  | _ => .both

/-- Whether a STEP page of a RULE accepts an AMO member (R196); FADD is member 9. -/
def stepAmo (rule member : Nat) : Bool :=
  match rule with
  | 0 => member = 8
  | 1 => member = 8
  | 2 => member = 8
  | 3 => member = 0 || member = 9
  | 4 => member = 4 || member = 6
  | 5 => member = 5 || member = 7
  | 6 => member = 2
  | _ => member = 1

/-- The table of R215: whether a kind is carried out at a place. -/
def Spot.accepts (sp : Spot) (k : AKind) : Bool :=
  match sp, k with
  | .mem loc _, .ord => kindOf loc = .common
  | .mem loc _, .bar => kindOf loc ≠ .hbm
  | .mem _ _, _ => true
  | .step _ _ _, .load => true
  | .step _ _ _, .store => true
  | .step _ rule _, .amo m => stepAmo rule m
  | .step _ _ _, _ => false
  | .atomic _ _, .load => true
  | .atomic _ _, .amo _ => true
  | .atomic _ _, .cas => true
  | .atomic _ _, _ => false
  | .port _ _ _, .load => true
  | .port _ _ _, .store => true
  | .port _ _ io, .amo m => !io && (m = 0 || m = 8)
  | .port _ _ io, .cas => !io
  | .port _ _ _, _ => false

/-- Whether an access runs past the last byte of a scratchpad. -/
def Spot.pastEnd (sp : Spot) (n : Nat) : Bool :=
  match sp with
  | .mem loc _ => kindOf loc = .spad && spadOff loc + n > spadSize
  | _ => false

/-- Locate(ea, n, kind) of R214 for the current process. -/
def State.locate (s : State) (ea : Word) (n align : Nat) (k : AKind) : XRes Spot × State :=
  if bits ea 55 0 % align ≠ 0 then (.trap 0x03 [ea], s)
  else
    match s.classify s.here s.cur.domain.toNat s.cur.supv ea n k.need with
    | (.ok sp, t) => if sp.accepts k && !sp.pastEnd n then (.ok sp, t) else (.trap 0x05 [ea], s)
    | r => r

/-- Classify and R35 for an instruction that goes on to require its own scratchpad: a place elsewhere is refused with PROT
whether or not its die still works (R139, R348). -/
def State.classifyOnly (s : State) (a : Word) (n : Nat) : XRes Spot × State :=
  match s.classify s.here s.cur.domain.toNat s.cur.supv a n .read with
  | (.trap 0x19 _, t) => (.trap 0x05 [a], t)
  | r => r

/-- An address formed by adding as ADDA adds (R43). -/
def addAddr (a : Word) (off : Int) : Word :=
  BitVec.ofNat 64 (a.toNat / 2 ^ 56 * 2 ^ 56 + wrapInt 56 ((a.toNat % 2 ^ 56 : Nat) + off))

/-- The parts of an access: one on each side of a page boundary, the lower first, where a page table or a window decides
page by page (classes 0x0 and 0xE; R123, R339); the whole access in a scratchpad (R35). A trap of the upper part names its
first byte (log 99). -/
def parts (ea : Word) (n : Nat) : List (Word × Nat) :=
  let left := 65536 - ea.toNat % 65536
  let paged := bits ea 55 52 = 0 || bits ea 55 52 = 14
  if n ≤ left || !paged then [(ea, n)] else [(ea, left), (addAddr ea left, n - left)]

/-- An access to be made: its address, its bytes, its place. -/
structure Acc where
  ea : Word
  n : Nat
  spot : Spot
  deriving DecidableEq, Repr

/-- Locates every part of a list of accesses in order before any is made; the first failure traps or parks (R229). -/
def State.locateAll (s0 : State) (k : AKind) (align : Nat) :
    List (Word × Nat) → List Acc → (List Acc → State → State) → State → State
  | [], acc, f, s => f acc.reverse s
  | (ea, n) :: r, acc, f, s =>
    State.checked (s.locate ea n align k) s0 k.need fun sp t =>
      s0.locateAll k align r ({ ea := ea, n := n, spot := sp } :: acc) f t

/-! ## Drains (R178, R179, R246, R382) -/

/-- Whether a drain covers performed accesses, so that a lost one shows (R382). -/
def Drain.covers : Drain → Bool
  | .none => false
  | .corePoint => false
  | .stores => false
  | _ => true

/-- Goes on once the drain of a class is complete; until then the process is held at its instruction (R246). A lost
access that the drain covers traps DIEFENCED (R382). -/
def State.afterDrain (s : State) (d : Drain) (f : State → State) : State :=
  match d.covers, s.cur.lost with
  | true, some (va, die, reason) =>
    ({ s with cur := { s.cur with lost := none } } : State).trap 0x19 [va, BitVec.ofNat 64 die, BitVec.ofNat 64 reason]
  | _, _ => if s.drained s.self d then f s else s.hold (.drain d) s.cur.phase

/-- The drain a release at a scope makes before its own access (R179); at core point the store queue's order is enough. -/
def State.release (s : State) (scope : Nat) (f : State → State) : State :=
  if (drainOf scope).covers then s.afterDrain (drainOf scope) f else f s

/-! ## Loads -/

/-- The queued stores of the current process that have not passed the ordering point. -/
def State.ownQueue (s : State) : List QStore :=
  (s.core s.here).storeQ.filter fun q => q.owner = s.self && q.pid = s.cur.pid && !q.passed && q.target.isSome

/-- The location a queued store writes, for package memory and STEP pages. -/
def QStore.loc (q : QStore) : Option Nat :=
  match q.target with
  | some (.mem loc) => some loc
  | some (.step loc _ _ _) => some loc
  | _ => none

/-- The byte a queued store whose first byte goes to `base` holds for an address: that of its last part there. -/
def QStore.partByte (q : QStore) (base a : Nat) : Option Byte := partAt (q.parts base) a

/-- The byte a queued store holds for a location. -/
def QStore.byteAt (q : QStore) (a : Nat) : Option Byte :=
  match q.loc with
  | some l => q.partByte l a
  | none => none

/-- The byte a queued store to a HOST page holds for an address behind a port. -/
def QStore.hostByte (port : Nat) (q : QStore) (a : Nat) : Option Byte :=
  match q.target with
  | some (.port pt base false) => if pt = port then q.partByte base a else none
  | _ => none

/-- What forwarding gives for a range (R173): nothing of it queued, all of it, or a part. -/
inductive Forward where
  | clear | whole (bs : List Byte) | partly
  deriving DecidableEq, Repr

/-- What the own queued stores hold of some bytes, each from the youngest that holds it (R173). -/
def State.forwardBy (s : State) (byte : QStore → Nat → Option Byte) (bytes : List Nat) : Forward :=
  let q := s.ownQueue
  if q.isEmpty then .clear
  else
    let got := bytes.map fun a => q.foldl (fun b e => match byte e a with | some x => some x | none => b) none
    if got.all Option.isNone then .clear
    else if got.all Option.isSome then .whole (got.map fun b => b.getD 0)
    else .partly

def State.forward (s : State) (loc n : Nat) : Forward := s.forwardBy QStore.byteAt (fromTo loc n)

/-- The machine as it will be once the own queued stores to STEP pages have been accepted: what a load that takes its
bytes from them sees of the package view (R173, R194; log 100). -/
def State.withOwnSteps (s : State) : State :=
  s.ownQueue.foldl (fun t q =>
    match q.target with | some (.step _ _ _ _) => t.performStore t.here q | _ => t) s

/-- Reads the accesses of a load in order (R173, R194, R195, R209, R216). `replies` are the values the ports have
returned for those behind them. A poisoned granule traps MEMERR with the address of its access; what the homes did for the
reads before it stands. Each lane of a vector load takes its bytes from the own queued stores by itself, and the load waits
only for a lane that they cover in part (DESIGN CHOICE, log 130). -/
def State.loadAll (tag : Acc → Word) :
    List Acc → List Word → List (List Byte) → (List (List Byte) → State → State) → State → State
  | [], _, got, f, s => f got.reverse s
  | a :: r, replies, got, f, s =>
    match a.spot with
    | .mem loc key =>
      (match s.forward loc a.n with
       | .whole bs => State.loadAll tag r replies (bs :: got) f s
       | .partly => s.hold .storeQueue s.cur.phase
       | .clear =>
         let (bs, bad, t) := s.coreRead s.here loc a.n key
         if bad then t.trap 0x08 [tag a, 0] else State.loadAll tag r replies (bs :: got) f t)
    | .step loc _ key =>
      if (s.pkg (pkgOfLoc loc)).applying then s.hold .step s.cur.phase
      else
        let t := s.settleStep s.here loc
        (match s.forward loc a.n with
         | .partly => s.hold .storeQueue s.cur.phase
         | .whole _ =>
           let (bs, bad) := t.withOwnSteps.viewAt (pkgOf s.here) loc a.n key
           if bad then t.trap 0x08 [tag a, 0] else State.loadAll tag r replies (bs :: got) f t
         | .clear =>
           let (bs, bad) := t.viewAt (pkgOf s.here) loc a.n key
           if bad then t.trap 0x08 [tag a, 0] else State.loadAll tag r replies (bs :: got) f t)
    | .atomic loc key =>
      let (bs, bad, t) := s.readAt loc a.n (some key)
      if bad then t.trap 0x08 [tag a, 1] else State.loadAll tag r replies (bs :: got) f t
    | .port _ _ _ =>
      State.loadAll tag r (replies.drop 1) (leBytes (op replies 0).toNat a.n :: got) f s

/-- The values of an instruction's sources and the replies its ports have returned so far. -/
def State.withReplies (s : State) (sh : Shape) (vals : List Word) (fail : State → State)
    (f : List Word → List Word → State) : State :=
  if s.cur.mark = 2 then fail s
  else
    let all := if s.cur.mark = 1 then vals ++ [s.cur.answer] else vals
    f (all.take sh.srcs.length) (all.drop sh.srcs.length)

/-- Sends a request to a host port behind the core's earlier stores to it, and waits for its completion, holding the
operand values and the replies so far (R174, R187, R188, R225). -/
def State.awaitPort (s : State) (port : Nat) (r : PortReq) (vals replies : List Word) : State :=
  let t := s.settlePort s.here port
  let p := pkgOf s.here
  let u := t.request p port r
  ({ u with cur := { u.cur with portRead := some (portKey p port, u.postedOn (portKey p port)) } } : State).hold .reply
    (.after (vals ++ replies) 0 0)

/-- A read a load makes at a host port: the port, whether its page is an IO page, the bytes asked for, and the access it was
made for first. -/
structure PortRead where
  port : Nat
  io : Bool
  bytes : List Nat
  acc : Acc
  deriving DecidableEq, Repr

/-- The address of the first byte of a read. -/
def PortRead.low (r : PortRead) : Nat := r.bytes.foldl min (r.bytes.headD 0)

/-- The bytes from the first to the last of a read. -/
def PortRead.len (r : PortRead) : Nat := r.bytes.foldl max 0 + 1 - r.low

/-- The reads of one access: on an IO page it is one read, on a HOST page one for each granule (R171, R188). -/
def Acc.reads (a : Acc) : List PortRead :=
  match a.spot with
  | .port port addr true => [{ port := port, io := true, bytes := fromTo addr a.n, acc := a }]
  | .port port addr false =>
    let k := min a.n (8 - addr % 8)
    { port := port, io := false, bytes := fromTo addr k, acc := a } ::
      (if k < a.n then [{ port := port, io := false, bytes := fromTo (addr + k) (a.n - k), acc := a }] else [])
  | _ => []

/-- A read of a HOST page joins the one of its granule among those before it (R171, R230); any other comes last. -/
def joinRead (x : PortRead) : List PortRead → List PortRead
  | [] => [x]
  | y :: r =>
    if !x.io && !y.io && x.port = y.port && x.low / 8 = y.low / 8 then { y with bytes := y.bytes ++ x.bytes } :: r
    else y :: joinRead x r

/-- The reads a load makes at host ports, in order. -/
def portReads (as : List Acc) : List PortRead := (as.flatMap Acc.reads).foldl (fun l x => joinRead x l) []

/-- The byte that the completed reads of HOST pages hold for an address behind a port. -/
def hostReply (got : List (PortRead × Word)) (port a : Nat) : Byte :=
  match got.find? fun x => !x.1.io && x.1.port = port && x.1.bytes.contains a with
  | some (r, v) => (leBytes v.toNat 8).getD (a - r.low) 0
  | none => 0

/-- The values of the accesses behind ports, from the completed reads; `io` are those of the IO pages left. -/
def replyWords (got : List (PortRead × Word)) : List Acc → List Word → List Word
  | [], _ => []
  | a :: r, io =>
    match a.spot with
    | .port _ _ true => io.headD 0 :: replyWords got r (io.drop 1)
    | .port port addr false =>
      BitVec.ofNat 64 (leVal ((fromTo addr a.n).map (hostReply got port))) :: replyWords got r io
    | _ => replyWords got r io

/-- The reply of each access of a load behind a port, its reads all completed. -/
def accReplies (as : List Acc) (replies : List Word) : List Word :=
  let got := (portReads as).zip replies
  replyWords got as ((got.filter fun x => x.1.io).map (·.2))

/-- What the next read of a load at a host port comes to: one of a HOST page takes its bytes from the own queued stores
that cover it and waits for those that cover a part; an IO load reaches the port after every IO store of the process to
it; else a read request goes out (R173, R187, R188). -/
def State.readPorts (s : State) (vals : List Word) : List PortRead → List Word → (List Word → State) → State
  | [], replies, f => f replies
  | x :: r, replies, f =>
    let waiting := s.hold .storeQueue (.after (vals ++ replies) 0 0)
    let asks := s.awaitPort x.port (.read x.low x.len) vals replies
    if x.io then
      if s.ownQueue.any fun q => (match q.target with | some (.port pt _ true) => pt = x.port | _ => false) then waiting
      else asks
    else
      match s.forwardBy (QStore.hostByte x.port) x.bytes with
      | .whole bs =>
        let at_ := fun (a : Nat) => (((x.bytes.zip bs).find? fun y => y.1 = a).map (·.2)).getD 0
        s.readPorts vals r (replies ++ [BitVec.ofNat 64 (leVal ((fromTo x.low x.len).map at_))]) f
      | .partly => waiting
      | .clear => asks

/-- A load of several accesses: located in order, the ports' completions awaited, then read (R214 to R218). An error
completion traps MEMERR with the address of its access (R216). -/
def State.load (s : State) (sh : Shape) (vals : List Word) (align : Nat) (as : List (Word × Nat)) (tag : Acc → Word)
    (f : List Word → List (List Byte) → State → State) : State :=
  let all := if s.cur.mark = 1 then vals ++ [s.cur.answer] else vals
  let ops := all.take sh.srcs.length
  let replies := all.drop sh.srcs.length
  s.locateAll .load align as [] (fun accs t =>
    if s.cur.mark = 2 then
      s.trap 0x08 [((portReads accs)[replies.length]?.map fun x => tag x.acc).getD (as.headD (0, 0)).1, 0]
    else
      t.readPorts ops ((portReads accs).drop replies.length) replies fun got =>
        State.loadAll tag accs (accReplies accs got) [] (f ops) t) s

/-! ## Stores -/

/-- Entries of the store queue that have not passed the ordering point (R173). -/
def State.queueLength (s : State) : Nat :=
  ((s.core s.here).storeQ.filter fun q => !q.passed && q.target.isSome).length

/-- The address of a granule that an access at `ea` and location `loc` touches. -/
def granAddr (ea : Word) (loc g : Nat) : Word := addAddr ea ((8 * g : Nat) - (loc : Int))

/-- Reserves a step entry for every granule a store touches (R198); STEPFULL names the first that gets none. -/
def State.reserveAll (s0 : State) (rule key : Nat) : List Nat → (Nat → Word) → (State → State) → State → State
  | [], _, f, s => f s
  | g :: r, at_, f, s =>
    let p := pkgOf s.here
    match (s.pkg p).reserve g s.cur.rank.toNat (dieOfCore s.here) rule key s.cur.domain.toNat with
    | some x => s0.reserveAll rule key r at_ f { s with pkgs := s.pkgs.put p x }
    | none => s0.trap 0x11 [at_ g, (s.pkg p).stepno]

/-- Reserves the step entries of one access. -/
def reserveSpot (s0 : State) (a : Acc) (f : State → State) (s : State) : State :=
  match a.spot with
  | .step loc rule key => s0.reserveAll rule key (granules loc a.n) (granAddr a.ea loc) f s
  | _ => f s

/-- Reserves for every access of a store before any is accepted (R198, R229). -/
def State.reserveEach (s0 : State) : List Acc → (State → State) → State → State
  | [], f, s => f s
  | a :: r, f, s => reserveSpot s0 a (s0.reserveEach r f) s

/-- Where the first byte at a place lies. -/
def Spot.base : Spot → Nat
  | .mem loc _ => loc
  | .step loc _ _ => loc
  | .atomic loc _ => loc
  | .port _ addr _ => addr

/-- The place a number of bytes further on. -/
def Spot.shift (sp : Spot) (k : Nat) : Spot :=
  match sp with
  | .mem loc key => .mem (loc + k) key
  | .step loc rule key => .step (loc + k) rule key
  | .atomic loc key => .atomic (loc + k) key
  | .port pt addr io => .port pt (addr + k) io

/-- What one entry of the store queue is to hold: a write of bytes of one aligned granule, with the parts that join it
(R171). -/
structure Put where
  spot : Spot
  ea : Word
  bytes : List Byte
  more : List (Nat × List Byte)
  deriving DecidableEq, Repr

/-- Whether two places lie in one granule of one memory, written alike. -/
def Spot.together (a b : Spot) : Bool :=
  a.base / 8 = b.base / 8 &&
    (match a, b with
     | .mem _ k, .mem _ l => k = l
     | .step _ r k, .step _ q l => r = q && k = l
     | .port p _ i, .port q _ j => p = q && i = j
     | _, _ => false)

/-- An access's bytes cut where they cross into the next granule. -/
def cutGranule (a : Acc) (bs : List Byte) : List Put :=
  let k := 8 - a.spot.base % 8
  if bs.length ≤ k then [{ spot := a.spot, ea := a.ea, bytes := bs, more := [] }]
  else [{ spot := a.spot, ea := a.ea, bytes := bs.take k, more := [] },
    { spot := a.spot.shift k, ea := addAddr a.ea k, bytes := bs.drop k, more := [] }]

/-- A write joins the one of its granule among those before it, or comes last. -/
def joinPut (x : Put) : List Put → List Put
  | [] => [x]
  | y :: r => if y.spot.together x.spot then { y with more := y.more ++ (x.spot.base, x.bytes) :: x.more } :: r
    else y :: joinPut x r

/-- The writes of one access: one for each aligned granule it touches, the lanes of a granule in lane order (R171, R230). -/
def putsOf (accs : List (Acc × List Byte)) : List Put :=
  (accs.flatMap fun x => cutGranule x.1 x.2).foldl (fun l x => joinPut x l) []

/-- The queue entry of a store to a place; none for a place that takes no stores. -/
def State.storeTarget (s : State) (sp : Spot) : Option (Target × Nat) :=
  match sp with
  | .mem loc key => some (.mem loc, key.getD 0)
  | .step loc rule key => some (.step loc rule key (s.pkg (pkgOf s.here)).openStep, key)
  | .port port addr io => some (.port port addr io, 0)
  | .atomic _ _ => none

/-- A store enters the store queue (R173). -/
def State.enqueue (s : State) (x : Put) (d : Desc) : State :=
  match s.storeTarget x.spot with
  | none => s
  | some (tg, key) =>
    s.modCore s.here fun y => { y with
      storeSeq := y.storeSeq + 1
      storeQ := y.storeQ ++ [{ seq := y.storeSeq, owner := s.self, pid := s.cur.pid, domain := s.cur.domain.toNat,
                               rank := s.cur.rank.toNat, target := some tg, va := x.ea, bytes := x.bytes, more := x.more,
                               desc := d, keySlot := key, drain := .none, passed := false }] }

/-- The oldest `n` of the current process's stores pass the ordering point, in program order (R173). -/
def State.passOwn (s : State) : Nat → State
  | 0 => s
  | n + 1 =>
    match s.ownQueue with
    | [] => s
    | q :: _ =>
      (s.passStore s.here ((indexOf (fun (e : QStore) => e.seq = q.seq) (s.core s.here).storeQ 0).getD 0) q false).passOwn n

/-- Whether `n` more stores can enter the queue of eight (R173): there is room for them, or nothing in it waits and those
that come first can pass the ordering point as the others enter. -/
def State.roomFor (s : State) (n : Nat) : Bool :=
  s.queueLength + n ≤ 8 || (s.queueLength = 0 && s.drained s.self .stores)

/-- Stores located accesses: room in the queue, step entries, then the queue (R173, R198, R246). -/
def State.storeAll (s0 : State) (accs : List Acc) (bs : List (List Byte)) (d : Desc) (f : State → State) (s : State) :
    State :=
  let puts := putsOf (accs.zip bs)
  if s.roomFor puts.length then
    s0.reserveEach accs (fun t => f ((puts.foldl (fun u x => u.enqueue x d) t).passOwn (s.queueLength + puts.length - 8))) s
  else s0.hold .storeQueue s0.cur.phase

end Sys2Proof.Machine
end

