-- ==== Sys2Proof/Machine/MemInstr.lean ====
section
/-! DEFINITION. Scalar loads and stores: LD, ST, LDA, STL (R217, R218), LDT, STT (R123 to R126). -/

namespace Sys2Proof.Machine

/-- A load of 2^z bytes at an address into g[d], sign- or zero-extended (R218). -/
def State.loadScalar (s : State) (d a : Reg) (z : Nat) (signed : Bool) (off : Int) : State :=
  let sh : Shape := { srcs := [a], dst := some d }
  s.issue sh fun vals s =>
    let ea := addAddr (op vals 0) (off * (2 ^ z : Nat))
    s.load sh vals (2 ^ z) [(ea, 2 ^ z)] (fun _ => ea) fun _ got s =>
      let v := leVal (got.headD [])
      s.doneWith sh (if signed then BitVec.ofInt 64 (signedOf (8 * 2 ^ z) v) else BitVec.ofNat 64 v)

/-- LD (R217, R218). -/
def execLd (d a : Reg) (z : BitVec 2) (g : BitVec 1) (o : BitVec 10) (s : State) : Out :=
  .next (s.loadScalar d a z.toNat (g = 1 && z ≠ 3) o.toInt)

/-- LDA (R217, R218): zero-extended. As an acquire it needs nothing more: the load is performed before any later access
of the process passes the ordering point (R179, R416). -/
def execLda (d a : Reg) (z : BitVec 2) (_c : BitVec 4) (o : BitVec 9) (s : State) : Out :=
  .next (s.loadScalar d a z.toNat false o.toInt)

/-- A store of the low 2^z bytes of g[d] (R218). -/
def State.storeScalar (s : State) (d a : Reg) (z : Nat) (off : Int) (scope : Option Nat) : State :=
  let sh : Shape := { srcs := [a, d] }
  s.issue sh fun vals s =>
    let ea := addAddr (op vals 0) (off * (2 ^ z : Nat))
    s.locateAll .store (2 ^ z) [(ea, 2 ^ z)] [] (fun accs t =>
      let go := fun (t : State) =>
        s.storeAll accs [leBytes (op vals 1).toNat (2 ^ z)] (.unsigned (2 ^ z)) (fun u => u.done sh) t
      match scope with
      | none => go t
      | some c => t.release c go) s

/-- ST (R217, R218). -/
def execSt (d a : Reg) (z : BitVec 2) (o : BitVec 10) (s : State) : Out :=
  .next (s.storeScalar d a z.toNat o.toInt none)

/-- STL (R217, R218): a release at its scope (R179). -/
def execStl (d a : Reg) (z : BitVec 2) (c : BitVec 4) (o : BitVec 9) (s : State) : Out :=
  .next (s.storeScalar d a z.toNat o.toInt (some c.toNat))

/-! ## Typed elements -/

/-- An element located by Elem of R123. -/
structure Elem where
  addr : Word
  nb : Nat
  sh : Nat
  w : Nat
  f : Nat
  k : Nat
  deriving DecidableEq, Repr

/-- Width(f) of R123. -/
def elemWidth (f : Nat) : Nat :=
  match Fmt.ofCode f with
  | some (.float F) => F.width
  | some (.int w _) => w
  | _ => 8

/-- Whether a pointer's tag is a legal typed format (R123). -/
def tagOk (f k : Nat) : Bool :=
  f < 17 && !(5 ≤ f && f ≤ 9 && (k = 1 || k = 2 || k = 3 || k = 6 || k = 7)) && !(f = 12 && k ≥ 4)

/-- Elem(ptr, i) of R123. -/
def elem (ptr : Word) (i : Nat) : XRes Elem :=
  let f := bits ptr 63 59
  let k := bits ptr 58 56
  if !tagOk f k then .trap 0x04 [ptr]
  else
    let w := elemWidth f
    let (off, sh, nb) := if w = 6 then (3 * (i / 4), 6 * (i % 4), 3) else (i * w / 8, i * w % 8, max 1 (w / 8))
    let addr := addAddr ptr off
    if nb > 1 && w ≠ 6 && bits addr 55 0 % nb ≠ 0 then .trap 0x03 [addr]
    else .ok { addr := addr, nb := nb, sh := sh, w := w, f := f, k := k }

/-- A LUT8 table of a core (R101, R139). -/
def State.lutTable (s : State) (c : CoreId) (t : Nat) (i : Nat) : BitVec 19 := (s.core c).lut.get (256 * t + i) 0

/-- The value of an element code (R124). -/
def State.elemVal (s : State) (e : Elem) (c : Nat) : XVal :=
  match Fmt.ofCode e.f with
  | some F => F.val (s.lutTable s.here (e.k % 4)) c
  | none => .qnan

/-- LDT (R124). -/
def execLdt (d a b : Reg) (t : BitVec 2) (s : State) : Out :=
  let F := FFmt.ofType t.toNat
  let sh : Shape := { srcs := [a, b], dst := some d, full := true }
  .next (s.issue sh fun vals s =>
    match elem (op vals 0) (op vals 1).toNat with
    | .ok e =>
      s.load sh vals 1 (parts e.addr e.nb) (fun _ => e.addr) fun _ got s =>
        let c := leVal got.flatten / 2 ^ e.sh % 2 ^ e.w
        if e.f = 0 then s.doneWith sh (BitVec.ofNat 64 c)
        else
          let r := round F s.cur.rm false (s.elemVal e c)
          (s.raise r.2).doneWith sh (BitVec.ofNat 64 r.1)
    | .trap cause ds => s.trap cause ds
    | .miss _ _ _ => s)

/-- The code STT stores for a register value, and its flags (R125). -/
def State.elemCode (s : State) (e : Elem) (F : FFmt) (v : Word) : Nat × FFlags :=
  if e.f = 0 then (v.toNat % 256, .none)
  else
    match Fmt.ofCode e.f with
    | some G => G.enc (s.lutTable s.here (e.k % 4)) s.cur.rm s.cur.sat (F.decode (v.toNat % 2 ^ F.width))
    | none => (0, .none)

/-- The descriptor of a typed contribution (R196): the signed kinds are INT8, INT16 and INT32. -/
def elemDesc (f nb : Nat) : Desc :=
  if f = 10 || f = 14 || f = 15 then .signed nb else if 1 ≤ f && f ≤ 9 && f ≠ 7 && f ≠ 8 && f ≠ 9 then .float f
  else .unsigned (if nb = 3 then 1 else nb)

/-- Whether a STEP page of a RULE refuses an STT of a format (R196): under SUM, MIN or MAX, the 4-bit and 6-bit formats,
RAW, LUT8 and E8M0. -/
def stepRefuses (sp : Spot) (f w : Nat) : Bool :=
  match sp with
  | .step _ rule _ => (rule = 3 || rule = 4 || rule = 5) && (w < 8 || f = 0 || f = 12 || f = 13)
  | _ => false

/-- STT (R125, R126): the d field is read; a 4-bit or 6-bit element is a read and a write of its bytes. -/
def execStt (d a b : Reg) (t : BitVec 2) (s : State) : Out :=
  let F := FFmt.ofType t.toNat
  let sh : Shape := { srcs := [a, b], dsrc := some d, full := true }
  .next (s.issue sh fun vals s =>
    match elem (op vals 0) (op vals 1).toNat with
    | .ok e =>
      let (c, fl) := s.elemCode e F (s.cur.reg d)
      let put := fun (bs : List Byte) (t : State) =>
        s.locateAll .store 1 (parts e.addr e.nb) [] (fun accs t =>
          if accs.any fun x => stepRefuses x.spot e.f e.w then s.trap 0x05 [e.addr]
          else
            let n0 := (accs.headD { ea := 0, n := 0, spot := .mem 0 none }).n
            s.storeAll accs [bs.take n0, bs.drop n0] (elemDesc e.f e.nb) (fun u => (u.raise fl).done sh) t) t
      if e.w < 8 then
        s.locateAll .store 1 (parts e.addr e.nb) [] (fun accs _ =>
          if accs.any fun x => stepRefuses x.spot e.f e.w then s.trap 0x05 [e.addr]
          else
            s.load sh vals 1 (parts e.addr e.nb) (fun _ => e.addr) fun _ got t =>
              let old := leVal got.flatten
              put (leBytes (old - old / 2 ^ e.sh % 2 ^ e.w * 2 ^ e.sh + c % 2 ^ e.w * 2 ^ e.sh) e.nb) t) s
      else put (leBytes c e.nb) s
    | .trap cause ds => s.trap cause ds
    | .miss _ _ _ => s)

end Sys2Proof.Machine
end

