-- ==== Sys2Proof/Machine/Atomic.lean ====
section
/-! DEFINITION. Atomics: AMO and CAS (R219 to R222, R225), ORDADD (R223). -/

namespace Sys2Proof.Machine

/-- The codes of the AMO members (R61). -/
inductive Amo where
  | add | and | or | xor | min | max | minz | maxz | swap | fadd
  deriving DecidableEq, Repr

def Amo.code : Amo → Nat
  | .add => 0 | .and => 1 | .or => 2 | .xor => 3 | .min => 4 | .max => 5 | .minz => 6 | .maxz => 7 | .swap => 8
  | .fadd => 9

/-- The member a VAMO operation code names (R66). -/
def Amo.ofCode : Nat → Amo
  | 0 => .add | 1 => .and | 2 => .or | 3 => .xor | 4 => .min | 5 => .max | 6 => .minz | 7 => .maxz | _ => .swap

/-- Op(old, x) in n bytes (R220). -/
def Amo.apply (m : Amo) (n old x : Nat) : Nat :=
  match m with
  | .add => (old + x) % 2 ^ (8 * n)
  | .and => old &&& x
  | .or => old ||| x
  | .xor => old ^^^ x
  | .min => if signedOf (8 * n) old < signedOf (8 * n) x then old else x
  | .max => if signedOf (8 * n) old < signedOf (8 * n) x then x else old
  | .minz => if old < x then old else x
  | .maxz => if old < x then x else old
  | .swap => x
  | .fadd => fsum n old x

/-- The descriptor of an AMO's contribution to a STEP page (R196). -/
def Amo.desc (m : Amo) (n : Nat) : Desc :=
  match m with
  | .min => .signed n
  | .max => .signed n
  | .fadd => .float (if n = 4 then 2 else 1)
  | _ => .unsigned n

/-- What an atomic writes: the new value, or nothing (R180, R220). -/
abbrev Rmw := Nat → Option Nat

/-- An atomic performed at its home as one event (R180, R220 to R222): reads `n` bytes, writes what `f` gives. Poison at
the home traps MEMERR and poisons the granule (R221); `fix` is what a trap keeps of the instruction's progress, `wait` how
it waits for a home that is applying a calends (R195). -/
def State.atomicAt (fix wait : State → State) (ea : Word) (n : Nat) (sp : Spot) (f : Rmw) (d : Desc) (x : Nat)
    (k : Nat → State → State) (s : State) : State :=
  match sp with
  | .mem loc key =>
    let t := s.settle s.here (homesOf loc n)
    let t := if kindOf loc = .hbm then t.writeBack (loc / 64) else t
    let (bs, bad, t) := t.readAt loc n key
    if bad then
      (fix (t.poisonAt loc)).trap 0x08 [ea, if kindOf loc = .spad && coreOfSpad loc = t.here then 0 else 1]
    else
      let old := leVal bs
      match f old with
      | none => k old t
      | some v => k old (t.writeAt none (some t.here) loc (leBytes v n) key)
  | .step loc rule key =>
    let p := pkgOf s.here
    let t := s.settleStep s.here loc
    if (s.pkg (pkgOfLoc loc)).applying then wait s
    else (fix s).reserveAll rule key (granules loc n) (granAddr ea loc) (fun t =>
      let (bs, bad) := t.viewAt p loc n key
      if bad then (fix t).trap 0x08 [ea, 1]
      else k (leVal bs) (t.accept p [(loc, leBytes x n)] d t.cur.rank.toNat (dieOfCore t.here) rule (t.pkg p).openStep)) t
  | .atomic loc key =>
    let (bs, bad, t) := s.readAt loc n (some key)
    if bad then (fix (t.poisonAt loc)).trap 0x08 [ea, 1]
    else
      let old := leVal bs
      match f old with
      | none => k old t
      | some v => k old (t.writeAt none (some t.here) loc (leBytes v n) (some key))
  | .port _ _ _ => s

/-- The AtomicOp request of a member at an address behind a host port (R225). -/
def Amo.request (m : Amo) (addr n x : Nat) : PortReq := if m = .swap then .swap addr n x else .fetchAdd addr n x

/-- An AMO or CAS: located, drained by its order at its scope (R179), then performed after every earlier store of the
process has passed the ordering point. On a HOST page it is an AtomicOp request whose completion supplies the result
(R225). -/
def State.atomic (s : State) (sh : Shape) (vals : List Word) (kind : AKind) (n : Nat) (order scope : Nat)
    (ea : Word) (f : Rmw) (d : Desc) (x : Nat) (req : Nat → PortReq) : State :=
  s.withReplies sh vals (fun s => s.trap 0x05 [ea]) fun _ replies =>
    s.locateAll kind n [(ea, n)] [] (fun accs t =>
      let sp := (accs.headD { ea := ea, n := n, spot := .mem 0 none }).spot
      let go := fun (t : State) =>
        match sp with
        | .port port addr _ =>
          (match replies with
           | [] => t.awaitPort port (req addr) vals []
           | v :: _ => t.doneWith sh (BitVec.ofNat 64 (v.toNat % 2 ^ (8 * n))))
        | _ => t.atomicAt id (fun u => u.hold .step u.cur.phase) ea n sp f d x
            fun old t => t.doneWith sh (BitVec.ofNat 64 old)
      let passed := fun (t : State) => t.afterDrain .stores go
      if order ≥ 2 then t.release scope passed else passed t) s

/-- AMO (R219, R220). -/
def State.amo (s : State) (m : Amo) (d a b : Reg) (z : BitVec 1) (c : BitVec 4) (o : BitVec 2) : State :=
  let n := if z = 1 then 8 else 4
  let sh : Shape := { srcs := [a, b], dst := some d }
  s.issue sh fun vals s =>
    let x := (op vals 1).toNat % 2 ^ (8 * n)
    s.atomic sh vals (.amo m.code) n o.toNat c.toNat (op vals 0) (fun old => some (m.apply n old x)) (m.desc n) x
      fun addr => m.request addr n x

/-- AMO.ADD (R220). -/
def execAmoAdd (d a b : Reg) (z : BitVec 1) (c : BitVec 4) (o : BitVec 2) (s : State) : Out := .next (s.amo .add d a b z c o)

/-- AMO.AND (R220). -/
def execAmoAnd (d a b : Reg) (z : BitVec 1) (c : BitVec 4) (o : BitVec 2) (s : State) : Out := .next (s.amo .and d a b z c o)

/-- AMO.OR (R220). -/
def execAmoOr (d a b : Reg) (z : BitVec 1) (c : BitVec 4) (o : BitVec 2) (s : State) : Out := .next (s.amo .or d a b z c o)

/-- AMO.XOR (R220). -/
def execAmoXor (d a b : Reg) (z : BitVec 1) (c : BitVec 4) (o : BitVec 2) (s : State) : Out := .next (s.amo .xor d a b z c o)

/-- AMO.MIN (R220). -/
def execAmoMin (d a b : Reg) (z : BitVec 1) (c : BitVec 4) (o : BitVec 2) (s : State) : Out := .next (s.amo .min d a b z c o)

/-- AMO.MAX (R220). -/
def execAmoMax (d a b : Reg) (z : BitVec 1) (c : BitVec 4) (o : BitVec 2) (s : State) : Out := .next (s.amo .max d a b z c o)

/-- AMO.MINZ (R220). -/
def execAmoMinz (d a b : Reg) (z : BitVec 1) (c : BitVec 4) (o : BitVec 2) (s : State) : Out := .next (s.amo .minz d a b z c o)

/-- AMO.MAXZ (R220). -/
def execAmoMaxz (d a b : Reg) (z : BitVec 1) (c : BitVec 4) (o : BitVec 2) (s : State) : Out := .next (s.amo .maxz d a b z c o)

/-- AMO.SWAP (R220). -/
def execAmoSwap (d a b : Reg) (z : BitVec 1) (c : BitVec 4) (o : BitVec 2) (s : State) : Out := .next (s.amo .swap d a b z c o)

/-- AMO.FADD (R220): RNE whatever FMTCTL.RM says, no flag. -/
def execAmoFadd (d a b : Reg) (z : BitVec 1) (c : BitVec 4) (o : BitVec 2) (s : State) : Out := .next (s.amo .fadd d a b z c o)

/-- CAS (R219, R220): g[d] is the expected value and receives the old one; a mapped port there traps (R108). -/
def execCas (d a b : Reg) (z : BitVec 1) (c : BitVec 4) (o : BitVec 2) (s : State) : Out :=
  let n := if z = 1 then 8 else 4
  let sh : Shape := { srcs := [a, b], dst := some d, dsrc := some d }
  .next (s.issue sh fun vals s =>
    let x := (op vals 1).toNat % 2 ^ (8 * n)
    let e := (s.cur.reg d).toNat % 2 ^ (8 * n)
    s.atomic sh vals .cas n o.toNat c.toNat (op vals 0) (fun old => if old = e then some x else none) (.unsigned n) x
      fun addr => .cas addr n e x)

/-! ## ORDADD (R223) -/

/-- The mask of an element in its granule. -/
def elemMask (loc n : Nat) : BitVec 8 := BitVec.ofNat 8 ((2 ^ n - 1) * 2 ^ (loc % 8))

/-- The contribution combined into an entry, per element, in acceptance order (R223). -/
def OrdAdd.combine (e : OrdAdd) (loc n x : Nat) : OrdAdd :=
  let sh := 8 * (loc % 8)
  let old := e.sum.toNat / 2 ^ sh % 2 ^ (8 * n)
  let new := if e.mask.getLsbD (loc % 8) then fsum n old x else x
  { e with mask := e.mask ||| elemMask loc n,
           sum := BitVec.ofNat 64 (e.sum.toNat - old * 2 ^ sh + new * 2 ^ sh) }

/-- The bank accepts or refuses a contribution: 256 entries, one element size to a granule (R223). -/
def State.ordAccept (s : State) (loc n x : Nat) : Sum State Nat :=
  let g := loc / 8
  let rank := s.cur.rank.toNat
  if s.ordadds.any fun e => e.gran = g && e.size ≠ n then .inr 2
  else if s.ordadds.any fun e => e.gran = g && e.rank = rank && e.core = s.here then
    .inl { s with ordadds := s.ordadds.map fun e =>
            if e.gran = g && e.rank = rank && e.core = s.here then e.combine loc n x else e }
  else if (s.ordadds.filter fun e => homeOf (8 * e.gran) = homeOf loc).length ≥ 256 then .inr 1
  else
    let e : OrdAdd := { gran := g, rank := rank, core := s.here, mask := 0, size := n, sum := 0 }
    .inl { s with ordadds := s.ordadds ++ [e.combine loc n x] }

/-- ORDADD (R223): waits for its order's drain, is accepted at the bank, g[d] receives zero. -/
def execOrdadd (d a b : Reg) (z : BitVec 1) (c : BitVec 4) (o : BitVec 2) (s : State) : Out :=
  let n := if z = 1 then 8 else 4
  let sh : Shape := { srcs := [a, b], dst := some d }
  .next (s.issue sh fun vals s =>
    let ea := op vals 0
    s.locateAll .ord n [(ea, n)] [] (fun accs t =>
      match (accs.headD { ea := ea, n := n, spot := .mem 0 none }).spot with
      | .mem loc _ =>
        let go := fun (t : State) => t.afterDrain .stores fun t =>
          match (t.settle t.here (homesOf loc n)).ordAccept loc n ((op vals 1).toNat % 2 ^ (8 * n)) with
          | .inl u => (u.sink u.here).doneWith sh 0
          | .inr code => s.trap 0x05 [ea, BitVec.ofNat 64 code]
        if o.toNat ≥ 2 then t.release c.toNat go else go t
      | _ => s.trap 0x05 [ea]) s)

end Sys2Proof.Machine
end

