-- ==== Sys2Proof/Machine/Fence.lean ====
section
/-! DEFINITION. FENCE, FENCESC and WAITA (R178 to R181, R186, R226, R227). -/

namespace Sys2Proof.Machine

/-- A mark that keeps the process's later stores in the queue until a drain has completed (R179). -/
def State.markQueue (s : State) (d : Drain) : State :=
  if s.drained s.self d then s
  else
    s.modCore s.here fun x => { x with
      storeSeq := x.storeSeq + 1
      storeQ := x.storeQ ++ [{ seq := x.storeSeq, owner := s.self, pid := s.cur.pid, domain := 0, rank := 0,
                               target := none, va := 0, bytes := leBytes s.cur.iword.toNat 4, more := [], desc := .unsigned 1, keySlot := 0, drain := d,
                               passed := false }] }

/-- FENCE (R178, R179, R226): bit 0 LL, 1 LS, 2 SL, 3 SS. Loads are performed as they issue, so LL and LS wait for
nothing; SL holds the process until its stores have passed the ordering point; SS marks the queue. -/
def execFence (c : BitVec 4) (o : BitVec 4) (s : State) : Out :=
  .next (s.issue {} fun _ s =>
    let d := drainOf c.toNat
    let ss := fun (s : State) => (if o.getLsbD 3 && d.covers then s.markQueue d else s).done {}
    let lost := fun (s : State) (f : State → State) =>
      match o.getLsbD 3 && d.covers, s.cur.lost with
      | true, some (va, die, reason) =>
        State.trap { s with cur := { s.cur with lost := none } } 0x19 [va, BitVec.ofNat 64 die, BitVec.ofNat 64 reason]
      | _, _ => f s
    lost s fun s => if o.getLsbD 2 && d ≠ .none then s.afterDrain .corePoint ss else ss s)

/-- FENCESC (R181): drains at the system class, then waits for the first heartbeat tick in a later cycle. -/
def execFencesc (s : State) : Out :=
  .next (s.issue {} fun _ s =>
    if s.cur.resumed then s.done {}
    else s.afterDrain .system fun s => s.hold (.tick (s.now s.here)) (.after [] 0 0))

/-- WAITA (R186, R227): the d field is the deadline and receives the result code. -/
def execWaita (d a b : Reg) (s : State) : Out :=
  let sh : Shape := { srcs := [a, b], dst := some d, dsrc := some d }
  .next (s.issue sh fun vals s =>
    let ea := op vals 0
    let dl := if s.cur.resumed then op vals 2 else s.cur.reg d
    let s := { s with armed := s.armed.filter fun x => x.2 ≠ s.self }
    s.locateAll .wait 8 [(ea, 8)] [] (fun accs t =>
      match (accs.headD { ea := ea, n := 8, spot := .mem 0 none }).spot with
      | .mem loc key =>
        t.afterDrain .corePoint fun t =>
        let (bs, bad, u) := t.coreRead t.here loc 8 key
        let w := leVal bs
        let late := dl ≠ 0 && u.now u.here ≥ dl.toNat
        if bad then u.trap 0x08 [ea, 0]
        else if s.cur.resumed then
          u.doneWith sh (if w ≠ (op vals 1).toNat then 0 else if late then 1 else 3)
        else if w ≠ (op vals 1).toNat then u.doneWith sh 2
        else if late then u.doneWith sh 1
        else
          ({ u with armed := u.armed ++ [(loc / 64, u.self)] } : State).parkAfter 4 (.line (loc / 64))
            [op vals 0, op vals 1, dl] (if dl = 0 then none else some dl.toNat)
      | _ => s.trap 0x05 [ea]) s)

end Sys2Proof.Machine
end

