-- ==== Sys2Proof/Machine/Life.lean ====
section
/-! DEFINITION. The end of a process and what it sets off (R149, R202, R240, R248, R266, R277, R328), and the closing of
a package's step (R193, R203). -/

namespace Sys2Proof.Machine

/-! ## Steps: arrival and closing -/

/-- The enrolled processes of a package (R202): a migrating one counts where its context stands, and no longer at its
source once it has been accepted. -/
def State.enrolledOn (s : State) (p : Nat) : List Slot :=
  s.live.filter fun k => pkgOf (coreOf k) = p && (s.proc k).enrolled && !s.leftFor k

/-- The package closes its open step, opens a new one and goes to STREAMING (R193, R203). -/
def State.closeStep (s : State) (p : Nat) : State :=
  s.modPkg p fun x => { x with openStep := x.openStep + 1, phase := 1, closing := true, arrivedSince := false, called := none }

/-- The OPEN row of R203: an arrival has left every process still enrolled arrived. No step closes before the pod is formed
(R387). -/
def State.tryClose (s : State) (p : Nat) : State :=
  let x := s.pkg p
  if s.podFormed && x.phase = 0 && x.arrivedSince &&
      (s.enrolledOn p).all fun k => (s.proc k).arrivedIn = some x.openStep then s.closeStep p
  else s

/-- An arrival in the open step of a package (R202, R203). -/
def State.arrival (s : State) (p : Nat) : State :=
  (s.modPkg p fun x => { x with arrivedSince := true }).tryClose p

/-! ## Waiters of a core -/

/-- Wakes every process of a core whose state satisfies `f`, in slot order. -/
def State.wakeWhere (s : State) (c : CoreId) (f : Proc → Bool) : State :=
  ((s.liveOn c).filter fun k => f (s.proc k)).foldl (fun (t : State) k => t.wake k 0 0) s

/-- What an engine queue's change lets go on: a TIS that waits for room, TWAIT and STOP (R147, R149, R165). -/
def State.engineMoved (s : State) (c : CoreId) : State :=
  s.wakeWhere c fun p => match p.wait with | .engines => true | .room _ => true | _ => false

/-- Discards the queued commands of a process that satisfy `f` (R149, R163). -/
def State.discard (s : State) (k : Slot) (f : Cmd → Bool) : State :=
  let pid := (s.proc k).pid
  let keep := fun (q : List Cmd) => q.filter fun c => !(c.owner = k && c.pid = pid && f c)
  (s.modCore (coreOf k) fun x => { x with tileQ := keep x.tileQ, copyQ := keep x.copyQ }).engineMoved (coreOf k)

/-- The commands of a process in the queues. -/
def State.commandsOf (s : State) (k : Slot) : List Cmd :=
  ((s.core (coreOf k)).tileQ ++ (s.core (coreOf k)).copyQ).filter fun c => c.owner = k && c.pid = (s.proc k).pid

/-! ## The replay context (R277) -/

/-- One replay of a tape fewer; an invalid tape goes when its last replay ends (R281). -/
def State.tapeRelease (s : State) (cl i : Nat) : State :=
  match (s.cluster cl).tapes.find? i with
  | none => s
  | some t =>
    s.modCluster cl fun x =>
      { x with tapes := if t.state = 3 && t.active ≤ 1 then x.tapes.del i
                        else x.tapes.put i { t with active := t.active - 1 } }

/-- The replay context becomes idle, and the next process waiting behind it is checked (R277). -/
def State.replayIdle (s : State) (c : CoreId) : State :=
  let r := (s.core c).replay
  let s1 := match r.state with
    | .stream => s.tapeRelease (clusterOf c) r.index
    | .drain => s.tapeRelease (clusterOf c) r.index
    | _ => s
  s1.modCore c fun x =>
    match r.waiting with
    | [] => { x with replay := { Replay.idle with play := r.play } }
    | (k, id, args, w) :: rest =>
      { x with replay := { state := .check, owner := k, index := 0, pos := 0, id := id, args := args, iword := w,
                           waiting := rest, play := r.play + 1 } }

/-- A process leaves the replay context, or the line behind it. -/
def State.replayLeave (s : State) (k : Slot) : State :=
  let c := coreOf k
  let r := (s.core c).replay
  if r.state ≠ .idle && r.owner = k then s.replayIdle c
  else s.modCore c fun x => { x with replay := { r with waiting := r.waiting.filter fun w => w.1 ≠ k } }

/-! ## The end of a process -/

/-- The home core of a process's chunk (R328). -/
def Proc.chunkHome (p : Proc) : CoreId := p.chpkg * 2048 + p.chome.toNat

/-- Whether a spawn that a slot asked for as a process of a chunk is still without an answer (R328). -/
def State.spawning (s : State) (k : Slot) (home : CoreId) (i : Nat) (job : BitVec 48) : Bool :=
  s.msgs.any fun m => match m.body with
    | .remote (.spawn x) j _ => j = k && x.chv && x.chunkHome = home && x.chidx.toNat = i && x.job = job
    | .increment x h j _ _ g => j = k && h = home && x = i && g = job
    | _ => false

/-- The deaths a core owes are told once no spawn of the dead process is without an answer (R328, log 108). -/
def State.payOwed (s : State) (c : CoreId) : State :=
  let due := (s.core c).owed.filter fun (k, h, i, g) => !s.spawning k h i g
  let t := s.modCore c fun x => { x with owed := x.owed.filter fun (k, h, i, g) => s.spawning k h i g }
  due.foldl (fun (t : State) (_, h, i, g) => t.send (.core c) (.core h) .control (.decrement i h g)) t

/-- A freed light slot calls the oldest refused origin (R248). -/
def State.callRefused (s : State) (c : CoreId) : State :=
  match (s.core c).refusals with
  | [] => s
  | o :: rest => (s.modCore c fun x => { x with refusals := rest }).send (.core c) (.core (coreOf o)) .control (.space o (s.proc o).pid)

/-- The ends the ALTW of a process selected are open to the others again (R258). -/
def State.unchooseAll (s : State) (k : Slot) : State :=
  let mine := s.eps.filter fun x => coreOfEp x.1 = coreOf k && x.2.chosen = some (k, (s.proc k).pid)
  mine.foldl (fun (t : State) x => (t.modEp x.1 fun y => { y with chosen := none }).wakeEp x.1) s

/-- Ends a process: STOP once no command is queued, KILL, the loss of a record (R149, R240). The slot becomes free, its
extension and tiles are released, its wait is withdrawn, its recording abandoned, its commands discarded; it counts as a
STEP arrival when enrolled and not arrived, and as a death of its chunk. -/
def State.endProc (s : State) (k : Slot) : State :=
  let p := s.proc k
  let c := coreOf k
  let s1 := (((s.withdraw k).unchooseAll k).unlist k).discard k fun _ => true
  let s2 := match (s1.core c).recording with
    | some r =>
      if r.owner = k then s1.abandonRec c 1 else s1
    | none => s1
  let s3 := s2.replayLeave k
  let freed := fun (f : FaultEntry) => { f with waiters := f.waiters.filter fun w => w.slot ≠ k }
  let freeAll := fun (x : Base) =>
    { x with faults := x.faults.map fun (i, f) => (i, freed f)
             waiting := x.waiting.filter fun (_, _, _, _, _, w) => w.slot ≠ k }
  let s4 : State :=
    { s3 with armed := s3.armed.filter fun a => a.2 ≠ k, barriers := s3.barriers.filter fun a => a.2 ≠ k,
              bases := s3.bases.map fun (b, x) => (b, freeAll x) }
  let s5 := s4.setProc k Proc.empty
  let s6 := if p.enrolled && p.arrivedIn ≠ some (s.pkg (pkgOf c)).openStep then (s5.sink c).arrival (pkgOf c) else s5
  let s7 := if p.chv then
      (s6.modCore c fun x => { x with owed := x.owed ++ [(k, p.chunkHome, p.chidx.toNat, p.job)] }).payOwed c
    else s6
  if p.light then s7.callRefused c else s7

/-- The kill of a process by its supervisor, a cancellation or an audit (R149, R311, R328, R333). -/
def State.killProc (s : State) (k : Slot) : State := s.endProc k

end Sys2Proof.Machine
end

