-- ==== Sys2Proof/Machine/Sync.lean ====
section
/-! DEFINITION. Barriers (R233 to R235), STEP and STEPN (R202, R236), DEPDEC (R313). -/

namespace Sys2Proof.Machine

/-! ## Barriers -/

/-- Words 0 and 1 of a barrier object. -/
structure BarrierWords where
  expect : Nat
  arrived : Nat
  phase : Nat
  pending : Nat
  deriving DecidableEq, Repr

/-- The barrier object at a location (R233). -/
def State.barrierAt (s : State) (loc : Nat) : BarrierWords :=
  let w0 : Word := BitVec.ofNat 64 (leVal (s.mem.read loc 8))
  let w1 : Word := BitVec.ofNat 64 (leVal (s.mem.read (loc + 8) 8))
  { expect := bits w0 15 0, arrived := bits w0 31 16, phase := bits w0 32 32, pending := bits w1 39 0 }

/-- Rewrites word 0, its reserved bits as zero (R233). -/
def State.putWord0 (s : State) (c : CoreId) (loc : Nat) (b : BarrierWords) : State :=
  s.writeAt none (some c) loc (leBytes (b.expect % 2 ^ 16 + b.arrived % 2 ^ 16 * 2 ^ 16 + b.phase % 2 * 2 ^ 32) 8) none

/-- Rewrites word 1 (R233). -/
def State.putWord1 (s : State) (c : CoreId) (loc : Nat) (b : BarrierWords) : State :=
  s.writeAt none (some c) (loc + 8) (leBytes (b.pending % 2 ^ 40) 8) none

/-- The evaluation after BARA, BARX or a credit (R234): the flip wakes every waiter of the barrier. -/
def State.evaluate (s : State) (c : CoreId) (loc : Nat) : State :=
  let b := s.barrierAt loc
  if b.arrived ≥ b.expect && b.pending = 0 then
    let s1 := s.putWord0 c loc { b with phase := 1 - b.phase, arrived := 0 }
    let ws := s1.barriers.filter fun x => x.1 = loc
    State.wakeAll { s1 with barriers := s1.barriers.filter fun x => x.1 ≠ loc } (ws.map fun x => x.2)
  else s

/-- A barrier member: located, its drain made, then performed at the bank after every earlier store of the process
(R235); one that writes counts as a store for the FENCE bits and waits for their marks (R179). -/
def State.barrier (s : State) (ea : Word) (d : Drain) (rel : Bool) (f : Nat → State → State) : State :=
  s.locateAll .bar 32 [(ea, 32)] [] (fun accs t =>
    match (accs.headD { ea := ea, n := 32, spot := .mem 0 none }).spot with
    | .mem loc _ =>
      let go := fun (t : State) => t.afterDrain d fun t =>
        let (_, bad, u) := (t.settle t.here (homesOf loc 16)).readAt loc 16 none
        if bad then (u.stopWaiters (loc / 8)).trap 0x08 [ea, 0] else f loc u
      if rel then t.afterDrain .package go else go t
    | _ => s.trap 0x05 [ea]) s

/-- BARI (R235). -/
def execBari (a b : Reg) (s : State) : Out :=
  let sh : Shape := { srcs := [a, b] }
  .next (s.issue sh fun vals s =>
    s.barrier (op vals 0) .stores false fun loc u =>
      if (op vals 1).toNat > 65535 then s.trap 0x05 [op vals 0, op vals 1]
      else
        let o := u.barrierAt loc
        let n : BarrierWords := { expect := (op vals 1).toNat, arrived := 0, phase := o.phase, pending := 0 }
        ((u.putWord0 u.here loc n).putWord1 u.here loc n).done sh)

/-- BARA (R184, R234, R235). -/
def execBara (d a : Reg) (s : State) : Out :=
  let sh : Shape := { srcs := [a], dst := some d }
  .next (s.issue sh fun vals s =>
    s.barrier (op vals 0) .stores true fun loc u =>
      let o := u.barrierAt loc
      ((u.putWord0 u.here loc { o with arrived := o.arrived + 1 }).evaluate u.here loc).doneWith sh
        (BitVec.ofNat 64 o.phase))

/-- BARX (R234, R235). -/
def execBarx (a b : Reg) (s : State) : Out :=
  let sh : Shape := { srcs := [a, b] }
  .next (s.issue sh fun vals s =>
    s.barrier (op vals 0) .stores false fun loc u =>
      let o := u.barrierAt loc
      ((u.putWord1 u.here loc { o with pending := o.pending + (op vals 1).toNat }).evaluate u.here loc).done sh)

/-- BARW (R184, R235): parks while PHASE = g[b][0]. -/
def execBarw (a b : Reg) (s : State) : Out :=
  let sh : Shape := { srcs := [a, b] }
  .next (s.issue sh fun vals s =>
    if s.cur.resumed then s.done sh
    else
      s.barrier (op vals 0) .corePoint false fun loc u =>
        if (u.barrierAt loc).phase = bits (op vals 1) 0 0 then
          ({ u with barriers := u.barriers ++ [(loc, u.self)] } : State).parkAfter 6 (.barrier loc) vals none
        else u.done sh)

/-- A copy's credit: the bank subtracts n from the pending bytes and evaluates; a credit to a poisoned barrier is
discarded (R161, R234, R235). -/
def State.credit (s : State) (c : CoreId) (loc n : Nat) : State :=
  let (_, bad, u) := (s.settle c (homesOf loc 16)).readAt loc 16 none
  if bad then u.stopWaiters (loc / 8)
  else
    let o := u.barrierAt loc
    (u.putWord1 c loc { o with pending := o.pending + 2 ^ 40 - n % 2 ^ 40 }).evaluate c loc

/-! ## STEP and STEPN (R202, R236) -/

/-- STEP: drains at the podstep class, arrives, and parks until the package releases the step it arrived in. -/
def execStep (d : Reg) (s : State) : Out :=
  let sh : Shape := { dst := some d }
  .next (s.issue sh fun _ s =>
    if s.cur.resumed then s.doneWith sh s.cur.answer
    else
      s.afterDrain .podstep fun s =>
        let p := pkgOf s.here
        if !s.podFormed then
          let t := { s with cur := { s.cur with enrolled := true, arrivedIn := none } }
          t.parkAfter 7 .pod [] none
        else
          let t := { s with cur := { s.cur with enrolled := true, arrivedIn := some (s.pkg p).openStep } }
          ((t.sink t.here).parkAfter 7 .step [] none).arrival p)

/-- STEPN: drains likewise, arrives when enrolled, and goes on as a passive process. -/
def execStepn (d : Reg) (s : State) : Out :=
  let sh : Shape := { dst := some d }
  .next (s.issue sh fun _ s =>
    s.afterDrain .podstep fun s =>
      let p := pkgOf s.here
      let v := (s.pkg p).stepno
      let t := (({ s with cur := { s.cur with enrolled := false } } : State).doneWith sh v)
      if s.cur.enrolled then (t.sink s.here).arrival p else t)

/-! ## DEPDEC (R313, R324) -/

/-- Whether a launch identity names a launch (R320). -/
def Launch.dev (l : Launch) : Bool := l.id.getLsbD 15

/-- The master's launches changed, and the mirror with them (R329). -/
def State.setLaunches (s : State) (p : Nat) (f : List Launch → List Launch) : State :=
  s.modPkg p fun x => { x with launches := f x.launches, mirror := f x.launches }

/-- The dependence count of a pending launch goes down by one (R313). -/
def State.depDown (s : State) (p : Nat) (id : Word) : State :=
  s.setLaunches p fun ls => ls.map fun l => if l.id = id then { l with deps := l.deps - 1 } else l

/-- DEPUNDER recorded in a host queue (R313, R321). -/
def State.depUnder (s : State) (p q : Nat) (id : Word) : State :=
  s.modPkg p fun x =>
    let hq := x.queues.get q HostQueue.atReset
    { x with queues := x.queues.put q { hq with depunder := true, depser := BitVec.ofNat 32 (bits id 47 16) } }

/-- DEPDEC (R313): a release at PACKAGE scope. -/
def execDepdec (d a : Reg) (s : State) : Out :=
  let sh : Shape := { srcs := [a], dst := some d }
  .next (s.issue sh fun vals s =>
    let id := op vals 0
    let p := pkgOf s.here
    match (s.pkg p).launches.find? fun l => l.id = id && l.domain = s.cur.domain.toNat with
    | none => s.trap 0x05 [id]
    | some l =>
      s.afterDrain .package fun s =>
        if l.deps > 0 then (s.depDown p id).doneWith sh 1
        else if l.dev then s.doneWith sh 0
        else (s.depUnder p (bits id 14 0) id).doneWith sh 0)

end Sys2Proof.Machine
end

