-- ==== Sys2Proof/Machine/Tape.lean ====
section
/-! DEFINITION. The almanac store and recording (R266 to R273). -/

namespace Sys2Proof.Machine

/-- Segments of 32 entries that a number of entries takes (R272). -/
def segmentsOf (n : Nat) : Nat := (n + 31) / 32

/-- Segments in use in a cluster. -/
def Cluster.segments (x : Cluster) : Nat := x.tapes.foldl (fun n t => n + segmentsOf t.2.entries) 0

/-- The lowest free directory index (R274). -/
def Cluster.freeIndex (x : Cluster) : Option Nat := (upTo 64).find? fun i => (Map.find? x.tapes i).isNone

/-- The tape an eviction takes: neither recording nor replayed, with the oldest last use (R273). -/
def Cluster.victim (x : Cluster) : Option Nat :=
  (x.tapes.foldl (fun (b : Option (Nat × Tape)) (e : Nat × Tape) =>
    if e.2.state = 1 || e.2.active > 0 then b
    else match b with
      | none => some e
      | some f => if e.2.lastUse < f.2.lastUse then some e else some f) none).map (·.1)

/-- Evicts tapes until the test holds; none when nothing more can be evicted (R273). -/
def Cluster.evictUntil (ok : Cluster → Bool) : Nat → Cluster → Option Cluster
  | 0, x => if ok x then some x else none
  | n + 1, x =>
    if ok x then some x
    else match x.victim with
      | none => none
      | some i => Cluster.evictUntil ok n { x with tapes := x.tapes.del i }

/-- The open recording of the current process and its tape. -/
def State.openTape (s : State) : Option (Nat × Tape) :=
  match (s.core s.here).recording with
  | some r =>
    if r.owner = s.self then ((s.cluster (clusterOf s.here)).tapes.find? r.index).map fun t => (r.index, t) else none
  | none => none

/-- Replaces the recording's tape, which may need one segment more: without space it is abandoned as FULL (R269,
R273). -/
def State.putTape (s : State) (i : Nat) (t : Tape) : State :=
  let cl := clusterOf s.here
  let x := s.cluster cl
  let y := { x with tapes := x.tapes.put i t }
  match Cluster.evictUntil (fun z => z.segments ≤ 455) 64 y with
  | some z => { s with clusters := s.clusters.put cl z }
  | none => s.abandonRec s.here 2

/-- The lowest-numbered declared slot whose range contains an address, or 0 (R267). -/
def slotTag (slots : Map (Nat × Nat)) (a : Nat) : Nat :=
  match List.find? (fun (e : Nat × (Nat × Nat)) => e.2.1 ≤ a && a < e.2.1 + e.2.2) slots with
  | some e => e.1
  | none => 0

/-- A tape entry of a kind and its argument (R270). -/
def tapeEntry (kind arg : Nat) (w : BitVec 256) : TEntry := { word := w, tag := BitVec.ofNat 16 (kind * 2 ^ 12 + arg) }

/-- Appends an entry to the body of the current process's open recording (R266). -/
def State.record (s : State) (e : Tape → TEntry) : State :=
  match s.openTape with
  | none => s
  | some (i, t) => s.putTape i { t with body := t.body ++ [e t], entries := t.entries + 1 }

/-- The command fields of R70. -/
def cOp (w : BitVec 256) : Nat := bits w 7 0
def cTile (w : BitVec 256) : Nat := bits w 10 8
def cFmtA (w : BitVec 256) : Nat := bits w 15 11
def cFmtB (w : BitVec 256) : Nat := bits w 20 16
def cFmtOut (w : BitVec 256) : Nat := bits w 25 21
def cRnd (w : BitVec 256) : Rm := Rm.ofCode (bits w 27 26)
def cSat (w : BitVec 256) : Bool := w.getLsbD 28
def cTb (w : BitVec 256) : Bool := w.getLsbD 29
def cSp (w : BitVec 256) : Nat := bits w 31 30
def cK (w : BitVec 256) : Nat := bits w 47 32
def cSta (w : BitVec 256) : Nat := bits w 63 48
def cAddrA (w : BitVec 256) : Nat := bits w 119 64
def cStb (w : BitVec 256) : Nat := bits w 135 120
def cAddrB (w : BitVec 256) : Nat := bits w 191 136
def cAddrS (w : BitVec 256) : Nat := bits w 247 192
def cSlay (w : BitVec 256) : Nat := bits w 255 248

/-- Whether a command goes to the copy queue (R71, R146). -/
def isCopy (w : BitVec 256) : Bool := cOp w ≥ 0x40

/-- The tiles a command names (R147), in increasing order: TIS checks them so, and PROT names the lowest one that another
process holds (DESIGN CHOICE, log 126). -/
def namedTiles (w : BitVec 256) : List Nat :=
  if isCopy w || cOp w = 0 then []
  else if cOp w = 8 then (upTo 8).filter fun i => i = cTile w || i = cSlay w % 8
  else [cTile w]

/-- The entry of a recorded command: its address fields tagged with their slots (R267, R270). -/
def commandEntry (w : BitVec 256) (t : Tape) : TEntry :=
  tapeEntry (if isCopy w then 4 else 0)
    (slotTag t.slots (cAddrA w) + slotTag t.slots (cAddrB w) * 16 + slotTag t.slots (cAddrS w) * 256) w

/-- The tiles named by the recorded tile commands: TILES of the descriptor (R271). -/
def Tape.tiles (t : Tape) : List Nat :=
  (upTo 8).filter fun i => t.body.any fun e => bits e.tag 15 12 = 0 && (namedTiles e.word).contains i

/-- The entries of a tape in order (R270, R271): the descriptor, the slot headers, the body and the end entry. -/
def Tape.listing (t : Tape) : List TEntry :=
  let mask := fun (l : List Nat) => l.foldl (fun n i => n + 2 ^ i) 0
  let count := fun (f : Nat → Bool) => (t.body.filter fun e => f (bits e.tag 15 12)).length
  let d := t.id.toNat + t.domain * 2 ^ 32 + t.core % 2048 * 2 ^ 44 + t.pbase * 2 ^ 64 + t.pcount * 2 ^ 78 +
    mask (t.slots.map fun x => x.1 - 1) * 2 ^ 96 + t.guards * 2 ^ 112 + mask t.tiles * 2 ^ 120 +
    count (fun k => k = 0 || k = 4) * 2 ^ 128 + count (fun k => k = 3) * 2 ^ 160
  tapeEntry 2 0 (BitVec.ofNat 256 d) ::
    (t.slots.map fun x => tapeEntry 2 x.1 (BitVec.ofNat 256 (x.2.1 + x.2.2 * 2 ^ 64))) ++ t.body ++
    [tapeEntry 15 0 (BitVec.ofNat 256 (t.id.toNat + t.entries * 2 ^ 32))]

end Sys2Proof.Machine
end

