-- ==== Sys2Proof/Machine/TileIssue.lean ====
section
/-! DEFINITION. Issuing engine commands: TIS (R147), TWAIT (R165), TSTAT (R166). -/

namespace Sys2Proof.Machine

/-- Whether OP is in the table of R71. -/
def knownOp (o : Nat) : Bool := o ≤ 8 || (0x40 ≤ o && o ≤ 0x42)

/-- Whether a format field the command uses holds a reserved code (R71, R151). -/
def reservedFormat (w : BitVec 256) : Bool :=
  match cOp w with
  | 2 => cFmtA w ≥ 17 || cFmtB w ≥ 17
  | 3 => cFmtA w ≥ 17 || cFmtB w ≥ 17
  | 4 => cFmtA w ≥ 17
  | 5 => cFmtOut w ≥ 17
  | 7 => cFmtOut w ≥ 17
  | _ => false

/-- The command with its three addresses patched (R70). -/
def patch (w : BitVec 256) (a b c : Nat) : BitVec 256 :=
  setBits (setBits (setBits w 119 64 ((cAddrA w + a) % 2 ^ 56)) 191 136 ((cAddrB w + b) % 2 ^ 56)) 247 192
    ((cAddrS w + c) % 2 ^ 56)

/-- The next tag of a queue (R146): from the candidate upward with wrap, the first no in-flight command holds. With every
tag held, TSTAT reads the candidate (R166; DESIGN CHOICE, log 129). -/
def nextTag (q : List Cmd) (cand : Nat) : Nat :=
  (((upTo 16).map fun i => (cand + i) % 16).find? fun t => !q.any fun c => c.tag = t).getD (cand % 16)

/-- Whether another live process on the core holds a tile (R26). -/
def State.tileTaken (s : State) (k : Slot) (i : Nat) : Bool :=
  (s.liveOn (coreOf k)).any fun j => j ≠ k && (s.proc j).tileown.getLsbD i

/-- A process takes tiles (R26). -/
def Proc.takeTiles (p : Proc) (ts : List Nat) : Proc :=
  { p with tileown := ts.foldl (fun m i => m ||| 1#8 <<< i) p.tileown }

/-- Appends a command of process `k` to its queue: it draws the next tag (R146, R148). -/
def State.queueCmd (s : State) (k : Slot) (w : BitVec 256) (idx : Nat) (rep : Option (Nat × Nat × IWord))
    (tape : BitVec 32) (play : Nat) : State :=
  let c := coreOf k
  let x := s.core c
  let p := s.proc k
  let copy := isCopy w
  let tag := if copy then nextTag x.copyQ x.copyTag else nextTag x.tileQ x.tileTag
  let after := if !copy && cSlay w ≥ 128 then (x.copyQ.filter fun q => q.owner = k && q.pid = p.pid).map Cmd.tag else []
  let cmd : Cmd := { word := w, tag := tag, owner := k, pid := p.pid, domain := p.domain.toNat, rank := p.rank.toNat,
                     index := idx, seq := x.storeSeq, afterCopies := after, units := 0, faulted := false,
                     pending := [], lutCopy := none, before := [], draw := 0,
                     replayed := rep, tape := tape, play := play }
  s.modCore c fun x =>
    if copy then { x with copyQ := x.copyQ ++ [cmd], copyTag := (tag + 1) % 16 }
    else { x with tileQ := x.tileQ ++ [cmd], tileTag := (tag + 1) % 16 }

/-- The end of TIS, once its command is checked and patched (R147): room, ownership, the queue. -/
def State.tisQueue (s : State) (sh : Shape) (w : BitVec 256) (idx : Nat) : State :=
  let x := s.core s.here
  let q := if isCopy w then x.copyQ else x.tileQ
  if q.length ≥ 16 then
    s.parkAfter 5 (.room (isCopy w))
      [w.extractLsb' 0 64, w.extractLsb' 64 64, w.extractLsb' 128 64, w.extractLsb' 192 64] none
  else
    match (namedTiles w).find? (s.tileTaken s.self) with
    | some i => s.trap 0x05 [BitVec.ofNat 64 i]
    | none =>
      let t := { s with cur := s.cur.takeTiles (namedTiles w) }
      ((t.queueCmd t.self w idx none 0 0).record (commandEntry w)).done sh

/-- TIS (R147): the template is read once; after a wait for room the patched command goes on from there. -/
def execTis (d a b : Reg) (i : BitVec 11) (s : State) : Out :=
  let sh : Shape := { srcs := [a, b, d], full := true }
  let idx := i.toNat
  .next (s.issue sh fun vals s =>
    if s.cur.resumed then
      s.tisQueue sh (op vals 3 ++ op vals 2 ++ op vals 1 ++ op vals 0) idx
    else if idx ≥ bits s.cur.pool 31 20 then s.trap 0x05 [BitVec.ofNat 64 idx]
    else
      let pa := 32 * bits s.cur.pool 18 5 + 32 * idx
      let at_ : Word := BitVec.ofNat 64 (0x00C0000000000000 + pa)
      let accs := (upTo 4).map fun j =>
        ({ ea := at_, n := 8, spot := .mem (locSpad s.here (pa + 8 * j)) none } : Acc)
      State.loadAll (fun _ => at_) accs [] [] (fun got t =>
        let w : BitVec 256 := BitVec.ofNat 256 (leVal got.flatten)
        let bad : Word := BitVec.ofNat 64 (3 * 2 ^ 11 + idx)
        if !knownOp (cOp w) then s.trap 0x01 [bad]
        else if cSp w ≠ 0 && cOp w ≠ 3 then s.trap 0x01 [bad]
        else if reservedFormat w then s.trap 0x04 [BitVec.ofNat 64 idx]
        else t.tisQueue sh (patch w (bits (op vals 2) 55 0) (bits (op vals 0) 55 0) (bits (op vals 1) 55 0)) idx) s)

/-- Whether TWAIT has nothing left to wait for (R165). -/
def State.waited (s : State) (mask : BitVec 8) : Bool :=
  let own := s.commandsOf s.self
  if mask = 0 then own.isEmpty
  else !own.any fun c => (namedTiles c.word).any fun i => mask.getLsbD i

/-- TWAIT (R165): under recording it becomes a wait mark. -/
def execTwait (m : BitVec 8) (s : State) : Out :=
  let sh : Shape := { full := true }
  .next (s.issue sh fun _ s =>
    if s.waited m then (s.record fun _ => tapeEntry 3 0 (m.zeroExtend 256)).done sh
    else s.park 5 .engines .fresh none)

/-- TSTAT (R166): the process's view of both queues. -/
def State.tstat (s : State) : Word :=
  let x := s.core s.here
  let mine := fun (q : List Cmd) => q.filter fun c => c.owner = s.self && c.pid = s.cur.pid
  let own := s.commandsOf s.self
  let busy := (upTo 8).foldl (fun n i => if own.any fun c => (namedTiles c.word).contains i then n + 2 ^ i else n) 0
  BitVec.ofNat 64 ((mine x.tileQ).length + (mine x.copyQ).length * 2 ^ 5 + busy * 2 ^ 10 +
    (own.any Cmd.faulted).toNat * 2 ^ 18 + nextTag x.tileQ x.tileTag * 2 ^ 20 + nextTag x.copyQ x.copyTag * 2 ^ 24)

/-- TSTAT (R166). -/
def execTstat (d : Reg) (s : State) : Out :=
  let sh : Shape := { dst := some d, full := true }
  .next (s.issue sh fun _ s => s.doneWith sh s.tstat)

end Sys2Proof.Machine
end

