-- ==== Sys2Proof/Machine/Engine.lean ====
section
/-! DEFINITION. The engines: which command runs next (R148, R162), its memory accesses (R150, R154), and how it ends:
complete (R146), stopped on a fault (R162), or with an engine error (R163, R164, R280). -/

namespace Sys2Proof.Machine

/-- What a part of a command comes to. -/
inductive Eng (α : Type) where
  | ok (a : α) (s : State)
  | err (cause : Nat) (word : Word)
  | miss (va : Word) (level : Nat) (malformed : Bool) (writes : Bool)
  /-- A load of a STEP page whose home is applying a calends: the command waits (R195). -/
  | held

/-- Goes on with the value of a part that came to one. -/
def Eng.bind {α β : Type} (r : Eng α) (f : α → State → Eng β) : Eng β :=
  match r with
  | .ok a s => f a s
  | .err c w => .err c w
  | .miss v l m w => .miss v l m w
  | .held => .held

/-- The pieces of `n` bytes from an address that lie in one 64-byte line each; `fuel` bounds their number. -/
def linesOf (a : Nat) : Nat → Nat → List (Nat × Nat)
  | 0, _ => []
  | fuel + 1, n =>
    if n = 0 then []
    else
      let k := min n (64 - a % 64)
      (a % 2 ^ 56, k) :: linesOf (a + k) fuel (n - k)

/-- The pieces of a range. -/
def pieces (a n : Nat) : List (Nat × Nat) := linesOf a (n / 64 + 2) n

/-- Locates one piece for a command (R150): Classify in the issuing process's domain, then R35, from which a copy is never
exempt (R160). The faulting address of R164 is that of the first byte of the piece that fails (DESIGN CHOICE, log 128). -/
def State.engLocate (s : State) (c : CoreId) (q : Cmd) (a n : Nat) (need : Need) : Eng Spot :=
  let va : Word := BitVec.ofNat 64 a
  match s.classify c q.domain ((s.proc q.owner).supv && !isCopy q.word) va n need with
  | (.ok sp, t) => .ok sp t
  | (.trap cause ds, _) => .err cause (ds.headD va)
  | (.miss v l m, _) => .miss v l m need.writes

/-- Reads one located piece: its bytes and whether each is poisoned (R154). The data of a HOST or IO page comes from
behind a port, to which a read request goes, and is a free value (log 9). -/
def State.engFetch (s : State) (c : CoreId) (sp : Spot) (n : Nat) : Eng (List (Byte × Bool)) :=
  let mark := fun (loc : Nat) (bs : List Byte) (t : State) =>
    (bs.zip (upTo n)).map fun (b, i) => (b, natMem t.poison ((loc + i) / 8))
  match sp with
  | .mem loc key => let (bs, _, t) := s.coreRead c loc n key; .ok (mark loc bs t) t
  | .step loc _ key =>
    if (s.pkg (pkgOfLoc loc)).applying then .held
    else let t := s.settleStep c loc; .ok (mark loc (t.viewAt (pkgOf c) loc n key).1 t) t
  | .atomic loc key => let (bs, _, t) := s.readAt loc n (some key); .ok (mark loc bs t) t
  | .port pt addr _ =>
    let t := (s.settlePort c pt).request (pkgOf c) pt (.read addr n)
    let key := portKey (pkgOf c) pt
    let bs := leBytes ((upTo 8).foldl (fun v i => v + (Config.freeWord (s.draws + i)).toNat * 2 ^ (64 * i)) 0) n
    .ok (bs.map fun b => (b, false)) (State.flushPort { t with draws := t.draws + 8 } key (t.postedOn key))

/-- Reads pieces in order. -/
def State.engReadPieces (c : CoreId) (q : Cmd) : List (Nat × Nat) → List (List (Byte × Bool)) → State →
    Eng (List (Byte × Bool))
  | [], got, s => .ok got.reverse.flatten s
  | (a, n) :: r, got, s =>
    (s.engLocate c q a n .read).bind fun sp t =>
      (t.engFetch c sp n).bind fun bs u => State.engReadPieces c q r (bs :: got) u

/-- Reads a range for a command. -/
def State.engRead (s : State) (c : CoreId) (q : Cmd) (a n : Nat) : Eng (List (Byte × Bool)) :=
  State.engReadPieces c q (pieces a n) [] s

/-- The write of some bytes at a place a command may write: engines never write STEP or ATOMIC pages (R196, R209). -/
def ewriteOf (sp : Spot) (va : Nat) (bs : List (Byte × Bool)) : Option EWrite :=
  match sp with
  | .mem loc key => some { target := .mem loc, key := key, bytes := bs, va := BitVec.ofNat 64 va }
  | .port pt addr io => some { target := .port pt addr io, key := none, bytes := bs, va := BitVec.ofNat 64 va }
  | _ => none

/-- Bytes cut at the boundaries of aligned granules: the offset of each part and its bytes (R171); `fuel` bounds their
number. -/
def cutBytes (a : Nat) : Nat → Nat → List (Byte × Bool) → List (Nat × List (Byte × Bool))
  | 0, _, _ => []
  | fuel + 1, k, bs =>
    match bs with
    | [] => []
    | _ =>
      let n := 8 - (a + k) % 8
      (k, bs.take n) :: cutBytes a fuel (k + n) (bs.drop n)

/-- The granule writes of a piece at a place and an address. -/
def ewritesOf (sp : Spot) (va : Nat) (bs : List (Byte × Bool)) : List EWrite :=
  (cutBytes sp.base (bs.length + 1) 0 bs).filterMap fun x => ewriteOf (sp.shift x.1) (va + x.1) x.2

/-- Locates the pieces of a destination and lays its bytes over them, a granule at a time. -/
def State.engTargets (c : CoreId) (q : Cmd) : List (Nat × Nat) → List (Byte × Bool) → List EWrite → State →
    Eng (List EWrite)
  | [], _, acc, s => .ok acc s
  | (a, n) :: r, bs, acc, s =>
    (s.engLocate c q a n .write).bind fun sp t =>
      match sp with
      | .step _ _ _ => .err 0x05 (BitVec.ofNat 64 a)
      | .atomic _ _ => .err 0x05 (BitVec.ofNat 64 a)
      | _ => State.engTargets c q r (bs.drop n) (acc ++ ewritesOf sp a (bs.take n)) t

/-- Performs one granule write of a command; a granule that receives a poisoned byte is poisoned (R154). A write to a host
port goes behind the core's earlier stores to it (R174, R182, R187). -/
def State.engPut (s : State) (c : CoreId) (q : Cmd) (w : EWrite) : State :=
  match w.target with
  | .mem loc =>
    let t := s.coreWrite c loc (w.bytes.map (·.1)) w.key
    (w.bytes.zip (upTo w.bytes.length)).foldl (fun (t : State) x => if x.1.2 then t.poisonAt (loc + x.2) else t) t
  | .port pt addr io => (s.settlePort c pt).postFor q.owner q.pid (pkgOf c) pt [(addr, w.bytes.map (·.1))] io
  | .step _ _ _ _ => s

/-- Performs granule writes of a command, in order. -/
def State.engPutAll (s : State) (c : CoreId) (q : Cmd) (ws : List EWrite) : State :=
  ws.foldl (fun (t : State) w => t.engPut c q w) s

/-- The writes of one restart unit: every destination is located before any byte is written (R162). -/
def State.engWrite (s : State) (c : CoreId) (q : Cmd) (ws : List (Nat × List (Byte × Bool))) : Eng (List EWrite) :=
  State.engTargets c q (ws.flatMap fun w => pieces w.1 w.2.length) (ws.flatMap (·.2)) [] s

/-- A restart unit of a command: what it does to the accumulators, and the memory writes that end it (R162). -/
abbrev Units := Nat → State → Eng (List EWrite)

/-- Runs the restart units from `i` on; the state at the boundary of the unit that stopped is kept (R162). -/
def runUnits (c : CoreId) (q : Cmd) (f : Units) : Nat → Nat → State → State × Nat × Option (Eng (List EWrite))
  | 0, i, s => (s, i, none)
  | n + 1, i, s =>
    match f i s with
    | .ok ws t => runUnits c q f n (i + 1) (t.engPutAll c q ws)
    | r => (s, i, some r)

/-! ## Which command runs -/

/-- Whether two commands are of one process. -/
def Cmd.sameProcess (a b : Cmd) : Bool := a.owner = b.owner && a.pid = b.pid

/-- Whether a command lets a later one pass (R162): it is stopped on a fault or waits behind one that is, in its own
process, it is of another process, and it names none of the later one's tiles. -/
def Cmd.letsPass (e : Cmd) (earlier : List Cmd) (q : Cmd) : Bool :=
  (earlier.any fun x => x.faulted && x.sameProcess e) && !e.sameProcess q &&
    !(namedTiles e.word).any fun t => (namedTiles q.word).contains t

/-- Whether a command of a queue may run now (R148, R162, R173): it may pass the earlier commands; the copies it waits for
are done; the stores before its TIS have passed. -/
def State.mayRun (s : State) (c : CoreId) (earlier : List Cmd) (q : Cmd) : Bool :=
  !q.faulted && q.afterCopies.isEmpty && (earlier.all fun e => e.letsPass earlier q) &&
    !(s.core c).storeQ.any fun e => e.owner = q.owner && e.pid = q.pid && !e.passed && e.seq < q.seq &&
      e.target.isSome

/-- The first command of a queue that may run. -/
def State.firstOf (s : State) (c : CoreId) : List Cmd → List Cmd → Option Cmd
  | _, [] => none
  | earlier, q :: r => if s.mayRun c earlier q then some q else s.firstOf c (earlier ++ [q]) r

def State.nextTile (s : State) (c : CoreId) : Option Cmd := s.firstOf c [] (s.core c).tileQ

def State.nextCopy (s : State) (c : CoreId) : Option Cmd := s.firstOf c [] (s.core c).copyQ

/-! ## How a command ends -/

/-- Whether two commands are the same one. -/
def Cmd.same (a b : Cmd) : Bool := a.tag = b.tag && isCopy a.word = isCopy b.word

/-- A command leaves its queue complete (R146): its tag is free, and what waits for it looks again. -/
def State.complete (s : State) (c : CoreId) (q : Cmd) : State :=
  let done := fun (x : Cmd) => if isCopy q.word then { x with afterCopies := natErase x.afterCopies q.tag } else x
  (s.modCore c fun x => { x with
    tileQ := (x.tileQ.filter fun e => !e.same q).map done
    copyQ := x.copyQ.filter fun e => !e.same q }).engineMoved c

/-- A command as its queue holds it, changed. -/
def State.modCmd (s : State) (c : CoreId) (q : Cmd) (f : Cmd → Cmd) : State :=
  let g := fun (x : Cmd) => if x.same q then f x else x
  s.modCore c fun x => { x with tileQ := x.tileQ.map g, copyQ := x.copyQ.map g }

/-- ROWPROG for a command (R38, R162). -/
def rowprogOf (units : Nat) (q : Cmd) (valid : Bool) : Word :=
  BitVec.ofNat 64 (units % 2 ^ 16 + q.tag * 2 ^ 16 + cTile q.word * 2 ^ 20 + valid.toNat * 2 ^ 23)

/-- A command stops on a missing translation (R162): the fault is queued with the issuing process as the waiter;
ROWPROG and WAITK 9 follow at once when the process is parked or stopped, else at its next boundary. -/
def State.engineFault (s : State) (c : CoreId) (q : Cmd) (units : Nat) (va : Word) (level : Nat) (bad writes : Bool) :
    State :=
  let s1 := s.modCmd c q fun x => { x with units := units, faulted := true }
  let w : FaultWaiter := { slot := q.owner, pid := q.pid, va := va, engine := true, copy := isCopy q.word }
  let s2 := s1.addFault c q.domain va level bad writes false w
  let copy := isCopy q.word
  let row := rowprogOf units q true
  s2.modProc q.owner fun p =>
    if p.pid ≠ q.pid then p
    else if p.state = .parked then { p with waitk := 9, rowprog := if copy then p.rowprog else row }
    else { p with engineFault := p.engineFault ++ [(copy, row)] }

/-- ROWPROG of a process that parks for the engine faults that wait for its boundary (R162). -/
def Proc.faultRow (p : Proc) : Word :=
  p.engineFault.foldl (fun r f => if f.1 then r else f.2) p.rowprog

/-- The detail words of R164. -/
def engineWords (q : Cmd) (units : Nat) (word : Word) : List Word :=
  [word, BitVec.ofNat 64 (q.tag + (isCopy q.word).toNat * 2 ^ 4 + q.index * 2 ^ 16), BitVec.ofNat 64 units, 0]

/-- The detail words of a REPLAYFAULT (R280). -/
def replayWords (tape : BitVec 32) (entry index cause tag : Nat) (copy : Bool) (word : Word) : List Word :=
  [BitVec.ofNat 64 (tape.toNat + index * 2 ^ 32), BitVec.ofNat 64 entry,
    BitVec.ofNat 64 (cause + tag * 2 ^ 8 + copy.toNat * 2 ^ 12), word]

/-- ROWPROG with VALID clear. -/
def rowInvalid (w : Word) : Word := w &&& ~~~(1#64 <<< 23)

/-- The sources of the ALMPLAY a process stands in take their words from their ports: its replay ends behind it (R69,
R280). -/
def State.popAlmplay (s : State) (k : Slot) : State :=
  match (s.proc k).inflight with
  | some (.almplay _ a b, _) => ((s.focus k).takePorts [a, b]).focus s.self
  | _ => s

/-- Stops a process with an engine error that reached it (R163); REPLAYFAULT leaves ROWPROG.VALID clear (R378). Faults of
its commands still in a queue keep waiting for its boundary. -/
def State.engineStop (s : State) (k : Slot) (e : EngineStop) : State :=
  let still := fun (f : Bool × Word) => (s.commandsOf k).any fun c => c.faulted && isCopy c.word == f.1
  (s.modProc k fun p =>
    let row := e.rowprog.getD p.rowprog
    { p with rowprog := if e.cause = 0x14 then rowInvalid row else row, engineErr := none,
             engineFault := p.engineFault.filter still }).stopProc k e.kind e.cause e.word e.details

/-- The commands that an engine error of `q` discards: it and the later ones of its process in its queue (R163). -/
def laterOf (q : Cmd) : List Cmd → Bool → List Cmd
  | [], _ => []
  | e :: r, seen =>
    if e.same q then laterOf q r true
    else if seen && e.owner = q.owner && e.pid = q.pid then laterOf q r seen
    else e :: laterOf q r seen

/-- An engine error (R163, R280): the commands are discarded; a parked process stops at once, any other at its next
boundary. In a replayed command the replay ends and the process stops with REPLAYFAULT at the instruction after
ALMPLAY. A second error of the process before that boundary discards commands and is not reported (log 107). -/
def State.engineError (s : State) (c : CoreId) (q : Cmd) (units cause : Nat) (word : Word) : State :=
  let s1 := s.modCore c fun x =>
    if isCopy q.word then
      { x with copyQ := laterOf q x.copyQ false,
               tileQ := x.tileQ.map fun e =>
                 if e.owner = q.owner && e.pid = q.pid then
                   { e with afterCopies := e.afterCopies.filter fun t => (laterOf q x.copyQ false).any fun y => y.tag = t }
                 else e }
    else { x with tileQ := laterOf q x.tileQ false }
  let row := if isCopy q.word then none else some (rowprogOf units q false)
  let p := s.proc q.owner
  if p.pid ≠ q.pid || p.state = .free then s1.engineMoved c
  else
    let e : EngineStop := match q.replayed with
      | none => { kind := 1, cause := cause, word := 0, details := engineWords q units word, rowprog := row }
      | some (entry, index, w) =>
        { kind := 0, cause := 0x14, word := w, rowprog := row,
          details := replayWords q.tape entry index cause q.tag (isCopy q.word) word }
    let asked := p.wait = .replay && p.state = .parked
    let r := (s.core c).replay
    let playing := asked && q.replayed.isSome && r.owner = q.owner && r.play = q.play
    let s2 := if asked then s1.replayLeave q.owner else s1
    let s2 := if playing then (s2.popAlmplay q.owner).modProc q.owner fun p => { p with pc := nextPc p.pc } else s2
    State.engineMoved (if (s2.proc q.owner).state = .parked then s2.engineStop q.owner e
      else s2.modProc q.owner fun p => if p.engineErr.isNone then { p with engineErr := some e } else p) c

/-- Ends a run of units: complete, stopped on a fault, or an engine error. -/
def State.endRun (c : CoreId) (q : Cmd) (finish : State → State) (r : State × Nat × Option (Eng (List EWrite))) : State :=
  match r.2.2 with
  | none => (finish r.1).complete c q
  | some (.ok ws t) => (finish (t.engPutAll c q ws)).complete c q
  | some (.err cause w) => r.1.engineError c q r.2.1 cause w
  | some (.miss va l m wr) => r.1.engineFault c q r.2.1 va l m wr
  | some .held => r.1.modCmd c q fun x => { x with units := r.2.1 }

/-- What a command is: what stops it before anything of it is done; the number of its restart units; the units; and what
completes it. -/
structure Plan where
  stop : Option (Eng (List EWrite)) := none
  count : Nat
  unit : Units
  finish : State → State := id

/-- The plan of a command that an engine error stops before its first unit. -/
def Plan.error (cause w : Nat) : Plan :=
  { stop := some (.err cause (BitVec.ofNat 64 w)), count := 0, unit := fun _ s => .ok [] s }

/-- The plan of a command whose first operand stops it. -/
def Plan.stopped {α : Type} (r : Eng α) : Plan :=
  { stop := some (r.bind fun _ s => .ok [] s), count := 0, unit := fun _ s => .ok [] s }

/-- A command's plan carried out to its end: what stops it, the units that remain, its completion (R146, R162, R163). -/
def State.runPlan (c : CoreId) (q : Cmd) (p : Plan) (s : State) : State :=
  match p.stop with
  | some r => State.endRun c q id (s, q.units, some r)
  | none => State.endRun c q p.finish (runUnits c q p.unit (p.count - q.units) q.units s)

/-- The pending writes of a command, all performed: the units begun are complete. -/
def State.flushUnit (s : State) (c : CoreId) (q : Cmd) : Cmd × State :=
  if q.pending.isEmpty then (q, s)
  else
    let f := fun (x : Cmd) => { x with pending := [] }
    (f q, (s.engPutAll c q q.pending).modCmd c q f)

/-- Whether two writes go to one granule. -/
def EWrite.together (a b : EWrite) : Bool :=
  match a.target, b.target with
  | .mem l, .mem m => l / 8 = m / 8
  | .port p x _, .port q y _ => p = q && x / 8 = y / 8
  | _, _ => false

/-- The place in a list of pending writes of the one performed when the one at `i` is chosen: the first to its granule
(R185). -/
def performedAt (ws : List EWrite) (i : Nat) : Nat :=
  match ws[i]? with
  | some w => (indexOf w.together ws 0).getD i
  | none => i

/-- The next unit of a command begins: its writes become pending. A unit that stops the command leaves those of the units
before it performed (R162, R163). -/
def State.beginUnit (c : CoreId) (q : Cmd) (p : Plan) (s : State) : State :=
  match p.unit q.units s with
  | .ok ws t =>
    t.modCmd c q fun x =>
      { x with pending := x.pending ++ ws.map fun w => { w with unit := q.units }, units := x.units + 1 }
  | .held => s
  | r => let (q1, t) := s.flushUnit c q; State.endRun c q1 id (t, q1.units, some r)

/-- One part of a command (R148, R185): `pick` chooses among its pending writes, of which the granules may come in any
order, and the begin of its next unit. When neither is left, the command completes or stops. -/
def State.partOf (c : CoreId) (q : Cmd) (pick : Nat) (p : Plan) (s : State) : State :=
  let n := q.pending.length
  let more := p.stop.isNone && decide (q.units < p.count)
  if n = 0 && !more then State.runPlan c q p s
  else
    let i := performedAt q.pending (pick % (n + more.toNat))
    match q.pending[i]? with
    | some w => (s.engPut c q w).modCmd c q fun x => { x with pending := dropAt x.pending i }
    | none => State.beginUnit c q p s

/-- A table of 256 LUT8 entries of a core, as it stands (R101). -/
def State.lutOf (s : State) (c : CoreId) (t : Nat) : List (BitVec 19) := (upTo 256).map (s.lutTable c t)

/-- A command starts: the LUT8 table it names is kept as it stands (R151). -/
def State.startCmd (s : State) (c : CoreId) (q : Cmd) : Cmd × State :=
  match q.lutCopy with
  | some _ => (q, s)
  | none =>
    let f := fun (x : Cmd) => { x with lutCopy := some (s.lutOf c (cSlay q.word / 8 % 4)) }
    (f q, s.modCmd c q f)

/-- A command run to its end: it starts, the units it has begun are completed, its plan is carried out. -/
def State.runCmd (s : State) (c : CoreId) (q : Cmd) (plan : Cmd → State → Plan × State) : State :=
  let (q1, t) := s.startCmd c q
  let (q2, u) := t.flushUnit c q1
  let (p, v) := plan q2 u
  State.runPlan c q2 p v

/-- A command goes one part on. -/
def State.partCmd (s : State) (c : CoreId) (q : Cmd) (pick : Nat) (plan : Cmd → State → Plan × State) : State :=
  let (q1, t) := s.startCmd c q
  let (p, u) := plan q1 t
  State.partOf c q1 pick p u

/-- Runs the first command of the tile queue that may run to its end, when it is the one the event names. -/
def State.runTile (s : State) (c : CoreId) (oper : Nat) (plan : Cmd → State → Plan × State) : State :=
  match s.nextTile c with
  | some q => if cOp q.word = oper then s.runCmd c q plan else s
  | none => s

/-- Likewise for the copy queue. -/
def State.runCopy (s : State) (c : CoreId) (oper : Nat) (plan : Cmd → State → Plan × State) : State :=
  match s.nextCopy c with
  | some q => if cOp q.word = oper then s.runCmd c q plan else s
  | none => s

end Sys2Proof.Machine
end

