-- ==== Sys2Proof/Machine/Almanac.lean ====
section
/-! DEFINITION. The almanac instructions (R314, R315) and the replay sequencer (R275 to R280). -/

namespace Sys2Proof.Machine

/-- The shape of the ALM group. -/
def almShape (srcs : List Reg) (d : Option Reg) : Shape := { srcs := srcs, dst := d, full := true }

/-- Every tape of a cluster with a domain, ID and state made so by `f` (R269, R281). -/
def State.forTapes (s : State) (cl dom : Nat) (id : BitVec 32) (f : State → Nat → Tape → State) : State :=
  (s.cluster cl).tapes.foldl (fun (t : State) e => if e.2.domain = dom && e.2.id = id then f t e.1 e.2 else t) s

/-- The current process's recording begins abandoned, with a status (R269). -/
def Proc.recAs (p : Proc) (status : Nat) : Proc := { p with recording := true, recStatus := status }

/-- ALMREC (R266, R269, R273, R281). -/
def State.almrec (s : State) (id : BitVec 32) : State :=
  let c := s.here
  let cl := clusterOf c
  let dom := s.cur.domain.toNat
  let s1 := match (s.core c).recording with
    | some r => if r.owner = s.self then s.abandonRec c 1 else s
    | none => s
  if (s1.core c).recording.isSome then { s1 with cur := s1.cur.recAs 8 }
  else
    let s2 := s1.forTapes cl dom id fun t i tp =>
      if tp.state = 1 then t.abandonRec tp.core 6 else t.invalidate cl i
    match Cluster.evictUntil (fun x => x.freeIndex.isSome && x.segments ≤ 454) 64 (s2.cluster cl) with
    | none => { s2 with cur := s2.cur.recAs 2 }
    | some x =>
      let i := x.freeIndex.getD 0
      let tp : Tape := { id := id, domain := dom, core := c, pbase := bits s.cur.pool 18 5,
                         pcount := bits s.cur.pool 31 20, state := 1, body := [], slots := [], guards := 0,
                         entries := 1, active := 0, lastUse := s.now c, bad := [] }
      let s3 : State := { s2 with clusters := s2.clusters.put cl { x with tapes := x.tapes.put i tp } }
      let s4 := s3.modCore c fun y => { y with recording := some { owner := s.self, index := i } }
      { s4 with cur := s4.cur.recAs 0 }

/-- ALMREC (R314). -/
def execAlmrec (a : Reg) (s : State) : Out :=
  .next (s.issue (almShape [a] none) fun vals s =>
    (s.almrec (BitVec.ofNat 32 (op vals 0).toNat)).done (almShape [a] none))

/-- ALMSLOT (R267, R314): after the first command, guard or wait mark the recording is abandoned as ORDER. -/
def execAlmslot (a b : Reg) (i : BitVec 4) (s : State) : Out :=
  .next (s.issue (almShape [a, b] none) fun vals s =>
    let t := match s.openTape with
      | none => s
      | some (n, tp) =>
        if !tp.body.isEmpty then s.abandonRec s.here 4
        else
          let fresh := (tp.slots.find? i.toNat).isNone
          s.putTape n { tp with
            slots := tp.slots.put i.toNat (bits (op vals 0) 55 0, bits (op vals 1) 55 0)
            entries := tp.entries + fresh.toNat }
    t.done (almShape [a, b] none))

/-- ALMGRD (R268, R314): a seventeenth abandons the recording as EXCESS. -/
def execAlmgrd (a : Reg) (s : State) : Out :=
  .next (s.issue (almShape [a] none) fun vals s =>
    let t := match s.openTape with
      | none => s
      | some (n, tp) =>
        if tp.guards ≥ 16 then s.abandonRec s.here 5
        else
          s.putTape n { tp with
            guards := tp.guards + 1, entries := tp.entries + 1
            body := tp.body ++ [tapeEntry 1 tp.guards ((op vals 0).zeroExtend 256)] }
    t.done (almShape [a] none))

/-- The open recording of the current process becomes a valid tape with its end entry; without space for that entry it
is abandoned as FULL (R269, R270). -/
def State.sealTape (s : State) : State :=
  match s.openTape with
  | none => s
  | some (n, tp) =>
    let t := s.putTape n { tp with entries := tp.entries + 1 }
    if (t.core t.here).recording.isNone then t
    else
      (t.modCluster (clusterOf t.here) fun x =>
        { x with tapes := x.tapes.put n { tp with entries := tp.entries + 1, state := 2 } }).modCore
        s.here fun x => { x with recording := none }

/-- ALMEND (R269): only status 0 leaves a tape. -/
def execAlmend (d : Reg) (s : State) : Out :=
  .next (s.issue (almShape [] (some d)) fun _ s =>
    if !s.cur.recording then s.doneWith (almShape [] (some d)) 1
    else
      let t := s.sealTape
      let status := t.cur.recStatus
      let u : State := { t with cur := { t.cur with recording := false, recStatus := 0 } }
      u.doneWith (almShape [] (some d)) (BitVec.ofNat 64 status))

/-- A process asks the sequencer for a replay and parks (R277, R315). -/
def State.askReplay (s : State) (id : BitVec 32) (args : List Word) : State :=
  let w := s.cur.iword
  let s1 := s.modCore s.here fun x =>
    if x.replay.state = .idle then
      { x with replay := { state := .check, owner := s.self, index := 0, pos := 0, id := id, args := args, iword := w,
                           waiting := [], play := x.replay.play + 1 } }
    else { x with replay := { x.replay with waiting := x.replay.waiting ++ [(s.self, id, args, w)] } }
  s1.parkAfter 12 .replay [] none

/-- The open recording of the current process is abandoned as NESTED (R269, R315). -/
def State.nested (s : State) : State :=
  match (s.core s.here).recording with
  | some r => if r.owner = s.self then s.abandonRec s.here 7 else s
  | none => s

/-- ALMPLAY (R275, R315): an open recording is abandoned first, the argument block is read by plain loads, then the
sequencer runs the replay. -/
def execAlmplay (d a b : Reg) (s : State) : Out :=
  let sh := almShape [a, b] (some d)
  .next (s.issue sh fun vals s =>
    if s.cur.resumed && vals.isEmpty then s.doneWith sh s.cur.answer
    else if (op vals 1).toNat % 8 ≠ 0 then s.nested.trap 0x03 [op vals 1]
    else
      s.nested.load sh vals 8 ((upTo 32).map fun i => (addAddr (op vals 1) (8 * i : Nat), 8)) (fun x => x.ea) fun ops got t =>
        t.askReplay (BitVec.ofNat 32 (op ops 0).toNat) (got.map fun bs => BitVec.ofNat 64 (leVal bs)))

/-- ALMINV (R281, R314). -/
def execAlminv (a : Reg) (s : State) : Out :=
  .next (s.issue (almShape [a] none) fun vals s =>
    let cl := clusterOf s.here
    (s.forTapes cl s.cur.domain.toNat (BitVec.ofNat 32 (op vals 0).toNat) fun t i _ => t.invalidate cl i).done
      (almShape [a] none))

/-- The directory word of a tape ID (R274). -/
def Cluster.almq (x : Cluster) (dom : Nat) (id : BitVec 32) : Word :=
  let mine := x.tapes.filter fun e => e.2.domain = dom && e.2.id = id
  let of := fun (st : Nat) => List.find? (fun (e : Nat × Tape) => e.2.state = st) mine
  let hit := match of 1, of 2, of 3 with
    | some e, _, _ => some e
    | none, some e, _ => some e
    | none, none, e => e
  match hit, x.freeIndex with
  | some (i, t), _ => BitVec.ofNat 64 (t.state + i * 2 ^ 2 + t.entries * 2 ^ 8 + t.active * 2 ^ 22 + t.id.toNat * 2 ^ 32)
  | none, some i => BitVec.ofNat 64 (i * 2 ^ 2)
  | none, none => BitVec.ofNat 64 (2 ^ 27)

/-- ALMQ (R274, R314). -/
def execAlmq (d a : Reg) (s : State) : Out :=
  .next (s.issue (almShape [a] (some d)) fun vals s =>
    s.doneWith (almShape [a] (some d))
      ((s.cluster (clusterOf s.here)).almq s.cur.domain.toNat (BitVec.ofNat 32 (op vals 0).toNat)))

/-! ## The sequencer (R276 to R278) -/

/-- A replay ends with a status: the process is woken with it and the context goes idle (R277). -/
def State.replayReturn (s : State) (c : CoreId) (status : Nat) : State :=
  let k := (s.core c).replay.owner
  (s.replayIdle c).wake k (BitVec.ofNat 64 status) 1

/-- A replay ends with REPLAYFAULT (R280): the process stops at the instruction after ALMPLAY. -/
def State.replayFault (s : State) (c : CoreId) (entry index cause : Nat) (word : Word) : State :=
  let r := (s.core c).replay
  let s1 := ((s.replayIdle c).popAlmplay r.owner).modProc r.owner fun p =>
    { p with pc := nextPc p.pc, rowprog := rowInvalid p.rowprog }
  s1.stopProc r.owner 0 0x14 r.iword (replayWords r.id entry index cause 0 false word)

/-- The sequencer reads an entry with an uncorrectable error (R280): the replay ends and the tape is invalid. -/
def State.badEntry (s : State) (c : CoreId) (entry : Nat) : State :=
  let i := (s.core c).replay.index
  (s.invalidate (clusterOf c) i).replayFault c entry i 0x08 (BitVec.ofNat 64 entry)

/-- The tape a replay names: of the ID in the process's domain, valid (R276). -/
def Cluster.valid (x : Cluster) (dom : Nat) (id : BitVec 32) : Option (Nat × Tape) :=
  List.find? (fun (e : Nat × Tape) => e.2.domain = dom && e.2.id = id && e.2.state = 2) x.tapes

/-- The guards of a tape in order (R268). -/
def Tape.guardValues (t : Tape) : List Word :=
  (t.body.filter fun e => bits e.tag 15 12 = 1).map fun e => e.word.setWidth 64

/-- REPLAY_CHECK (R276, R277). -/
def execReplayCheck (c : CoreId) (s : State) : Out :=
  let r := (s.core c).replay
  .next (if r.state ≠ .check then s
    else if bits (op r.args 0) 63 1 ≠ 0 then s.replayReturn c 3
    else
      match (s.cluster (clusterOf c)).valid (s.proc r.owner).domain.toNat r.id with
      | none => s.replayReturn c 2
      | some (i, t) =>
        if t.guardValues ≠ (r.args.drop 16).take t.guards then s.replayReturn c 1
        else
          match t.tiles.find? (s.tileTaken r.owner) with
          | some tile => s.replayFault c 0 i 0x05 (BitVec.ofNat 64 tile)
          | none =>
            let s1 := s.modProc r.owner fun p => p.takeTiles t.tiles
            let s2 := s1.modCluster (clusterOf c) fun x =>
              { x with tapes := x.tapes.put i { t with active := t.active + 1, lastUse := s.now c } }
            s2.modCore c fun x => { x with replay := { x.replay with state := .stream, index := i, pos := 0 } })

/-- An address field as streamed (R278). -/
def streamField (t : Tape) (args : List Word) (slot field : Nat) : Nat :=
  if slot = 0 then field
  else (field + 2 ^ 56 - (t.slots.get slot (0, 0)).1 + bits (op args slot) 55 0) % 2 ^ 56

/-- A recorded command as streamed (R278). -/
def streamed (t : Tape) (args : List Word) (e : TEntry) : BitVec 256 :=
  let f := streamField t args
  setBits (setBits (setBits e.word 119 64 (f (bits e.tag 3 0) (cAddrA e.word))) 191 136
    (f (bits e.tag 7 4) (cAddrB e.word))) 247 192 (f (bits e.tag 11 8) (cAddrS e.word))

/-- REPLAY_STREAM (R277): the sequencer processes the next entry, or ends the replay at one with an uncorrectable error
(R280). -/
def execReplayStream (c : CoreId) (s : State) : Out :=
  let x := s.core c
  let r := x.replay
  .next (if r.state ≠ .stream then s
    else
      match (s.cluster (clusterOf c)).tapes.find? r.index with
      | none => s
      | some t =>
        let step := fun (u : State) => u.modCore c fun y => { y with replay := { y.replay with pos := r.pos + 1 } }
        let drain := fun (u : State) => u.modCore c fun y => { y with replay := { y.replay with state := .drain } }
        match t.listing[r.pos]? with
        | none => s
        | some e =>
          let kind := bits e.tag 15 12
          if t.bad.contains r.pos then s.badEntry c r.pos
          else if kind = 0 || kind = 4 then
            if (if kind = 4 then x.copyQ else x.tileQ).length ≥ 16 then s
            else step (s.queueCmd r.owner (streamed t r.args e) 0 (some (r.pos, r.index, r.iword)) r.id r.play)
          else if kind = 3 then drain s
          else if kind = 15 then (if (op r.args 0).getLsbD 0 then drain s else s.replayReturn c 0)
          else step s)

/-- REPLAY_DRAIN_END (R277): once every earlier command of the replay has completed. -/
def execReplayDrainEnd (c : CoreId) (s : State) : Out :=
  let r := (s.core c).replay
  .next (if r.state ≠ .drain || (s.commandsOf r.owner).any fun q => q.replayed.isSome && q.play = r.play then s
    else
      match (s.cluster (clusterOf c)).tapes.find? r.index with
      | none => s
      | some t =>
        if (t.listing[r.pos]?.map fun e => bits e.tag 15 12) = some 15 then s.replayReturn c 0
        else s.modCore c fun y => { y with replay := { y.replay with state := .stream, pos := r.pos + 1 } })

end Sys2Proof.Machine
end

