-- ==== Sys2Proof/Machine/Channel.lean ====
section
/-! DEFINITION. CHAN: OUT, IN, OUTB, INB, CHNEW, CHBIND, CHFREE, CHSTAT, CHSYNC, TKT, TKTW (R285 to R294). -/

namespace Sys2Proof.Machine

/-! ## Ep (R285) -/

/-- The endpoint an instruction names, when it is homed on the issuing core and R46 accepts it. -/
def State.ownEp (s : State) (h : Word) (f : EpId → Endpoint → State → State) : State :=
  let e := epOfHandle h
  if coreOfEp e ≠ s.here then s.trap 0x0A [h, 1]
  else if !s.accepts h s.cur.domain then (s.countRefusal h).trap 0x0A [h, 0]
  else f e (s.ep e) s

/-- Ep(h, need) of R285, then CHLINK of a lost peer (R375) and the wait of an unbound endpoint. `need` gives the subcode
of CHTYPE, 0 when the entry is as required; `open_` admits STATE 1. The endpoint records who operates on it (R260). -/
def State.withEp (s : State) (h : Word) (need : Endpoint → Nat) (open_ : Bool) (f : EpId → Endpoint → State → State) :
    State :=
  s.ownEp h fun e x s =>
    match x.linkReason with
    | some r => s.linkTrap e r
    | none =>
      if x.state = 3 then s.desyncTrap e
      else if need x ≠ 0 then s.trap 0x0B [h, BitVec.ofNat 64 (need x)]
      else if x.state = 1 && !open_ then s.parkEp 1 e s.cur.phase none
      else f e x (s.modEp e fun y => { y with lastOp := some (s.self, s.cur.pid) })

/-- Parks on an endpoint after the sources have been read (R73). -/
def State.parkEpAfter (s : State) (k : BitVec 4) (e : EpId) (vals : List Word) (mark : Nat) (dl : Option Nat) : State :=
  s.parkEp k e (.after vals 0 mark) dl

/-- The drain class of the scope that spans two endpoints' cores (R183): the package monitor's endpoint takes PACKAGE. -/
def drainBetween (c : CoreId) (e : EpId) : Drain :=
  if pkgOf c ≠ pkgOf (coreOfEp e) then .podnow
  else if coreOfEp e = c && !(c % 2048 = 255 && e % 1024 = Config.monitorIndex) then .corePoint
  else .package

/-- Whether the words of an endpoint's channel go through a port FIFO (R251). -/
def State.isPorted (s : State) (e : EpId) : Bool :=
  let x := s.ep e
  x.portv || (x.state = 2 && x.peer ≠ 0 && (s.ep (epOfHandle x.peer)).portv)

/-- What OUT and IN require: word class, MODE 0 or a port-bound MODE 1, the direction (R287). -/
def State.needWord (s : State) (h : Word) (dir : Bool) (x : Endpoint) : Nat :=
  if x.cls ≠ 0 then 1
  else if !(x.mode = 0 || (x.mode = 1 && (s.isPorted (epOfHandle h) || !x.fifo.isEmpty))) then 2
  else if x.dir ≠ dir then 3 else 0

/-- What OUTB and INB require. -/
def needBlock (dir : Bool) (x : Endpoint) : Nat :=
  if x.cls = 0 then 1 else if x.mode ≠ 0 then 2 else if x.dir ≠ dir then 3 else 0

/-! ## Rendezvous (R253) -/

/-- The acknowledgement of an offer goes to its sender. -/
def State.acknowledge (s : State) (c : CoreId) (k : Slot) (pid : Word) : State :=
  s.send (.core c) (.core (coreOf k)) .control (.ack k pid)

/-- The bytes of a range in 8-byte granules: where each lands, its bytes, its poison (R288). -/
def State.granulesOf (s : State) (src dst : Nat) : Nat → Nat → List (Nat × List Byte × Bool)
  | 0, _ => []
  | fuel + 1, n =>
    if n = 0 then []
    else
      let k := min n 8
      (dst, s.mem.read src k, natMem s.poison (src / 8)) :: s.granulesOf (src + 8) (dst + 8) fuel (n - k)

/-- Granules land: each keeps its poison bit as it crosses (R288). -/
def State.land (s : State) (c : CoreId) (gs : List (Nat × List Byte × Bool)) : State :=
  gs.foldl (fun t (loc, bs, bad) =>
    let u := t.writeAt none (some c) loc bs none
    if bad then u.poisonAt loc else u) s

/-- The transfer of an offered block to the buffer of a waiting receiver starts (R253): the sender is acknowledged. -/
def State.startBlock (s : State) (e : EpId) (src : Slot) (srcPid : Word) (from_ len : Nat) (r : Slot) (to_ : Nat) :
    State :=
  let t := s.settle (coreOf src) (homesOf from_ len)
  let body : Body := .block r (t.proc r).pid len (t.granulesOf from_ to_ (len / 8 + 1) len)
  (t.send (.core (coreOf src)) (.core (coreOfEp e)) .channel body).acknowledge (coreOfEp e) src srcPid

/-- OUT (R287): through a port FIFO, or an offer and the wait for its ACK. -/
def execOutWord (a b : Reg) (s : State) : Out :=
  let sh : Shape := { srcs := [a, b] }
  .next (s.issue sh fun vals s =>
    let h := op vals 0
    if s.cur.mark = 1 then (s.leaveEp (epOfHandle h)).done sh
    else
      s.withEp h (s.needWord h true) false fun e x s =>
        let r := epOfHandle x.peer
        if s.isPorted e then
          if (s.ep r).fifo.length ≥ 16 then s.parkEpAfter 1 e vals 0 none
          else
            s.afterDrain .corePoint fun s =>
              (((s.modEp r fun y => { y with fifo := y.fifo ++ [op vals 1] }).wakeEp r).leaveEp e).done sh
        else if s.behind x then s.parkEp 1 e s.cur.phase none
        else if s.cur.resumed then s.parkEpAfter 1 e vals 0 none
        else
          s.afterDrain (drainBetween s.here r) fun s =>
            (s.send (.core s.here) (.core (coreOfEp r)) .channel
              (.offer r (.word s.self s.cur.pid (op vals 1)))).parkEpAfter 1 e vals 0 none)

/-- IN (R287): a FIFO word, the offer held, or the wait for one. -/
def execInWord (d a : Reg) (s : State) : Out :=
  let sh : Shape := { srcs := [a], dst := some d }
  .next (s.issue sh fun vals s =>
    let h := op vals 0
    if s.cur.mark = 1 then (s.leaveEp (epOfHandle h)).doneWith sh s.cur.answer
    else
      s.withEp h (s.needWord h false) true fun e x s =>
        if x.state = 1 && x.mode ≠ 0 then s.parkEp 1 e s.cur.phase none
        else
        match x.free, x.offer with
        | w :: rest, _ =>
          if s.behind x then s.parkEp 1 e s.cur.phase none
          else
            (((s.modEp e fun y => { y with fifo := y.fifo.take y.held ++ rest }).wakeEp (epOfHandle x.peer)).leaveEp e).doneWith sh w
        | [], some (.word k pid v) =>
          if s.behind x then s.parkEp 1 e s.cur.phase none
          else (((s.modEp e fun y => { y with offer := none }).acknowledge s.here k pid).leaveEp e).doneWith sh v
        | [], _ => if s.behind x then s.parkEp 1 e s.cur.phase none else s.parkEpAfter 1 e vals 0 none)

/-- The block length of an endpoint's shape: L for a tile class, SHAPE for a block class (R288). -/
def Endpoint.blockLength (x : Endpoint) : Nat :=
  if x.cls = 2 then (bits x.shape 15 0 * bits x.shape 31 16 * elemWidth x.fmt + 7) / 8 else x.shape.toNat

/-- OUTB (R288). -/
def execOutBlock (d a b : Reg) (s : State) : Out :=
  let sh : Shape := { srcs := [a, b], dsrc := some d }
  .next (s.issue sh fun vals s =>
    let h := op vals 0
    if s.cur.mark = 1 then (s.leaveEp (epOfHandle h)).done sh
    else
      s.withEp h (needBlock true) false fun e x s =>
        let len := if x.cls = 2 then x.blockLength else (s.cur.reg d).toNat
        if x.cls = 1 && len > x.shape.toNat then s.trap 0x0B [h, 4]
        else
          s.ownPointer (op vals 1) 8 len (fun o s =>
            if s.behind x then s.parkEp 1 e s.cur.phase none
            else if s.cur.resumed then s.parkEpAfter 1 e vals 0 none
            else
              let r := epOfHandle x.peer
              s.afterDrain (drainBetween s.here r) fun s =>
                (s.send (.core s.here) (.core (coreOfEp r)) .channel
                  (.offer r (.block s.self s.cur.pid (locSpad s.here o) len))).parkEpAfter 1 e vals 0 none))

/-- INB (R288): it parks until the last byte has landed. -/
def execInBlock (d a b : Reg) (s : State) : Out :=
  let sh : Shape := { srcs := [a, b], dst := some d }
  .next (s.issue sh fun vals s =>
    let h := op vals 0
    if s.cur.mark = 1 then (s.leaveEp (epOfHandle h)).doneWith sh s.cur.answer
    else
      s.withEp h (needBlock false) true fun e x s =>
        s.ownPointer (op vals 1) 8 x.blockLength (fun o s =>
          if s.behind x then s.parkEp 1 e s.cur.phase none
          else
            match x.offer with
            | some (.block k pid loc len) =>
              let t := (s.modEp e fun y => { y with offer := none }).startBlock e k pid loc len s.self (locSpad s.here o)
              t.parkEpAfter 1 e vals 3 none
            | _ => s.parkEpAfter 1 e vals 0 none))

/-! ## CHNEW (R289) -/

/-- The least number from `i` on, within `fuel` of them, that satisfies `f`. -/
def firstFree (f : Nat → Bool) : Nat → Nat → Option Nat
  | 0, _ => none
  | fuel + 1, i => if f i then some i else firstFree f fuel (i + 1)

/-- The bits of a type descriptor that may be set: [7:6], [12:8] and [63:32]. -/
def descriptorMask : Word := 0xFFFFFFFF00001FC0

/-- Whether a type descriptor is malformed (R289). -/
def badDescriptor (w : Word) : Bool :=
  let cls := bits w 7 6
  let shape := bits w 63 32
  w &&& ~~~descriptorMask ≠ 0 || cls = 3 || bits w 12 8 ≥ 17 || (cls = 0 && shape ≠ 0) || (cls = 1 && shape = 0) ||
    (cls = 1 && shape > 393216)

/-- Whether a configuration word is malformed (R289), for offset B of the context area. -/
def badConfig (desc w : Word) (B : Nat) : Bool :=
  let mode := bits w 3 2
  let ring := !w.getLsbD 4 && (mode = 1 || mode = 2)
  let rbase := bits w 18 6
  let rlen := bits w 31 19
  bits w 1 0 ≠ 0 || (ring && (rlen = 0 || rlen > 4096)) || (!ring && (rbase ≠ 0 || rlen ≠ 0)) ||
    (ring && 64 * (rbase + rlen) > B) || (ring && mode = 2 && max 1 ((bits desc 63 32 + 63) / 64) > rlen)

/-- The entry CHNEW makes (R289); an ANY receiving end opens with CALLED at its number of slots (R259). -/
def newEndpoint (desc w : Word) (domain : BitVec 12) (gen : BitVec 14) : Endpoint :=
  let x : Endpoint := { Endpoint.empty with
    state := 1, mode := bits w 3 2, dir := w.getLsbD 4, nb := w.getLsbD 5, cls := bits desc 7 6, fmt := bits desc 12 8,
    gen := gen, domain := domain, shape := BitVec.ofNat 32 (bits desc 63 32),
    tlimit := BitVec.ofNat 32 (bits w 63 32), rbase := bits w 18 6, rlen := bits w 31 19 }
  if x.mode = 2 && !x.dir then { x with called := BitVec.ofNat 32 x.slotCount } else x

/-- CHNEW (R289). -/
def execChnew (d a b : Reg) (s : State) : Out :=
  let sh : Shape := { srcs := [a, b], dst := some d }
  .next (s.issue sh fun vals s =>
    let desc := op vals 0
    let w := op vals 1
    if badDescriptor desc then s.trap 0x0B [desc, 6]
    else if bits w 3 2 = 3 && !s.cur.supv then s.trap 0x02 []
    else if badConfig desc w (ctxBase (s.core s.here)) then s.trap 0x05 [w]
    else
      match firstFree (fun i => (s.ep (s.here * 1024 + i)).state = 0) 1024 0 with
      | none => s.doneWith sh 0
      | some i =>
        let e := s.here * 1024 + i
        let t := s.modEp e fun x => newEndpoint desc w s.cur.domain x.gen
        t.doneWith sh (t.epHandle e))

/-! ## CHBIND (R290) -/

/-- The DIEFENCED trap of an operation whose home core's die is fenced (R365, R381). -/
def State.reachCore (s : State) (c : CoreId) (h : Word) (f : State → State) : State :=
  if s.dieUp (dieOfCore c) then f s
  else s.trap 0x19 [h, BitVec.ofNat 64 (dieOfCore c % 8), BitVec.ofNat 64 ((s.die (dieOfCore c)).fenced.getD 4)]

/-- Whether a package can be sent to: it exists, and another package is a pod member that has not withdrawn. -/
def State.reachable (s : State) (p q : Nat) : Bool :=
  (s.pkg q).present && (p = q || (s.podMember p q && !(s.pkg q).withdrawn))

/-- An answer given to a waiting process: it goes on with the value, or traps. -/
def State.answer (s : State) (k : Slot) (pid : Word) (a : Answer) : State :=
  if (s.proc k).pid ≠ pid || (s.proc k).state ≠ .parked then s
  else
    match a with
    | .value v => s.wake k v 1
    | .nothing => s.wake k 0 2
    | .trap cause ds => s.trapOf k cause ds

/-- CHBIND (R290): a release, the BIND request to the peer's home, the wait for its reply. -/
def execChbind (d a b : Reg) (s : State) : Out :=
  let sh : Shape := { srcs := [a, b], dst := some d }
  .next (s.issue sh fun vals s =>
    let h := op vals 0
    if s.cur.mark = 1 then (s.leaveEp (epOfHandle h)).doneWith sh s.cur.answer
    else
      s.withEp h (fun _ => 0) true fun e _ s =>
        let peer := op vals 1
        let r := epOfHandle peer
        if !s.reachable (pkgOf s.here) (pkgOf (coreOfEp r)) then s.trap 0x0A [peer, 0]
        else
          s.reachCore (coreOfEp r) peer fun s =>
            s.afterDrain (drainBetween s.here r) fun s =>
              (s.send (.core s.here) (.core (coreOfEp r)) .channel (.bind s.self s.cur.pid h peer)).parkEp
                1 e (.after vals 0 4) none)

/-- The entry `x` bound to the endpoint of handle `h`, whose entry is `y`: a buffered or ANY sending end copies the ring
of the receiving end, an ANY receiving end keeps PEER = 0 (R290). -/
def Endpoint.bindTo (x : Endpoint) (h : Word) (y : Endpoint) : Endpoint :=
  let ring := x.dir && (x.mode = 1 || x.mode = 2)
  { x with state := 2, linkReason := none, linkWords := [], peer := if x.mode = 2 && !x.dir then 0 else h, rbase := if ring then y.rbase else x.rbase,
           rlen := if ring then y.rlen else x.rlen }

/-- The result of a BIND request at the peer's home (R290): the new state and the answer. -/
def State.bindResult (s : State) (domain : BitVec 12) (mine peer : Word) : State × Answer :=
  let e := epOfHandle mine
  let r := epOfHandle peer
  let x := s.ep e
  let y := s.ep r
  if !s.accepts peer domain then (s.countRefusal peer, .trap 0x0A [peer, 0])
  else if x.cls ≠ y.cls || x.fmt ≠ y.fmt || x.shape ≠ y.shape then (s, .trap 0x0B [peer, 5])
  else if x.mode ≠ y.mode then (s, .trap 0x0B [peer, 2])
  else if x.dir = y.dir then (s, .trap 0x0B [peer, 3])
  else if y.state = 1 && x.state = 1 then
    let t := (s.setEp e (x.bindTo peer y)).setEp r (y.bindTo mine x)
    ((t.wakeEp e).wakeEp r, .value 0)
  else if x.state = 2 && x.peer ≠ 0 && x.peer ≠ peer then (s, .value 1)
  else if y.state = 2 && (y.peer = mine || (y.mode = 2 && !y.dir)) && x.state ≤ 2 then
    ((s.setEp e (x.bindTo peer y)).wakeEp e, .value 0)
  else (s, .value 1)

/-! ## CHFREE (R291) -/

/-- The slot of a called ticket is committed as zeros at an ANY receiving end, for a sending end of core `c` (R291). -/
def State.zeroTicket (s : State) (c : CoreId) (r : EpId) (t : Nat) : State :=
  let y := s.ep r
  if y.state = 0 then s
  else
    let at_ := locSpad (coreOfEp r) (64 * (y.rbase + y.slotSize * (t % max 1 y.slotCount)))
    let u := s.writeAt none (some c) at_ (List.replicate (64 * y.slotSize) 0) none
    (u.modEp r fun z => { z with slots := z.slots ++ [t], tail := z.tail + BitVec.ofNat 16 z.slotSize }).wakeEp r

/-- Step 2 of R291: the called ticket that a sending end holds is released. -/
def State.zeroSlot (s : State) (e : EpId) : State :=
  match (s.ep e).ticket with
  | none => s
  | some t => s.zeroTicket (coreOfEp e) (epOfHandle (s.ep e).peer) t

/-- The entry freed: STATE 0, GEN one higher (R47). -/
def Endpoint.freed (x : Endpoint) : Endpoint := { Endpoint.empty with gen := x.gen + 1 }

/-- The sender of a discarded offer, while it still waits, is stopped with CHLINK of its own end (R291). -/
def State.stopSender (s : State) (o : Offer) (reason : Nat) : State :=
  let (k, pid) := match o with | .word k pid _ => (k, pid) | .block k pid _ _ => (k, pid)
  match (s.proc k).wait with
  | .endpoint f =>
    if (s.proc k).pid = pid && (s.proc k).state = .parked then s.trapOf k 0x0C (s.linkDetails f reason) else s
  | _ => s

/-- Frees an endpoint by the steps of R291, at once. -/
def State.freeEp (s : State) (e : EpId) (reason : Nat) : State :=
  let s1 := s.stopParked e reason
  let s2 := match (s.ep e).offer with
    | none => s1
    | some o => s1.stopSender o reason
  let s3 := s2.zeroSlot e
  let bound := (s3.boundTo e).filter fun f => f ≠ e
  let s4 := ((s3.dropMessages e).dropTickets e).setEp e ((s3.ep e).freed)
  bound.foldl (fun (t : State) f => t.cutPeer f reason) s4

/-- CHFREE (R291). -/
def execChfree (a : Reg) (s : State) : Out :=
  let sh : Shape := { srcs := [a] }
  .next (s.issue sh fun vals s =>
    let h := op vals 0
    s.ownEp h fun e x s => if x.portv then s.trap 0x05 [h, 5] else (s.freeEp e 4).done sh)

/-! ## CHSTAT (R292) -/

/-- The status word of an endpoint. -/
def Endpoint.status (x : Endpoint) : Word :=
  BitVec.ofNat 64 (x.state + x.mode * 4 + x.dir.toNat * 16 + x.nb.toNat * 32 +
    (x.waiter.isSome || x.offer.isSome || !x.syncing.isEmpty).toNat * 64 + x.portv.toNat * 128 + x.offer.isSome.toNat * 256 +
    x.head.toNat * 2 ^ 16 + x.tail.toNat * 2 ^ 32 + x.fifo.length * 2 ^ 48)

/-- The word CHSTAT reads. -/
def Endpoint.word (x : Endpoint) (sel : Word) : Word :=
  if sel = 0 then x.status
  else if sel = 1 then (if x.mode = 2 then BitVec.ofNat 64 (x.nextt.toNat + x.called.toNat * 2 ^ 32) else 0)
  else if sel = 2 then x.peer
  else if sel = 3 then BitVec.ofNat 64 (x.shape.toNat + x.tlimit.toNat * 2 ^ 32)
  else 0

/-- CHSTAT at the endpoint's home. -/
def State.chstat (s : State) (h sel : Word) (domain : BitVec 12) : State × Answer :=
  if s.accepts h domain then (s, .value ((s.ep (epOfHandle h)).word sel))
  else (s.countRefusal h, .trap 0x0A [h, 0])

/-- CHSTAT (R292). -/
def execChstat (d a b : Reg) (s : State) : Out :=
  let sh : Shape := { srcs := [a, b], dst := some d }
  .next (s.issue sh fun vals s =>
    let h := op vals 0
    let c := coreOfEp (epOfHandle h)
    if s.cur.resumed then s.doneWith sh s.cur.answer
    else if c = s.here then
      match s.chstat h (op vals 1) s.cur.domain with
      | (t, .trap cause ds) => t.trap cause ds
      | (t, .value v) => t.doneWith sh v
      | (t, .nothing) => t.done sh
    else if !s.reachable (pkgOf s.here) (pkgOf c) then s.trap 0x0A [h, 0]
    else
      s.reachCore c h fun s =>
        (s.send (.core s.here) (.core c) .channel
          (.remote (.chstat h (op vals 1) s.cur.domain) s.self s.cur.pid)).parkAfter 1 .remote vals none)

/-! ## CHSYNC (R293) -/

/-- An end restored by CHSYNC: back in STATE 2 with its counters zero and CALLED as at CHNEW. -/
def Endpoint.restored (x : Endpoint) : Endpoint :=
  { x with
    state := 2, head := 0, tail := 0, reserved := 0, ticket := none, slots := [], nextt := 0,
    called := if x.mode = 2 && !x.dir then BitVec.ofNat 32 x.slotCount else 0, syncing := [], syncPeer := [],
    badCount := 0 }

/-- The granules committed and not retired at the consumer of an end and the peers of it that have arrived (R293). -/
def State.syncCount (s : State) (e : EpId) (rs : List EpId) : Word :=
  BitVec.ofNat 64 (s.ep (if (s.ep e).dir then rs.headD e else e)).committed

/-- An end and the peers of it that have arrived are restored together; each process that waits in CHSYNC at one of them
gets the consumer's count (R293). -/
def State.restoreEnds (s : State) (e : EpId) (rs : List EpId) : State :=
  let n := s.syncCount e rs
  let waiting := (e :: rs).flatMap fun f => (s.ep f).syncing
  let t := (e :: rs).foldl (fun (t : State) f => (t.dropMessages f).modEp f Endpoint.restored) s
  waiting.foldl (fun (t : State) k => t.wake k n 1) t

/-- CHSYNC (R293). -/
def execChsync (d a : Reg) (s : State) : Out :=
  let sh : Shape := { srcs := [a], dst := some d }
  .next (s.issue sh fun vals s =>
    if s.cur.mark = 1 then s.doneWith sh s.cur.answer
    else
      s.ownEp (op vals 0) fun e x s =>
        match x.linkReason with
        | some r => s.linkTrap e r
        | none =>
          if x.state ≠ 3 then s.doneWith sh (BitVec.allOnes 64)
          else
            match x.syncPeer with
            | r :: rs => (s.restoreEnds e (r :: rs)).doneWith sh (s.syncCount e (r :: rs))
            | [] =>
              let t := s.modEp e fun y => { y with syncing := natErase y.syncing s.self ++ [s.self] }
              let u := if x.peer = 0 || !x.syncing.isEmpty then t
                else
                  t.send (.core s.here) (.core (coreOfEp (epOfHandle x.peer))) .channel
                    (.chsync (epOfHandle x.peer) e)
              u.park 1 (.endpoint e) (.after vals 0 0) none)

/-! ## Tickets (R294) -/

/-- What TKT and TKTW require: a sending end of MODE 2. -/
def needTicket (x : Endpoint) : Nat := if x.mode ≠ 2 then 2 else if !x.dir then 3 else 0

/-- NEXTT of an ANY receiving end as it stood, and the state after the increment (R259). -/
def State.takeTicket (s : State) (e : EpId) : State × Nat :=
  (s.modEp e fun x => { x with nextt := x.nextt + 1 }, (s.ep e).nextt.toNat)

/-- TKT (R294). -/
def execTkt (d a : Reg) (s : State) : Out :=
  let sh : Shape := { srcs := [a], dst := some d }
  .next (s.issue sh fun vals s =>
    if s.cur.mark = 1 then (s.leaveEp (epOfHandle (op vals 0))).doneWith sh s.cur.answer
    else
      s.withEp (op vals 0) needTicket false fun e x s =>
        if s.cur.resumed then s.parkEpAfter 1 e vals 0 none
        else
          (s.send (.core s.here) (.core (coreOfEp (epOfHandle x.peer))) .channel
            (.remote (.tkt (epOfHandle x.peer)) s.self s.cur.pid)).parkEpAfter 1 e vals 0 none)

/-- TKTW (R294). -/
def execTktw (a b : Reg) (s : State) : Out :=
  let sh : Shape := { srcs := [a, b] }
  .next (s.issue sh fun vals s =>
    let h := op vals 0
    s.withEp h needTicket false fun e x s =>
      let r := epOfHandle x.peer
      let t := bits (op vals 1) 31 0
      if x.ticket.isSome then s.trap 0x05 [h, 6]
      else if (s.ep r).hasCalled t then ((s.modEp e fun y => { y with ticket := some t }).leaveEp e).done sh
      else
        ((s.joinEp e).modEp r fun y => { y with callers := y.callers ++ [(t, s.self)] }).parkAfter 11
          (.ticket r t) vals none)

/-- The callers of an ANY receiving end whose tickets have been called are woken (R259). -/
def State.wakeCallers (s : State) (r : EpId) : State :=
  let x := s.ep r
  (x.callers.filter fun a => x.hasCalled a.1).foldl (fun (t : State) a => t.wake a.2 0 0)
    (s.setEp r { x with callers := x.callers.filter fun a => !x.hasCalled a.1 })

end Sys2Proof.Machine
end

