-- ==== Sys2Proof/Machine/Ring.lean ====
section
/-! DEFINITION. RING: CLAIM, COMMIT, AWAIT, RETIRE and their non-blocking forms (R255, R257, R259, R295 to R297), on
buffered and ANY channels and on host endpoints (R360). -/

namespace Sys2Proof.Machine

/-- What the ring members require of an endpoint (R295, R360). -/
def needRing (dir : Bool) (x : Endpoint) : Nat := if x.mode = 0 then 2 else if x.dir ≠ dir then 3 else 0

/-- Whether a granule count is refused (R295). -/
def Endpoint.badGranules (x : Endpoint) (n : Nat) : Bool := n = 0 || n > x.rlen || (x.mode = 2 && n ≠ x.slotSize)

/-- F of R255, less the granules reserved and not committed (R296). -/
def Endpoint.freeGranules (x : Endpoint) : Nat := x.rlen - x.committed - x.reserved

/-- The ring index of the first granule after those reserved. -/
def Endpoint.claimIndex (x : Endpoint) : Nat := (x.tail.toNat % x.rlen + x.reserved) % x.rlen

/-- The condition of R296 is met: the index is written, p is set. -/
def State.ringMet (s : State) (sh : Shape) (e : EpId) (p : PReg) (index : Nat) : State :=
  let t := s.leaveEp e
  ({ t with cur := t.cur.setPred p true } : State).doneWith sh (BitVec.ofNat 64 index)

/-- The condition of R296 is not met: the non-blocking forms clear p and never park, the others park, with WAITK 1 on an
endpoint that is not bound and else with WAITK 2, until TLIMIT cycles have passed from issue (R257, R285). -/
def State.ringWait (s : State) (sh : Shape) (e : EpId) (x : Endpoint) (p : PReg) (nb : Bool) (vals : List Word) : State :=
  if nb || x.nb then s.doneWithPred { sh with dst := none } p false
  else
    let now := s.now s.here
    let dl := if s.cur.resumed then (op vals 2).toNat else if x.tlimit = 0 then 0 else now + x.tlimit.toNat
    if s.cur.resumed && dl ≠ 0 && now ≥ dl then
      s.trap 0x0E [op vals 0, x.head.zeroExtend 64, x.tail.zeroExtend 64]
    else
      s.parkEpAfter (if x.state = 1 then 1 else 2) e [op vals 0, op vals 1, BitVec.ofNat 64 dl] 0 (if dl = 0 then none else some dl)

/-- CLAIM and CLAIM.NB. -/
def State.claim (s : State) (d a b : Reg) (p : PReg) (nb : Bool) : State :=
  let sh : Shape := { srcs := [a, b], dst := some d }
  s.issue sh fun vals s =>
    let h := op vals 0
    let n := (op vals 1).toNat
    s.withEp h (needRing true) true fun e x s =>
      if x.state = 1 then s.ringWait sh e x p nb vals
      else if x.badGranules n then s.trap 0x05 [h, op vals 1]
      else if x.mode = 2 then
        match x.ticket with
        | none => s.trap 0x05 [h, 6]
        | some t => (s.modEp e fun y => { y with reserved := n }).ringMet sh e p (x.slotSize * (t % x.slotCount))
      else if x.freeGranules ≥ n then
        (s.modEp e fun y => { y with reserved := y.reserved + n }).ringMet sh e p x.claimIndex
      else s.ringWait sh e x p nb vals

/-- CLAIM (R296). -/
def execClaim (d a b : Reg) (p : PReg) (s : State) : Out := .next (s.claim d a b p false)

/-- CLAIM.NB (R296). -/
def execClaimNb (d a b : Reg) (p : PReg) (s : State) : Out := .next (s.claim d a b p true)

/-- Whether the ring holds what AWAIT waits for: n granules, or on an ANY channel the slot at HEAD (R255, R296). -/
def Endpoint.holds (x : Endpoint) (n : Nat) : Bool :=
  if x.mode = 2 then x.slots.contains x.headTicket else x.committed ≥ n

/-- The ring index at HEAD. -/
def Endpoint.headIndex (x : Endpoint) : Nat :=
  if x.mode = 2 then x.slotSize * (x.headTicket % x.slotCount) else x.head.toNat % x.rlen

/-- AWAIT and AWAIT.NB. -/
def State.await (s : State) (d a b : Reg) (p : PReg) (nb : Bool) : State :=
  let sh : Shape := { srcs := [a, b], dst := some d }
  s.issue sh fun vals s =>
    let h := op vals 0
    let n := (op vals 1).toNat
    s.withEp h (needRing false) true fun e x s =>
      if x.state = 1 then s.ringWait sh e x p nb vals
      else if x.badGranules n then s.trap 0x05 [h, op vals 1]
      else if x.holds n && (s.chosenBy x).all (· = s.self) then s.ringMet sh e p x.headIndex
      else s.ringWait sh e x p nb vals

/-- AWAIT (R296). -/
def execAwait (d a b : Reg) (p : PReg) (s : State) : Out := .next (s.await d a b p false)

/-- AWAIT.NB (R296). -/
def execAwaitNb (d a b : Reg) (p : PReg) (s : State) : Out := .next (s.await d a b p true)

/-! ## Host rings (R360) -/

/-- The host endpoint entry that binds an endpoint. -/
def State.hostEpOf (s : State) (e : EpId) : Option HostEp :=
  (List.find? (fun (x : Nat × HostEp) =>
      x.2.valid && epOfHandle x.2.handle = e && bits x.2.handle 33 20 = (s.ep e).gen.toNat)
    (s.pkg (pkgOf (coreOfEp e))).hostEps).map (·.2)

/-- The host address of granule `i` of a host ring. -/
def HostEp.granule (j : HostEp) (i : Nat) : Nat := j.ring.toNat % 2 ^ 48 + 64 * i

/-- A posted write of the current process to a host ring, behind the core's earlier stores to the port (R174, R187). -/
def State.postRing (s : State) (j : HostEp) (addr : Nat) (bs : List Byte) : State :=
  let port := if j.port then 1 else 0
  (s.settlePort s.here port).postFor s.self s.cur.pid (pkgOf s.here) port [(addr, bs)] false

/-- COMMIT on a host endpoint: the data granules, then bytes 0 to 7 of the index granule. -/
def State.commitHost (s : State) (e : EpId) (x : Endpoint) (o n : Nat) : State :=
  match s.hostEpOf e with
  | none => s
  | some j =>
    let t := (upTo n).foldl (fun (t : State) i =>
      t.postRing j (j.granule ((x.tail.toNat + i) % x.rlen)) (t.mem.read (locSpad t.here (o + 64 * i)) 64)) s
    t.postRing j (j.granule x.rlen) (leBytes ((x.tail.toNat + n) % 2 ^ 16 + n * 2 ^ 16) 8)

/-! ## COMMIT and RETIRE (R297) -/

/-- The granules of a COMMIT as they cross: from offset `o` of the own scratchpad to `n` ring granules from `start`. -/
def State.ringData (s : State) (r : EpId) (x : Endpoint) (o start n : Nat) : List (Nat × List Byte × Bool) :=
  (upTo n).flatMap fun i =>
    s.granulesOf (locSpad s.here (o + 64 * i)) (locSpad (coreOfEp r) (64 * (x.rbase + (start + i) % x.rlen))) 8 64

/-- COMMIT (R297): it parks with WAITK 2 until its source has been read and its message injected. -/
def execCommit (d a b : Reg) (s : State) : Out :=
  let sh : Shape := { srcs := [a, b], dsrc := some d }
  .next (s.issue sh fun vals s =>
    let h := op vals 0
    if s.cur.mark = 1 then (s.leaveEp (epOfHandle h)).done sh
    else
      let n := (s.cur.reg d).toNat
      s.withEp h (needRing true) false fun e x s =>
        if x.badGranules n || n > x.reserved then s.trap 0x05 [h, s.cur.reg d]
        else
          s.ownPointer (op vals 1) 64 (64 * n) (fun o s =>
            let r := epOfHandle x.peer
            s.afterDrain (if x.mode = 3 then .host else drainBetween s.here r) fun s =>
              let t := s.settle s.here (homesOf (locSpad s.here o) (64 * n))
              let t := if x.mode = 3 then t.commitHost e x o n
                else
                  let start := match x.ticket with
                    | some k => if x.mode = 2 then x.slotSize * (k % x.slotCount) else x.tail.toNat % x.rlen
                    | none => x.tail.toNat % x.rlen
                  t.send (.core t.here) (.core (coreOfEp r)) .channel
                    (.commit r ((x.tail.toNat + n) % 2 ^ 16) n (t.ringData r x o start n) x.ticket)
              let u := t.modEp e fun y =>
                { y with tail := y.tail + BitVec.ofNat 16 n, reserved := y.reserved - n, ticket := none }
              (u.park 2 (.endpoint e) (.after vals 0 0) none).wake s.self 0 1))

/-- RETIRE (R297): HEAD advances; the producer gets a RETURN, an ANY channel calls the next ticket, a host its count. -/
def execRetire (a b : Reg) (s : State) : Out :=
  let sh : Shape := { srcs := [a, b] }
  .next (s.issue sh fun vals s =>
    let h := op vals 0
    let n := (op vals 1).toNat
    s.withEp h (needRing false) false fun e x s =>
      if x.badGranules n || !x.holds n then s.trap 0x05 [h, op vals 1]
      else
        let head := x.head + BitVec.ofNat 16 n
        let t := (s.modEp e fun y => { y with head := head }).leaveEp e
        if x.mode = 2 then
          ((t.modEp e fun y =>
            { y with called := y.called + 1, slots := natErase y.slots x.headTicket }).wakeCallers e).done sh
        else if x.mode = 3 then
          match s.hostEpOf e with
          | none => t.done sh
          | some j => (t.postRing j (j.granule x.rlen + 8) (leBytes head.toNat 8)).done sh
        else
          (t.send (.core s.here) (.core (coreOfEp (epOfHandle x.peer))) .channel
            (.ret (epOfHandle x.peer) head.toNat n)).done sh)

end Sys2Proof.Machine
end

