-- ==== Sys2Proof/Machine/Alt.lean ====
section
/-! DEFINITION. ALT: ALTS, ALTG, ALTT, ALTW, ALTW.F (R258, R298 to R300). -/

namespace Sys2Proof.Machine

/-- A word of the guard area (R298); a poisoned granule traps MEMERR (R216). -/
def State.guardWord (s : State) (o i : Nat) : Word := BitVec.ofNat 64 (leVal (s.mem.read (locSpad s.here (o + 8 * i)) 8))

/-- The guard area of an ALT member: its checks, then the member once the process's earlier stores have passed. -/
def State.withGuards (s : State) (a : Word) (words : State → Nat → Nat) (f : Nat → State → State) : State :=
  s.ownPointer a 8 264 fun o s =>
    s.afterDrain .corePoint fun s =>
      let t := s.settle s.here (homesOf (locSpad s.here o) 264)
      match (upTo (words t o)).find? fun i => natMem t.poison (locSpad s.here (o + 8 * i) / 8) with
      | some i => s.trap 0x08 [addAddr a (8 * i), 0]
      | none => f o t

/-- Writes a word of the guard area. -/
def State.putGuard (s : State) (o i : Nat) (v : Nat) : State :=
  s.writeAt none (some s.here) (locSpad s.here (o + 8 * i)) (leBytes v 8) none

/-- ALTS (R299). -/
def execAlts (a : Reg) (s : State) : Out :=
  let sh : Shape := { srcs := [a], alt := 1 }
  .next (s.issue sh fun vals s =>
    s.withGuards (op vals 0) (fun _ _ => 0) fun o s =>
      let t := s.putGuard o 0 0
      ({ t with cur := { t.cur with inalt := true } } : State).done sh)

/-- A guard appended (R299): the ILLOP of a seventeenth. -/
def State.addGuard (s : State) (sh : Shape) (a : Word) (v : Word) (kind : Nat) : State :=
  s.withGuards a (fun _ _ => 1) fun o s =>
    let w := s.guardWord o 0
    let n := bits w 4 0
    if n ≥ 16 then s.trap 0x01 [5]
    else (((s.putGuard o (1 + 2 * n) v.toNat).putGuard o (2 + 2 * n) kind).putGuard o 0 (w.toNat + 1)).done sh

/-- What ALTG requires: a receiving end. -/
def needReceiver (x : Endpoint) : Nat := if x.dir then 3 else 0

/-- ALTG (R299). -/
def execAltg (a b : Reg) (s : State) : Out :=
  let sh : Shape := { srcs := [a, b], alt := 2 }
  .next (s.issue sh fun vals s =>
    s.ownPointer (op vals 0) 8 264 fun _ s =>
      s.withEp (op vals 1) needReceiver true fun _ _ s => s.addGuard sh (op vals 0) (op vals 1) 0)

/-- ALTT (R299). -/
def execAltt (a b : Reg) (s : State) : Out :=
  let sh : Shape := { srcs := [a, b], alt := 2 }
  .next (s.issue sh fun vals s => s.addGuard sh (op vals 0) (op vals 1) 1)

/-- A guard as a scan finds it: its value, and whether it is a deadline. -/
abbrev Guard := Word × Bool

/-- The guards of the area, in index order. -/
def State.guards (s : State) (o n : Nat) : List Guard :=
  (upTo n).map fun i => (s.guardWord o (1 + 2 * i), (s.guardWord o (2 + 2 * i)).getLsbD 0)

/-- Whether the area is a breach (R299): COUNT of 0 or above 16, or a nonzero reserved bit. -/
def State.guardBreach (s : State) (o : Nat) : Bool :=
  let w := s.guardWord o 0
  let n := bits w 4 0
  n = 0 || n > 16 || bits w 63 5 ≠ 0 || (upTo n).any fun i => bits (s.guardWord o (2 + 2 * i)) 63 1 ≠ 0

/-- The scan has selected a guard: every WAITER the construction set is cleared, and a channel guard stays ready for the
process until it takes what is there (R258). -/
def State.select (s : State) (eps : List EpId) (g : Guard) : State :=
  let t := if g.2 then s else s.modEp (epOfHandle g.1) fun x => { x with chosen := some (s.self, s.cur.pid) }
  eps.foldl (fun (t : State) e => t.leaveOne t.self e) t

/-- Whether a guard is ready (R258, R300). -/
def State.guardReady (s : State) (g : Guard) : Bool :=
  if g.2 then s.now s.here ≥ g.1.toNat
  else
    let x := s.ep (epOfHandle g.1)
    !s.behind x && (x.offer.isSome || !x.free.isEmpty || ((x.mode = 1 || x.mode = 3) && x.committed ≥ 1) ||
      (x.mode = 2 && x.slots.contains x.headTicket))

/-- The checks of R285 on every channel guard at a scan (R300), then the rest. -/
def State.checkGuards (f : State → State) : List Guard → State → State
  | [], s => f s
  | g :: r, s => if g.2 then State.checkGuards f r s
    else s.withEp g.1 needReceiver true fun _ _ s => State.checkGuards f r s

/-- The order in which a scan visits the guards, from a start index with wrap. -/
def scanOrder (start n : Nat) : List Nat := ((upTo 16).map fun i => (start + i) % 16).filter fun i => i < n

/-- ALTW and ALTW.F: the scan, the selection, or the wait on every guard (R258, R300). -/
def State.altWait (s : State) (sh : Shape) (a : Word) (start : Nat) : State :=
  s.withGuards a (fun t o => 1 + 2 * min 16 (bits (t.guardWord o 0) 4 0)) fun o s =>
    if s.guardBreach o then s.trap 0x01 [5]
    else
      let gs := s.guards o (bits (s.guardWord o 0) 4 0)
      let eps := (gs.filter fun g => !g.2).map fun g => epOfHandle g.1
      State.checkGuards (fun s =>
        match (scanOrder start gs.length).find? fun i => s.guardReady (gs.getD i (0, false)) with
        | some i =>
          let t := s.select eps (gs.getD i (0, false))
          ({ t with cur := { t.cur with inalt := false } } : State).doneWith sh (BitVec.ofNat 64 i)
        | none =>
          let times := (gs.filter fun g => g.2).map fun g => g.1.toNat
          let dl := times.foldl (fun m x => match m with | none => some x | some y => some (min x y)) none
          (eps.foldl (fun (t : State) e => t.joinEp e) s).park 3 (.alt eps dl.isSome) .fresh dl) gs s

/-- ALTW (R300). -/
def execAltw (d a : Reg) (s : State) : Out :=
  let sh : Shape := { srcs := [a], dst := some d, alt := 2 }
  .next (s.issue sh fun vals s => s.altWait sh (op vals 0) 0)

/-- ALTW.F (R300). -/
def execAltwF (d a b : Reg) (s : State) : Out :=
  let sh : Shape := { srcs := [a, b], dst := some d, alt := 2 }
  .next (s.issue sh fun vals s => s.altWait sh (op vals 0) (bits (op vals 1) 3 0))

end Sys2Proof.Machine
end

