-- ==== Sys2Proof/Machine/Alu.lean ====
section
/-! DEFINITION. The ALU members (R112, R113): the function each computes, and one meaning per instruction. -/

namespace Sys2Proof.Machine

/-- An instruction of two sources and one destination that writes a function of the sources (R108, R113). -/
def State.alu2 (s : State) (d a b : Reg) (f : Word → Word → Word) : State :=
  let sh : Shape := { srcs := [a, b], dst := some d }
  s.issue sh fun vals s => s.doneWith sh (f (op vals 0) (op vals 1))

/-- An instruction of one source and one destination. -/
def State.alu1 (s : State) (d a : Reg) (f : Word → Word) : State :=
  let sh : Shape := { srcs := [a], dst := some d }
  s.issue sh fun vals s => s.doneWith sh (f (op vals 0))

/-- MULH: floor(Signed(x)·Signed(y) / 2^64). -/
def mulhW (x y : Word) : Word := BitVec.ofInt 64 (x.toInt * y.toInt / (2 ^ 64 : Int))

/-- MULHZ: floor(x·y / 2^64). -/
def mulhzW (x y : Word) : Word := BitVec.ofNat 64 (x.toNat * y.toNat / 2 ^ 64)

/-- DIV: truncated toward zero; by zero all ones; the most negative number by −1 itself. -/
def divW (x y : Word) : Word := if y = 0 then BitVec.allOnes 64 else BitVec.ofInt 64 (x.toInt.tdiv y.toInt)

/-- DIVZ. -/
def divzW (x y : Word) : Word := if y = 0 then BitVec.allOnes 64 else x / y

/-- REM: Signed(x) − Signed(y)·q with q the DIV quotient; x when y = 0. -/
def remW (x y : Word) : Word := if y = 0 then x else BitVec.ofInt 64 (x.toInt.tmod y.toInt)

/-- REMZ. -/
def remzW (x y : Word) : Word := if y = 0 then x else x % y

/-- SHL, SHR, SAR and ROT by n from 0 to 63. -/
def shlW (x : Word) (n : Nat) : Word := x <<< n

def shrW (x : Word) (n : Nat) : Word := x >>> n

def sarW (x : Word) (n : Nat) : Word := x.sshiftRight n

def rotW (x : Word) (n : Nat) : Word := x.rotateLeft n

/-- The shift count y[5:0]. -/
def shiftCount (y : Word) : Nat := bits y 5 0

/-- The number of zero bits below the lowest one, looking at `n` bits. -/
def trailing (x : Nat) : Nat → Nat
  | 0 => 0
  | n + 1 => if x % 2 = 1 then 0 else 1 + trailing (x / 2) n

/-- The number of one bits among the low `n`. -/
def popcount (x : Nat) : Nat → Nat
  | 0 => 0
  | n + 1 => x % 2 + popcount (x / 2) n

/-- CLZ: 64 when x = 0. -/
def clzW (x : Word) : Word := if x = 0 then 64 else BitVec.ofNat 64 (63 - Nat.log2 x.toNat)

/-- CTZ: 64 when x = 0. -/
def ctzW (x : Word) : Word := BitVec.ofNat 64 (trailing x.toNat 64)

def popcW (x : Word) : Word := BitVec.ofNat 64 (popcount x.toNat 64)

/-- The source width of SEXT and ZEXT (R55). -/
def extWidth (w : BitVec 2) : Nat := if w = 0 then 8 else if w = 1 then 16 else 32

def sextW (w : Nat) (x : Word) : Word := (x.setWidth w).signExtend 64

def zextW (w : Nat) (x : Word) : Word := (x.setWidth w).setWidth 64

/-- The bit-field operand of BFX and BFI: lo and w (R113). -/
def fieldLo (y : Word) : Nat := bits y 5 0

def fieldWidth (y : Word) : Nat := min (bits y 14 8) 64

/-- BFX. -/
def bfxW (x y : Word) : Word := BitVec.ofNat 64 (x.toNat / 2 ^ fieldLo y % 2 ^ fieldWidth y)

/-- BFI's mask: ((2^w − 1)·2^lo) mod 2^64. -/
def bfiMask (y : Word) : Word := BitVec.ofNat 64 ((2 ^ fieldWidth y - 1) * 2 ^ fieldLo y)

/-- BFI on the old destination. -/
def bfiW (old x y : Word) : Word := (old &&& ~~~bfiMask y) ||| ((x <<< fieldLo y) &&& bfiMask y)

/-- ADDA: bits [55:0] add modulo 2^56, bits [63:56] are kept (R43). -/
def addaW (x y : Word) : Word := (x.extractLsb' 56 8) ++ (x.extractLsb' 0 56 + y.extractLsb' 0 56)

/-- TAGS: y[7:0] ‖ x[55:0]. -/
def tagsW (x y : Word) : Word := (y.extractLsb' 0 8) ++ (x.extractLsb' 0 56)

/-- TAGG: x[63:56], zero-extended. -/
def taggW (x : Word) : Word := x >>> 56

/-- ADD (R113). -/
def execAdd (d a b : Reg) (s : State) : Out := .next (s.alu2 d a b fun x y => x + y)

/-- SUB (R113). -/
def execSub (d a b : Reg) (s : State) : Out := .next (s.alu2 d a b fun x y => x - y)

/-- MUL (R113). -/
def execMul (d a b : Reg) (s : State) : Out := .next (s.alu2 d a b fun x y => x * y)

/-- MULH (R113). -/
def execMulh (d a b : Reg) (s : State) : Out := .next (s.alu2 d a b fun x y => mulhW x y)

/-- MULHZ (R113). -/
def execMulhz (d a b : Reg) (s : State) : Out := .next (s.alu2 d a b fun x y => mulhzW x y)

/-- DIV (R113). -/
def execDiv (d a b : Reg) (s : State) : Out := .next (s.alu2 d a b fun x y => divW x y)

/-- DIVZ (R113). -/
def execDivz (d a b : Reg) (s : State) : Out := .next (s.alu2 d a b fun x y => divzW x y)

/-- REM (R113). -/
def execRem (d a b : Reg) (s : State) : Out := .next (s.alu2 d a b fun x y => remW x y)

/-- REMZ (R113). -/
def execRemz (d a b : Reg) (s : State) : Out := .next (s.alu2 d a b fun x y => remzW x y)

/-- AND (R113). -/
def execAndR (d a b : Reg) (s : State) : Out := .next (s.alu2 d a b fun x y => x &&& y)

/-- OR (R113). -/
def execOrR (d a b : Reg) (s : State) : Out := .next (s.alu2 d a b fun x y => x ||| y)

/-- XOR (R113). -/
def execXorR (d a b : Reg) (s : State) : Out := .next (s.alu2 d a b fun x y => x ^^^ y)

/-- ANDN (R113). -/
def execAndn (d a b : Reg) (s : State) : Out := .next (s.alu2 d a b fun x y => x &&& ~~~y)

/-- SHL (R113). -/
def execShl (d a b : Reg) (s : State) : Out := .next (s.alu2 d a b fun x y => shlW x (shiftCount y))

/-- SHR (R113). -/
def execShr (d a b : Reg) (s : State) : Out := .next (s.alu2 d a b fun x y => shrW x (shiftCount y))

/-- SAR (R113). -/
def execSar (d a b : Reg) (s : State) : Out := .next (s.alu2 d a b fun x y => sarW x (shiftCount y))

/-- ROT (R113). -/
def execRot (d a b : Reg) (s : State) : Out := .next (s.alu2 d a b fun x y => rotW x (shiftCount y))

/-- MIN (R113). -/
def execMinS (d a b : Reg) (s : State) : Out := .next (s.alu2 d a b fun x y => if x.slt y then x else y)

/-- MAX (R113). -/
def execMaxS (d a b : Reg) (s : State) : Out := .next (s.alu2 d a b fun x y => if x.slt y then y else x)

/-- MINZ (R113). -/
def execMinZ (d a b : Reg) (s : State) : Out := .next (s.alu2 d a b fun x y => if x.ult y then x else y)

/-- MAXZ (R113). -/
def execMaxZ (d a b : Reg) (s : State) : Out := .next (s.alu2 d a b fun x y => if x.ult y then y else x)

/-- BFX (R113). -/
def execBfx (d a b : Reg) (s : State) : Out := .next (s.alu2 d a b fun x y => bfxW x y)

/-- ADDA (R113). -/
def execAdda (d a b : Reg) (s : State) : Out := .next (s.alu2 d a b fun x y => addaW x y)

/-- TAGS (R113). -/
def execTags (d a b : Reg) (s : State) : Out := .next (s.alu2 d a b fun x y => tagsW x y)

/-- CLZ (R113). -/
def execClz (d a : Reg) (s : State) : Out := .next (s.alu1 d a fun x => clzW x)

/-- CTZ (R113). -/
def execCtz (d a : Reg) (s : State) : Out := .next (s.alu1 d a fun x => ctzW x)

/-- POPC (R113). -/
def execPopc (d a : Reg) (s : State) : Out := .next (s.alu1 d a fun x => popcW x)

/-- TAGG (R113). -/
def execTagg (d a : Reg) (s : State) : Out := .next (s.alu1 d a fun x => taggW x)

/-- SEXT (R113). -/
def execSext (d a : Reg) (w : BitVec 2) (s : State) : Out := .next (s.alu1 d a fun x => sextW (extWidth w) x)

/-- ZEXT (R113). -/
def execZext (d a : Reg) (w : BitVec 2) (s : State) : Out := .next (s.alu1 d a fun x => zextW (extWidth w) x)

/-- BFI (R113): the old destination is read at the start; a mapped port there traps (R108). -/
def execBfi (d a b : Reg) (s : State) : Out :=
  let sh : Shape := { srcs := [a, b], dst := some d, dsrc := some d }
  .next (s.issue sh fun vals s => s.doneWith sh (bfiW (s.cur.reg d) (op vals 0) (op vals 1)))

/-- SEL (R113). -/
def execSel (d a b : Reg) (p : PReg) (s : State) : Out :=
  .next (s.alu2 d a b fun x y => if s.cur.predicate p then x else y)

end Sys2Proof.Machine
end

