-- ==== Sys2Proof/Machine/Process.lean ====
section
/-! DEFINITION. PROC: SPAWN, STOP, YIELD, SETPRI, SLEEP, TIME, MIGR, MIGB, QMAP (R247, R248, R250, R301 to R307), and the
creation of a process (R49, R247, R303). -/

namespace Sys2Proof.Machine

/-! ## Creating a process -/

/-- The lowest free context slot of a core of a kind (R34, R247). -/
def State.freeSlot (s : State) (c : CoreId) (light : Bool) : Option Slot :=
  let x := s.core c
  let free := fun i => (s.proc (c * 2048 + i)).state = .free
  (if light then firstFree free x.lightn x.fulln else firstFree free x.fulln 0).map fun i => c * 2048 + i

/-- The next SERIAL a core gives: its spawn count, which skips 0 (R38, R283). -/
def Core.nextSerial (x : Core) : BitVec 32 := if x.spawns + 1 = 0 then 1 else x.spawns + 1

/-- A PID of origin core `c` (R38). -/
def pidOf (c : CoreId) (serial : BitVec 32) : Word :=
  BitVec.ofNat 64 (serial.toNat + c % 2048 * 2 ^ 44 + pkgOf c % 512 * 2 ^ 55)

/-- A process as it starts (R49). -/
def Proc.created (entry : Word) (g : Vector Word 32) (light supv : Bool) (domain : BitVec 12) (prio : BitVec 2)
    (rank : BitVec 32) : Proc :=
  { Proc.empty with
    state := .ready, pc := BitVec.ofNat 64 (entry.toNat % 2 ^ 56), light := light, supv := supv, domain := domain, g := g, prio := prio,
    rank := rank }

/-- Whether a core takes new processes of a domain and a job (R247, R303, R333, R338). -/
def State.takes (s : State) (c : CoreId) (domain : BitVec 12) (job : Nat) : Bool :=
  let x := s.core c
  x.cdom = domain && !x.busy && !(job ≠ 0 && x.cancels.contains job)

/-- Creates a process in a free slot of its kind, at the tail of its level (R240, R247). -/
def State.create (s : State) (c : CoreId) (child : Proc) : Option (Slot × State) :=
  match s.freeSlot c child.light with
  | none => none
  | some k =>
    let n := (s.core c).nextSerial
    let t := s.modCore c fun x => { x with spawns := n }
    some (k, (t.setProc k { child with pid := pidOf c n, since := t.now c }).toTail k)

/-- LIVE of a chunk entry goes up by one (R328). -/
def State.liveUp (s : State) (home : CoreId) (i : Nat) (job : BitVec 48) : State :=
  match ((s.core home).chunks).find? i with
  | some e =>
    if e.launch = job.zeroExtend 64 then
      s.modCore home fun x => { x with chunks := Map.put x.chunks i { e with live := e.live + 1 } }
    else s
  | none => s

/-! ## SPAWN (R302, R303) -/

/-- The core that owns an address: the core field of class 0xD, the home core of the bank of class 0xE (R45). -/
def ownerOf (c : CoreId) (a : Word) : CoreId :=
  if bits a 55 52 = 13 then pkgOf c * 2048 + bits a 51 41
  else pkgOf c * 2048 + bits a 51 49 * 256 + bits a 15 6 / 4

/-- Whether a process may not go to the owner of an address: another class or another domain (R302, R306). -/
def State.badOwner (s : State) (a : Word) : Bool :=
  let dom := s.cur.domain
  if bits a 55 52 = 13 then (s.core (ownerOf s.here a)).cdom ≠ dom
  else if bits a 55 52 = 14 then
    bits a 48 26 ≠ 0 || !s.inWindow (pkgOf s.here * 8 + bits a 51 49) dom.toNat (bits a 25 0) ||
      (s.core (ownerOf s.here a)).cdom ≠ dom
  else true

/-- Whether a placement word breaks the table of R302, or names what it may not. -/
def State.badPlacement (s : State) (w : Word) : Bool :=
  let kind := bits w 2 0
  w.getLsbD 7 || kind ≥ 6 ||
    (kind = 0 && bits w 63 8 ≠ 0) || (kind = 5 && bits w 63 8 ≠ 0) ||
    (kind = 1 && (bits w 63 19 ≠ 0 || (s.core (pkgOf s.here * 2048 + bits w 18 8)).cdom ≠ s.cur.domain)) ||
    (kind = 2 && (bits w 63 28 ≠ 0 ||
      (bits w 27 19 = pkgOf s.here && (s.core (pkgOf s.here * 2048 + bits w 18 8)).cdom ≠ s.cur.domain))) ||
    (kind = 3 && (bits w 63 11 ≠ 0 || bits w 10 8 ≥ 4)) ||
    (kind = 4 && s.badOwner (BitVec.ofNat 64 (bits w 63 8)))

/-- The cores of a tier around a core (R24, R302). -/
def tierCores (c : CoreId) (tier : Nat) : List CoreId :=
  let n := if tier = 0 then 16 else if tier = 1 then 256 else if tier = 2 then 512 else 2048
  fromTo (c / n * n) n

/-- The free slots of a kind that a core last reported (R326). -/
def State.reported (s : State) (c : CoreId) (light : Bool) : Nat :=
  match ((s.base (baseOfDie (dieOfCore c))).slots).find? c with
  | some (f, l, _, _) => if light then l else f
  | none => 0

/-- The core KIND 3 chooses (R302, R303): the most free slots reported, the lowest-numbered among equals. -/
def State.tierChoice (s : State) (tier : Nat) (light : Bool) : Option CoreId :=
  ((tierCores s.here tier).filter fun c => (s.core c).cdom = s.cur.domain && !s.isService c && !(s.core c).busy).foldl
    (fun best c => match best with
      | none => some c
      | some b => if s.reported c light > s.reported b light then some c else some b) none

/-- The target core of a placement word of KIND 0 to 4. -/
def State.spawnTarget (s : State) (w : Word) : Option CoreId :=
  let kind := bits w 2 0
  if kind = 0 then some s.here
  else if kind = 1 then some (pkgOf s.here * 2048 + bits w 18 8)
  else if kind = 2 then some (bits w 27 19 * 2048 + bits w 18 8)
  else if kind = 3 then s.tierChoice (bits w 10 8) (w.getLsbD 3)
  else some (ownerOf s.here (BitVec.ofNat 64 (bits w 63 8)))

/-- g1 to g7 as the child receives them. -/
def Proc.passed (p : Proc) : Vector Word 32 :=
  Vector.ofFn fun i => if 1 ≤ i.val && i.val ≤ 7 then p.g[i] else 0

/-- The child a SPAWN asks for (R303). -/
def Proc.child (p : Proc) (entry w : Word) : Proc :=
  { Proc.created entry p.passed (w.getLsbD 3) (w.getLsbD 6) p.domain (BitVec.ofNat 2 (bits w 5 4)) p.rank with
    job := p.job, chome := p.chome, chidx := p.chidx, chv := p.chv, chpkg := p.chpkg }

/-- The drain class of the scope that spans two cores (R183). -/
def drainCores (c d : CoreId) : Drain := if c = d then .corePoint else if pkgOf c = pkgOf d then .package else .podnow

/-- A message of a job sent and not yet answered (R334). -/
def State.track (s : State) (c : CoreId) (job : Nat) : State :=
  if job = 0 then s else s.modCore c fun x => { x with inFlight := x.inFlight ++ [job] }

/-- SPAWN with KIND 5 (R303, R323): a launch message to the master distributor. -/
def State.spawnLaunch (s : State) (vals : List Word) : State :=
  let a := op vals 0
  if bits a 55 0 % 64 ≠ 0 then s.trap 0x03 [a]
  else
    s.ownPointer a 64 64 fun o s =>
      s.afterDrain .package fun s =>
        let loc := locSpad s.here o
        if s.poisoned loc 64 then s.trap 0x08 [a, 0]
        else
          let l : BitVec 512 := BitVec.ofNat 512 (leVal (s.mem.read loc 64))
          let p := pkgOf s.here
          (s.send (.core s.here) (.dist p (s.pkg p).master) .channel
            (.device l s.self s.cur.pid s.cur.supv s.cur.domain)).parkAfter 14 .remote vals none

/-- SPAWN (R302, R303). -/
def execSpawn (d a b : Reg) (s : State) : Out :=
  let sh : Shape := { srcs := [a, b], dst := some d }
  .next (s.issue sh fun vals s =>
    let entry := op vals 0
    let w := op vals 1
    if s.cur.resumed then s.doneWith sh s.cur.answer
    else if s.badPlacement w then s.trap 0x05 [w]
    else if !s.cur.supv && (w.getLsbD 6 || bits w 5 4 ≤ 1) then s.trap 0x02 []
    else if bits w 2 0 = 5 then s.spawnLaunch vals
    else if bits entry 1 0 ≠ 0 then s.trap 0x03 [entry]
    else
      match s.spawnTarget w with
      | none => s.doneWith sh 0
      | some c =>
        if !s.reachable (pkgOf s.here) (pkgOf c) then s.doneWith sh 0
        else
          s.reachCore c w fun s =>
            s.afterDrain (drainCores s.here c) fun s =>
              let child := s.cur.child entry w
              if c = s.here && (!s.cur.chv || s.cur.chunkHome = s.here) then
                if s.takes c s.cur.domain s.cur.jobKey then
                  match s.create c child with
                  | none => s.doneWith sh 0
                  | some (k, t) =>
                    let u := if child.chv then t.liveUp s.here child.chidx.toNat child.job else t
                    u.doneWith sh (u.handleOf k)
                else s.doneWith sh 0
              else
                ((s.track s.here s.cur.jobKey).send (.core s.here) (.core c) .channel
                  (.remote (.spawn child) s.self s.cur.pid)).parkAfter 14 .remote vals none)

/-! ## STOP, YIELD, SLEEP, TIME (R304) -/

/-- STOP (R149, R304): parks with WAITK 5 while a command of the process is queued, then ends it. -/
def execStop (s : State) : Out :=
  .next (s.issue {} fun _ s =>
    if (s.commandsOf s.self).isEmpty then s.endProc s.self else s.park 5 .engines .fresh none)

/-- The running process goes to the tail of its level, ready (R240). -/
def State.yieldCur (s : State) : State :=
  if s.cur.state ≠ .running then s
  else
    let t := s.modCore s.here fun x => { x with running := none }
    ({ t with cur := { t.cur with state := .ready, slice := none, overrun := 0, lastRan := t.now t.here } } : State).toTail
      t.self

/-- YIELD (R304): USED becomes 0, DEBT is unchanged. -/
def execYield (s : State) : Out :=
  .next (s.issue {} fun _ s =>
    State.yieldCur (State.done { s with cur := { s.cur with used := 0 } } {}))

/-- SLEEP (R304). -/
def execSleep (a : Reg) (s : State) : Out :=
  let sh : Shape := { srcs := [a] }
  .next (s.issue sh fun vals s =>
    if s.cur.resumed || s.now s.here ≥ (op vals 0).toNat then s.done sh
    else s.parkAfter 8 .sleep vals (some (op vals 0).toNat))

/-- TIME (R304). -/
def execTime (d : Reg) (s : State) : Out :=
  let sh : Shape := { dst := some d }
  .next (s.issue sh fun _ s => s.doneWith sh (BitVec.ofNat 64 (s.now s.here)))

/-! ## SETPRI (R305) -/

/-- A process takes a level: one that is ready moves to the tail of its new level (R305). -/
def State.setLevel (s : State) (k : Slot) (level : BitVec 2) : State :=
  let p := s.proc k
  if p.prio = level then s
  else if p.state = .ready || p.state = .arriving then
    let t := s.modCore (coreOf k) fun x =>
      { x with ready0 := natErase x.ready0 k, ready1 := natErase x.ready1 k, ready2 := natErase x.ready2 k,
               ready3 := natErase x.ready3 k }
    (t.modProc k fun q => { q with prio := level }).toTail k
  else s.modProc k fun q => { q with prio := level }

/-- Whether an issuer holds the supervisor right over a slot's process (R284). -/
def State.rightOver (s : State) (supv monitor : Bool) (domain : BitVec 12) (k : Slot) : Bool :=
  monitor || (supv && (s.proc k).domain = domain)

/-- SETPRI of another process at its core (R305). -/
def State.setpri (s : State) (h level : Word) (supv monitor : Bool) (domain : BitVec 12) : State × Answer :=
  let k := slotOfHandle h
  if s.dead h then (s, .nothing)
  else if !s.rightOver supv monitor domain k then (s, .trap 0x02 [])
  else (s.setLevel k (BitVec.ofNat 2 level.toNat), .nothing)

/-- An operation on a process of another core, or of this one: the answer is acted on here, or asked for (R308). -/
def State.supervise (s : State) (sh : Shape) (vals : List Word) (h : Word) (r : RemoteOp)
    (here : State → State × Answer) (absent : Answer) : State :=
  let c := coreOf (slotOfHandle h)
  let finish := fun (t : State) (x : Answer) =>
    match x with
    | .value v => t.doneWith sh v
    | .nothing => t.doneWith { sh with dst := none } 0
    | .trap cause ds => t.trap cause ds
  if s.cur.mark = 1 then s.doneWith sh s.cur.answer
  else if s.cur.mark = 2 then s.doneWith { sh with dst := none } 0
  else if c = s.here then (let (t, x) := here s; finish t x)
  else if !s.reachable (pkgOf s.here) (pkgOf c) then finish s absent
  else
    s.reachCore c h fun s =>
      (s.send (.core s.here) (.core c) .channel (.remote r s.self s.cur.pid)).parkAfter 14 .remote vals none

/-- SETPRI (R305). -/
def execSetpri (a b : Reg) (s : State) : Out :=
  let sh : Shape := { srcs := [a, b] }
  .next (s.issue sh fun vals s =>
    let h := op vals 0
    let level := op vals 1
    if s.cur.resumed then s.done sh
    else if level.toNat > 3 then s.trap 0x05 [h, level]
    else if a = 0 || h = s.handleOf s.self then
      if level.toNat ≤ 1 && !s.cur.supv then s.trap 0x02 []
      else ({ s with cur := { s.cur with prio := BitVec.ofNat 2 level.toNat } } : State).done sh
    else
      s.supervise sh vals h (.setpri h level s.cur.supv (s.isMonitor s.self) s.cur.domain)
        (fun s => s.setpri h level s.cur.supv (s.isMonitor s.self) s.cur.domain) .nothing)

/-! ## Migration (R248, R250, R306) -/

/-- The context as it travels: past its MIGR or MIGB, with what it has waited on left behind (R50). FMTCTL and POOL, which a
light process's record has no field for, travel too (DESIGN CHOICE, log 114). -/
def Proc.travelling (p : Proc) : Proc :=
  { p with pc := nextPc p.pc, phase := .fresh, inflight := none, lastWord := p.iword, wait := .none, due := none, waitk := 0,
           held := none, deadline := none, engaged := none, resident := false, slice := none, overrun := 0 }

/-- Sends the context to a core; the process stays parked with WAITK 10 (R248). -/
def State.sendContext (s : State) (k : Slot) (c : CoreId) : State :=
  (s.track (coreOf k) (s.proc k).jobKey).send (.core (coreOf k)) (.core c) .channel (.migrate (s.proc k).travelling k)

/-- MIGR and MIGB once the destination is known: the drain of R177, then the journey. -/
def State.migrateTo (s : State) (sh : Shape) (c : CoreId) (vals : List Word) : State :=
  s.afterDrain .package fun s =>
    if c = s.here then s.done sh
    else
      let t := s.parkAfter 10 (.migration c) vals none
      t.sendContext t.self c

/-- MIGR (R306). -/
def execMigr (a : Reg) (s : State) : Out :=
  let sh : Shape := { srcs := [a] }
  .next (s.issue sh fun vals s =>
    let x := op vals 0
    if bits x 55 52 ≠ 12 && s.badOwner x then s.trap 0x05 [x]
    else if !s.cur.light then s.trap 0x05 [x, 3]
    else if bits x 55 52 = 12 then s.migrateTo sh s.here vals
    else s.reachCore (ownerOf s.here x) x fun s => s.migrateTo sh (ownerOf s.here x) vals)

/-- LOADi of the load register (R40). -/
def loadOf (w : Word) (i : Nat) : Nat := bits w (4 * i + 3) (4 * i)

/-- The core MIGB chooses (R250). -/
def State.leastLoaded (s : State) (c : CoreId) : CoreId :=
  let w := (s.cluster (clusterOf c)).loadreg
  let i := (upTo 16).foldl (fun best j => if loadOf w j < loadOf w best then j else best) 0
  if loadOf w i = 15 then c else clusterOf c * 16 + i

/-- MIGB (R250, R306). -/
def execMigb (s : State) : Out :=
  .next (s.issue {} fun vals s =>
    if !s.cur.light then s.trap 0x05 [0, 3]
    else s.reachCore (s.leastLoaded s.here) 0 fun s => s.migrateTo {} (s.leastLoaded s.here) vals)

/-! ## QMAP (R307) -/

/-- A port's endpoint is released. -/
def State.unmap (s : State) (i : Nat) : State :=
  match s.cur.qeps.find? i with
  | none => s
  | some e =>
    let t := s.modEp e fun x => { x with portv := false }
    { t with cur := { t.cur with qeps := t.cur.qeps.del i } }

/-- What a QMAP binding requires: word class, MODE 0 or 1, the direction. -/
def needPort (dir : Bool) (x : Endpoint) : Nat :=
  if x.cls ≠ 0 then 1 else if x.mode > 1 then 2 else if x.dir ≠ dir then 3 else 0

/-- QMAP.PUSH and QMAP.POP. -/
def State.qmap (s : State) (a : Reg) (i : BitVec 3) (push : Bool) : State :=
  s.issue { full := true } fun _ s =>
    let h := s.cur.reg a
    s.withEp h (needPort push) false fun e x s =>
      if coreOfEp (epOfHandle x.peer) ≠ s.here then s.trap 0x0B [h, 2]
      else if x.portv then s.trap 0x05 [h, 5]
      else
        let t := (s.unmap i.toNat).modEp e fun y => { y with port := i, portv := true }
        let q := t.cur
        let m : BitVec 8 := 1#8 <<< i.toNat
        let dir := if push then q.qdir ||| m else q.qdir &&& ~~~m
        (State.leaveEp { t with cur := { q with qen := q.qen ||| m, qdir := dir, qeps := q.qeps.put i.toNat e } } e).done {}

/-- QMAP.PUSH (R307). -/
def execQmapPush (a : Reg) (i : BitVec 3) (s : State) : Out := .next (s.qmap a i true)

/-- QMAP.POP (R307). -/
def execQmapPop (a : Reg) (i : BitVec 3) (s : State) : Out := .next (s.qmap a i false)

/-- QMAP.OFF (R307). -/
def execQmapOff (i : BitVec 3) (s : State) : Out :=
  .next (s.issue { full := true } fun _ s =>
    let t := s.unmap i.toNat
    ({ t with cur := { t.cur with qen := t.cur.qen &&& ~~~(1#8 <<< i.toNat) } } : State).done {})

end Sys2Proof.Machine
end

