-- ==== Sys2Proof/Machine/Sfu.lean ====
section
/-! DEFINITION. Sys2Proof/Machine/Sfu.lean: the special functions of VSFU and TEW (06 R140, R141; 07 R158). The special
and the exact cases are computed. Between them the manual states a bound and no value: the function is computed to more
than 200 bits, the codes the bound allows are listed, and a free value of Config picks one of them (log 5). -/

namespace Sys2Proof.Machine.Sfu

/-- Fraction bits of the fixed-point series. -/
def prec : Nat := 320

/-- atanh(1/n) · 2^p by its series, `k` terms. -/
def atanhInv (p n : Nat) : Nat → Nat
  | 0 => 0
  | k + 1 => atanhInv p n k + 2 ^ p / ((2 * k + 1) * n ^ (2 * k + 1))

/-- atan(1/n) · 2^p by its alternating series, `k` terms. -/
def atanInv (p n : Nat) : Nat → Int
  | 0 => 0
  | k + 1 =>
    let t : Int := (2 ^ p / ((2 * k + 1) * n ^ (2 * k + 1)) : Nat)
    if k % 2 = 0 then atanInv p n k + t else atanInv p n k - t

/-- ln 2 · 2^p. -/
def ln2Fix (p : Nat) : Nat := 2 * atanhInv p 3 (p / 3 + 2)

/-- π · 2^p, by Machin's formula. -/
def piFix (p : Nat) : Int := 16 * atanInv p 5 (p / 4 + 2) - 4 * atanInv p 239 (p / 15 + 2)

/-- Σ y^i / i! over i below k, in fixed point, from the term `i` on. -/
def expSeries (y : Nat) : Nat → Nat → Nat
  | 0, _ => 2 ^ prec
  | k + 1, i => 2 ^ prec + y * expSeries y k (i + 1) / 2 ^ prec / i

/-- sin (odd = true) or cos of r, 0 ≤ r < 2, in fixed point: the alternating series from the term of index `i`. -/
def trigSeries (r2 : Nat) : Nat → Nat → Int
  | 0, _ => (2 ^ prec : Nat)
  | k + 1, i => (2 ^ prec : Nat) - (r2 : Int) * trigSeries r2 k (i + 2) / (2 ^ prec : Nat) / ((i + 1) * (i + 2) : Nat)

/-- floor(x · 2^p) of a finite value. -/
def toFix (p : Nat) (neg : Bool) (m : Nat) (e : Int) : Int :=
  let sh := e + p
  let v : Int := if 0 ≤ sh then (m * 2 ^ sh.toNat : Nat) else (if neg then -(-(m : Int) / (2 ^ (-sh).toNat : Nat)) else (m / 2 ^ (-sh).toNat : Nat))
  if neg then -v else v

/-- 2^x of a finite value. -/
def exp2Num (neg : Bool) (m : Nat) (e : Int) : XVal :=
  if 20 < floorLog2 m e && m ≠ 0 then .num false 1 (if neg then -1000000 else 1000000) true
  else
    let f := toFix prec neg m e
    let k := f / (2 ^ prec : Nat)
    let fr := (f % (2 ^ prec : Nat)).toNat
    let y := fr * ln2Fix prec / 2 ^ prec
    .num false (expSeries y 90 1) (k - prec) true

/-- The fraction bits of log2 of y, 1 ≤ y < 2, by repeated squaring. -/
def log2Bits : Nat → Nat → Nat → Nat
  | 0, _, acc => acc
  | k + 1, y, acc =>
    let y2 := y * y / 2 ^ 640
    if 2 ^ 641 ≤ y2 then log2Bits k (y2 / 2) (2 * acc + 1) else log2Bits k y2 (2 * acc)

/-- log2 of m · 2^e, m ≠ 0. -/
def log2Num (m : Nat) (e : Int) : XVal :=
  let l := Nat.log2 m
  let y := if l ≤ 640 then m * 2 ^ (640 - l) else m / 2 ^ (l - 640)
  let v : Int := ((l : Int) + e) * (2 ^ 200 : Nat) + (log2Bits 200 y 0 : Nat)
  .num (v < 0) v.natAbs (-200) (m ≠ 2 ^ l)

/-- A value a hair below m · 2^e in magnitude. -/
def justBelow (neg : Bool) (m : Nat) (e : Int) : XVal := .num neg (m * 2 ^ 200 - 1) (e - 200) true

/-- sin or cos of a finite value. -/
def trigNum (isCos : Bool) (neg : Bool) (m : Nat) (e : Int) : XVal :=
  if floorLog2 m e < -70 then
    if isCos then justBelow false 1 0 else justBelow neg m e
  else
    let p := prec + 1100
    let pi := piFix p
    let x := toFix p neg m e
    let n := 2 * x / pi
    let r := ((x - n * pi / 2) / (2 ^ 1100 : Nat)).toNat
    let r2 := r * r / 2 ^ prec
    let c := trigSeries r2 60 0
    let s := (r : Int) * trigSeries r2 60 1 / (2 ^ prec : Nat)
    let q := (n + if isCos then 1 else 0) % 4
    let v := if q = 0 then s else if q = 1 then c else if q = 2 then -s else -c
    .num (v < 0) v.natAbs (-(prec : Int)) true

/-- log2(e). -/
def log2e : XVal := .num false (2 ^ (2 * prec) / ln2Fix prec) (-(prec : Int)) true

/-- e^x of a finite value. -/
def expNum (neg : Bool) (m : Nat) (e : Int) : XVal :=
  match mulX (.num neg m e false) log2e with
  | .num n' m' e' _ => exp2Num n' m' e'
  | x => x

/-- 1. -/
def one : XVal := .num false 1 0 false

/-- The function's value at a finite nonzero input outside the special cases, to more than 200 bits. -/
def exact (fn : Nat) (neg : Bool) (m : Nat) (e : Int) : XVal :=
  match fn with
  | 0 => exp2Num neg m e
  | 1 => log2Num m e
  | 3 =>
    match divX one (.num false m e false) with
    | .num n m' e' s =>
      match sqrtX (.num n (m' * 2 ^ 512) (e' - 512) s) with
      | .num n2 m2 e2 s2 => .num n2 m2 e2 (s || s2)
      | x => x
    | x => x
  | 4 => trigNum false neg m e
  | 5 => trigNum true neg m e
  | 6 =>
    if floorLog2 m e < -70 then justBelow neg m e
    else
      let q := expNum true m (e + 1)
      match divX (addX .rne one q.negate) (addX .rne one q) with
      | .num _ m' e' _ => .num neg m' e' true
      | x => x
  | _ =>
    let q := expNum true m e
    match (if neg then divX q (addX .rne one q) else divX one (addX .rne one q)) with
    | .num _ m' e' _ => .num false m' e' true
    | x => x

/-- The special inputs and the exact cases of R140: the exact result with its flags, or none. -/
def special (fn : Nat) (F : FFmt) (x : XVal) : Option (Nat × FFlags) :=
  let code (v : XVal) (fl : FFlags) : Option (Nat × FFlags) := some ((roundNE F false v).1, fl)
  match fn, x with
  | 0, .inf neg => code (if neg then .zero false else .inf false) .none
  | 0, .num neg m e _ =>
    if m = 0 then code one .none
    else
      let k := toFix 0 neg m e
      let isInt := 0 ≤ e || m % 2 ^ (-e).toNat = 0
      let v := XVal.pow2 k
      let (c, fl) := roundNE F false v
      if isInt && fl = .none then some (c, .none) else none
  | 1, .inf neg => if neg then some (F.defaultNaN, .nv) else code (.inf false) .none
  | 1, .num neg m e _ =>
    if m = 0 then code (.inf true) .dz
    else if neg then some (F.defaultNaN, .nv)
    else if m = 2 ^ Nat.log2 m then code (.ofInt ((Nat.log2 m : Int) + e)) .none
    else none
  | 3, .inf neg => if neg then some (F.defaultNaN, .nv) else code (.zero false) .none
  | 3, .num neg m e _ =>
    if m = 0 then code (.inf neg) .dz
    else if neg then some (F.defaultNaN, .nv)
    else if m = 2 ^ Nat.log2 m && ((Nat.log2 m : Int) + e) % 2 = 0 then
      code (.pow2 (-(((Nat.log2 m : Int) + e) / 2))) .none
    else none
  | 4, .inf _ => some (F.defaultNaN, .nv)
  | 5, .inf _ => some (F.defaultNaN, .nv)
  | 6, .inf neg => code (.num neg 1 0 false) .none
  | 7, .inf neg => code (if neg then .zero false else one) .none
  | 4, .num neg 0 _ _ => code (.zero neg) .none
  | 5, .num _ 0 _ _ => code one .none
  | 6, .num neg 0 _ _ => code (.zero neg) .none
  | 7, .num _ 0 _ _ => code (.pow2 (-1)) .none
  | _, _ => none

/-- The order of codes of F as the values they name: a code as a signed integer. -/
def codeKey (F : FFmt) (c : Nat) : Int :=
  let mag : Int := (c % 2 ^ (F.ebits + F.mbits) : Nat)
  if c / 2 ^ (F.ebits + F.mbits) % 2 = 1 then -mag else mag

/-- The code of a key; a zero keeps the sign `neg`. -/
def keyCode (F : FFmt) (neg : Bool) (k : Int) : Nat :=
  F.signBit (k < 0 || (k = 0 && neg)) + k.natAbs

/-- Units in the last place that R141 allows a function. -/
def ulpsOf (fn : Nat) (F : FFmt) : Nat :=
  if fn = 4 || fn = 5 then 2
  else if fn = 0 || fn = 1 || fn = 3 then (if F = .fp64 then 2 else 1)
  else (if F = .fp64 then 3 else 2)

/-- The error bound of R141 around a result of the magnitude 2^lg: so many units in the last place of F there, or the
absolute bound of SIN and COS where it is larger; for a large input of theirs the absolute bound alone. -/
def bound (fn : Nat) (F : FFmt) (big : Bool) (lg : Int) : XVal :=
  let rel : XVal := .num false (ulpsOf fn F) (max lg F.emin - F.mbits) false
  if fn = 4 || fn = 5 then
    let abs : XVal := .pow2 (if F = .fp64 then (if big then -20 else -53) else if big then -10 else -24)
    if big || ltX rel abs then abs else rel
  else rel

/-- The binary logarithm of a finite value's magnitude, rounded down; that of the smallest normal value below it. -/
def lgOf (F : FFmt) (x : XVal) : Int :=
  match x with
  | .num _ m e _ => if m = 0 then F.emin else max (floorLog2 m e) F.emin
  | _ => F.emin

/-- The magnitude of a value. -/
def magX (x : XVal) : XVal := match x with | .num _ m e s => .num false m e s | x => x

/-- A computed value with its sticky tail made a low bit of its own, so that exact comparisons with codes and bounds, which
end above that bit, see the tail. -/
def tailed (x : XVal) : XVal :=
  match x with
  | .num neg m e true => .num neg (2 * m + 1) (e - 1) true
  | x => x

/-- Whether a code lies within R141's bound of the exact value, in units in the last place of the code itself. -/
def within (fn : Nat) (F : FFmt) (big : Bool) (y : XVal) (c : Nat) : Bool :=
  let v := F.decode c
  !ltX (bound fn F big (lgOf F v)) (magX (addX .rne v y.negate))

/-- An approximation of R141 in FP32 or FP64: a code the bound allows, picked by the free value, and whether it stands for
a tiny value: one that rounds to the smallest normal code may be, and the free value says so. Results of SIN and COS of
large inputs lie in [−1, 1]. -/
def approx (fn ty : Nat) (F : FFmt) (ftz : Bool) (input : Nat) (neg : Bool) (m : Nat) (e : Int) : Nat × Bool :=
  let y := tailed (exact fn neg m e)
  let (c, fl) := roundNE F false y
  let big := (16 < floorLog2 m e || (floorLog2 m e = 16 && m ≠ 2 ^ Nat.log2 m)) && (fn = 4 || fn = 5)
  let d := bound fn F big (lgOf F y + 1)
  let lo := codeKey F (round F .rup false (addX .rne y d.negate)).1
  let hi := codeKey F (round F .rdn false (addX .rne y d)).1
  let hi := if fl &&& .of ≠ 0 then codeKey F c else hi
  let cap : Int := codeKey F (roundNE F false one).1
  let lo := if big then max lo (-cap) else lo
  let hi := if big then min hi cap else hi
  let n := (hi - lo + 1).toNat
  let pick := Config.sfuPick fn ty ftz input
  let w := if n = 0 then c else keyCode F y.neg (lo + (pick % n : Nat))
  let w := if w = c || within fn F big y w then w else c
  let least := 2 ^ F.mbits
  let mag := w % 2 ^ (F.ebits + F.mbits)
  (w, mag < least || (mag = least && pick / n % 2 = 1))

/-- A lane of VSFU in FP64 or FP32, RCP apart (R140, R141): a special or exact case, or an approximation. R140 gives OF and
UF to the rounding of an approximation whose value before it is not stated: an infinite code raises OF, a tiny value UF
(log 113). -/
def wideLane (fn ty : Nat) (F : FFmt) (ftz : Bool) (input : Nat) (x : XVal) : Nat × FFlags :=
  match special fn F x, x with
  | some r, _ =>
    if ftz && F.isSubnormal r.1 then (F.signBit (x.neg && fn ≠ 0), r.2 ||| .uf ||| .nx) else r
  | none, .num neg m e _ =>
    let (w, tiny) := approx fn ty F ftz input neg m e
    let v := F.decode w
    let fl : FFlags := .nx ||| (if v.isInf then .of else .none) ||| (if tiny then .uf else .none)
    if ftz && F.isSubnormal w then (F.signBit v.neg, fl) else (w, fl)
  | none, _ => (F.defaultNaN, .nv)

/-- One lane of VSFU, or one element of TEW (R140, R141, R158): the code and the flags. `rm` serves RCP alone. A .bf16 or
.f16 lane outside its own special and exact cases is the .f32 lane's result for its input, rounded with RNE. -/
def lane (fn ty : Nat) (rm : Rm) (ftz : Bool) (input : Nat) : Nat × FFlags :=
  let T := FFmt.ofType ty
  let x := T.read ftz input
  match x with
  | .nan neg sig pay pw => (nanConv T neg pay pw, if sig then .nv else .none)
  | _ =>
    if fn = 2 then
      let dz : FFlags := if x.isZero then .dz else .none
      let (c, fl) := roundF T rm ftz (divX one x)
      (c, fl ||| dz)
    else if ty ≤ 1 then wideLane fn ty T ftz input x
    else
      match special fn T x with
      | some r =>
        if ftz && T.isSubnormal r.1 then (T.signBit (x.neg && fn ≠ 0), r.2 ||| .uf ||| .nx) else r
      | none =>
        let c32 := (roundNE .fp32 false x).1
        let (w, f1) := wideLane fn 1 .fp32 ftz c32 x
        let v := FFmt.decode .fp32 w
        let (c, f2) := roundNE T false v
        let fl : FFlags := .nx ||| (f1 &&& (.of ||| .uf)) ||| (f2 &&& (.of ||| .uf))
        if ftz && T.isSubnormal c then (T.signBit v.neg, fl ||| .uf) else (c, fl)

end Sys2Proof.Machine.Sfu
end

