-- ==== Sys2Proof/Machine/Vector.lean ====
section
/-! DEFINITION. The shared operations of the vector unit (R127 to R130): lanes, masks, results. -/

namespace Sys2Proof.Machine

/-- Lane `i` of `w` bits of a vector register (R127). -/
def lane (v : BitVec 512) (w i : Nat) : Nat := v.toNat / 2 ^ (w * i) % 2 ^ w

/-- Lanes of `w` bits joined, lane 0 lowest. -/
def joinLanes (w : Nat) : List Nat → Nat
  | [] => 0
  | x :: r => x % 2 ^ w + 2 ^ w * joinLanes w r

/-- A register made of lanes of `w` bits; lanes not given are zero. -/
def ofLanes (w : Nat) (ls : List Nat) : BitVec 512 := BitVec.ofNat 512 (joinLanes w ls)

/-- The mask register of a 4-bit m field: m[5:3] (R128). -/
def maskReg (m : BitVec 4) : PReg := m.setWidth 3

/-- Whether lane `i` of `w` bits is active under a mask value (R128). -/
def activeLane (M : Word) (w i : Nat) : Bool := M.getLsbD (w / 8 * i)

/-- The union of flags. -/
def orFlags (l : List (Nat × FFlags)) : FFlags := l.foldl (fun f r => f ||| r.2) .none

/-- The lanes of VMasked (R128): an active lane from `f`, an inactive one zero or old. -/
def maskedLanes (M : Word) (zero : Bool) (old : BitVec 512) (w : Nat) (f : Nat → Nat × FFlags) : List (Nat × FFlags) :=
  (upTo (512 / w)).map fun i =>
    if activeLane M w i then f i else if zero then (0, .none) else (lane old w i, .none)

/-- A vector result written, with its flags, at the end of an instruction (R128, R129). -/
def State.doneVec (s : State) (sh : Shape) (d : VReg) (v : BitVec 512) (fl : FFlags) : State :=
  let t := s.raise fl
  ({ t with cur := t.cur.setVec d v } : State).done sh

/-- VMasked(Op) of R128. -/
def State.vmasked (s : State) (sh : Shape) (d : VReg) (w : Nat) (m : BitVec 4) (f : Nat → Nat × FFlags) : State :=
  let rs := maskedLanes (s.cur.mask (maskReg m)) (m.getLsbD 3) (s.cur.vec d) w f
  s.doneVec sh d (ofLanes w (rs.map (·.1))) (orFlags rs)

/-- The shape of an instruction of the vector groups without general registers (R27, R28). -/
def Shape.vector : Shape := { full := true, vec := true }

/-- Whether a VR type code is a signed integer type (R65). -/
def signedType (t : BitVec 4) : Bool := 8 ≤ t.toNat && t.toNat ≤ 11

/-- The floating format of VR type codes 0 to 7 (R65). -/
def vrFloat (t : BitVec 4) : FFmt :=
  match t.toNat with
  | 4 => .e4m3
  | 5 => .e5m2
  | 6 => .e3m2
  | 7 => .e2m3
  | n => FFmt.ofType n

/-- The order of two integer lanes by type (R131). -/
def laneLess (signed : Bool) (w x y : Nat) : Bool := if signed then signedOf w x < signedOf w y else x < y

end Sys2Proof.Machine
end

