-- ==== Sys2Proof/Machine/Vmisc.lean ====
section
/-! DEFINITION. Special functions, reduction and data movement: VMISC (R140 to R143). -/

namespace Sys2Proof.Machine

/-- VSFU (R140, R141). -/
def execVsfu (d a : VReg) (f : BitVec 5) (t m : BitVec 4) (s : State) : Out :=
  let w := laneBits t.toNat
  .next (s.issue .vector fun _ s =>
    let va := s.cur.vec a
    s.vmasked .vector d w m fun i => Sfu.lane f.toNat t.toNat s.cur.rm s.cur.ftz (lane va w i))

/-- The identity of VRED (R105). -/
def redIdentity (o : Nat) (t : BitVec 4) : Nat :=
  let w := laneBits t.toNat
  if t.toNat ≤ 3 then
    let F := FFmt.ofType t.toNat
    if o = 0 then F.signBit true else F.signBit (o = 2) + (2 ^ F.ebits - 1) * 2 ^ F.mbits
  else if o = 0 then 0
  else if o = 1 then (if signedType t then 2 ^ (w - 1) - 1 else 2 ^ w - 1)
  else (if signedType t then 2 ^ (w - 1) else 0)

/-- One step of VRED's tree (R105, R142). -/
def redOp (o : Nat) (t : BitVec 4) (rm : Rm) (ftz : Bool) (x y : Nat) : Nat × FFlags :=
  let w := laneBits t.toNat
  if t.toNat ≤ 3 then
    let F := FFmt.ofType t.toNat
    if o = 0 then farith .add F rm ftz x y 0 else fminmax (o = 2) F ftz x y
  else if o = 0 then ((x + y) % 2 ^ w, .none)
  else if o = 1 then (if laneLess (signedType t) w x y then x else y, .none)
  else (if laneLess (signedType t) w x y then y else x, .none)

/-- VRED (R142). -/
def execVred (d a : VReg) (o : BitVec 5) (t : BitVec 4) (m : BitVec 3) (s : State) : Out :=
  let w := laneBits t.toNat
  .next (s.issue .vector fun _ s =>
    let va := s.cur.vec a
    let M := s.cur.mask m
    let ls := (upTo (512 / w)).map fun i => if activeLane M w i then lane va w i else redIdentity o.toNat t
    let r := treeReduce (redOp o.toNat t s.cur.rm s.cur.ftz) (Nat.log2 (512 / w)) ls .none
    s.doneVec .vector d (ofLanes w [r.1]) r.2)

/-- VPERM (R143). -/
def execVperm (d a b : VReg) (t m : BitVec 4) (s : State) : Out :=
  let w := laneBits t.toNat
  .next (s.issue .vector fun _ s =>
    let va := s.cur.vec a
    let vb := s.cur.vec b
    s.vmasked .vector d w m fun i => (lane va w (lane vb w i % (512 / w)), .none))

/-- VBCAST (R143). -/
def execVbcast (d : VReg) (a : Reg) (t m : BitVec 4) (s : State) : Out :=
  let w := laneBits t.toNat
  let sh : Shape := { srcs := [a], full := true, vec := true }
  .next (s.issue sh fun vals s => s.vmasked sh d w m fun _ => ((op vals 0).toNat % 2 ^ w, .none))

/-- VEXT (R143). -/
def execVext (d : Reg) (a : VReg) (b : Reg) (t : BitVec 4) (s : State) : Out :=
  let w := laneBits t.toNat
  let sh : Shape := { srcs := [b], dst := some d, full := true, vec := true }
  .next (s.issue sh fun vals s =>
    let x := lane (s.cur.vec a) w ((op vals 0).toNat % (512 / w))
    s.doneWith sh (if signedType t then BitVec.ofInt 64 (signedOf w x) else BitVec.ofNat 64 x))

/-- VINS (R143). -/
def execVins (d : VReg) (a b : Reg) (t : BitVec 4) (s : State) : Out :=
  let w := laneBits t.toNat
  let sh : Shape := { srcs := [a, b], full := true, vec := true }
  .next (s.issue sh fun vals s =>
    let old := s.cur.vec d
    let j := (op vals 1).toNat % (512 / w)
    s.doneVec sh d (ofLanes w ((upTo (512 / w)).map fun i => if i = j then (op vals 0).toNat else lane old w i)) .none)

/-- The lane of VHASH (R143). -/
def hashLane (w x y : Nat) : Nat :=
  let h := x * (y ||| 1) % 2 ^ w
  h ^^^ (h / 2 ^ (w / 2))

/-- VHASH (R143). -/
def execVhash (d a b : VReg) (t m : BitVec 4) (s : State) : Out :=
  let w := laneBits t.toNat
  .next (s.issue .vector fun _ s =>
    let va := s.cur.vec a
    let vb := s.cur.vec b
    s.vmasked .vector d w m fun i => (hashLane w (lane va w i) (lane vb w i), .none))

/-- VPOPC (R143). -/
def execVpopc (d a : VReg) (t m : BitVec 4) (s : State) : Out :=
  let w := laneBits t.toNat
  .next (s.issue .vector fun _ s =>
    let va := s.cur.vec a
    s.vmasked .vector d w m fun i => (popcount (lane va w i) w, .none))

end Sys2Proof.Machine
end

