-- ==== Sys2Proof/Machine/TileExec.lean ====
section
/-! DEFINITION. The tile commands (R151 to R159). Each event runs the first command of a core's tile queue that may run,
when it is the one the event names, to its end. -/

namespace Sys2Proof.Machine

/-! ## Accumulators -/

/-- The key of an accumulator element. -/
def accKey (tile i j : Nat) : Nat := tile * 1024 + i * 32 + j

/-- An accumulator element: an FP32 code (R25). -/
def Core.accAt (x : Core) (tile i j : Nat) : Nat := (x.acc.get (accKey tile i j) 0).toNat

def Core.accBad (x : Core) (tile i j : Nat) : Bool := natMem x.accPoison (accKey tile i j)

/-- An accumulator element written with its poison bit. -/
def Core.setAcc (x : Core) (tile i j v : Nat) (bad : Bool) : Core :=
  let k := accKey tile i j
  let b : BitVec 32 := BitVec.ofNat 32 v
  { x with acc := if b = 0 then x.acc.del k else x.acc.put k b
           accPoison := if bad then natInsert x.accPoison k else natErase x.accPoison k }

/-- Row `i` of an accumulator written. -/
def State.setRow (s : State) (c : CoreId) (tile i : Nat) (vs : List (Nat × Bool)) : State :=
  s.modCore c fun x => (vs.zip (upTo 32)).foldl (fun x v => x.setAcc tile i v.2 v.1.1 v.1.2) x

/-- The elements of a row with their poison bits. -/
def Core.accRow (x : Core) (tile i : Nat) : List (Nat × Bool) :=
  (upTo 32).map fun j => (x.accAt tile i j, x.accBad tile i j)

/-! ## Operands -/

/-- Width(f) of a format code (R123). -/
def fmtWidth (f : Nat) : Nat := elemWidth f

/-- Whether a format code is narrow: 5 to 9 (R82). -/
def narrowCode (f : Nat) : Bool := 5 ≤ f && f ≤ 9

/-- Element `k` of a packed row and whether a byte of it is poisoned (R86, R150). -/
def rowElem (row : List (Byte × Bool)) (w k : Nat) : Nat × Bool :=
  let lo := w * k / 8
  let n := (w * k + w + 7) / 8 - lo
  let bs := (row.drop lo).take n
  (leVal (bs.map (·.1)) / 2 ^ (w * k % 8) % 2 ^ w, bs.any (·.2))

/-- The LUT8 table of a command, as it stood when the command started (R151). -/
def Cmd.lut (q : Cmd) (i : Nat) : BitVec 19 := (q.lutCopy.getD []).getD i 0

/-- The value of an element code, decoded exactly (R151). -/
def Cmd.engVal (q : Cmd) (f code : Nat) : XVal :=
  match Fmt.ofCode f with
  | some F => F.val q.lut code
  | none => .qnan

/-- An element multiplied by 2^(c − 127), NaN under 0xFF (R156). -/
def scaledBy (c : Nat) (x : XVal) : XVal := if c = 255 then .qnan else x.scale ((c : Int) - 127)

/-- The formats TMMA and TSMMA accept (R151). -/
def mmaFormat (f : Nat) : Bool := f = 3 || f = 4 || narrowCode f || f = 10 || f = 11 || f = 12 || f = 16

/-- The formats TLDACC, TST and TRED accept (R151). -/
def accFormat (f : Nat) : Bool := 1 ≤ f && f ≤ 16 && f ≠ 13

/-- Bytes of a row of `n` elements. -/
def rowBytes (f n : Nat) : Nat := (n * fmtWidth f + 7) / 8

/-- ⌈K/L⌉. -/
def ceilDiv (a b : Nat) : Nat := (a + b - 1) / b

/-- The block length L (R152). -/
def blockLen (w : BitVec 256) : Nat := if (cSlay w).testBit 2 then 16 else 32

/-- Whether operand A or B is MX-scaled (R152). -/
def scaledA (w : BitVec 256) : Bool := (cSlay w).testBit 0 && narrowCode (cFmtA w)

def scaledB (w : BitVec 256) : Bool := (cSlay w).testBit 1 && narrowCode (cFmtB w)

/-- MISALIGN of an operand base (R150). -/
def misaligned (a n : Nat) : Bool := a % n ≠ 0

/-- Reads rows from a base, in order. -/
def State.engRows (c : CoreId) (q : Cmd) (base stride n : Nat) :
    List Nat → List (List (Byte × Bool)) → State → Eng (List (List (Byte × Bool)))
  | [], got, s => .ok got.reverse s
  | r :: rs, got, s =>
    (s.engRead c q (base + 16 * stride * r) n).bind fun bs t => State.engRows c q base stride n rs (bs :: got) t

/-- Reads `n` bytes for a scaled operand, or nothing for an unscaled one. -/
def State.engScales (s : State) (c : CoreId) (q : Cmd) (scaled : Bool) (a n : Nat) : Eng (List (Byte × Bool)) :=
  if scaled then s.engRead c q a n else .ok [] s

/-- A byte of a list, with its poison bit. -/
def byteAt (l : List (Byte × Bool)) (i : Nat) : Nat × Bool := let b := l.getD i (0, false); (b.1.toNat, b.2)

/-! ## TMMA and TSMMA -/

/-- N of a sparsity (R153). -/
def sparseN (sp : Nat) : Nat := if sp = 1 then 12 else if sp = 2 then 8 else 6

/-- Decompress of one group (R153): later entries overwrite, positions of 24 and above drop. -/
def decompress (n : Nat) (word : Nat) (elem : Nat → XVal) : List XVal :=
  (upTo n).foldl (fun d e =>
    let p := word / 2 ^ (5 * e) % 32
    if p < 24 then setAt d p (elem e) else d) (List.replicate 24 (XVal.zero false))

/-- Column j of B: its decoded elements, scaled, and whether a byte it depends on is poisoned. -/
def Cmd.columnB (q : Cmd) (rows : List (List (Byte × Bool)))
    (scales : List (Byte × Bool)) (j : Nat) : List XVal × Bool :=
  let w := q.word
  let K := cK w
  let wb := fmtWidth (cFmtB w)
  let nb := ceilDiv K (blockLen w)
  let es := (upTo K).map fun k => if cTb w then rowElem (rows.getD j []) wb k else rowElem (rows.getD k []) wb j
  let vs := es.map fun e => q.engVal (cFmtB w) e.1
  if scaledB w then
    let sc := fun k => byteAt scales (nb * j + k / blockLen w)
    ((vs.zip (upTo K)).map fun (v, k) => scaledBy (sc k).1 v,
      (es.any (·.2)) || (upTo nb).any fun b => (byteAt scales (nb * j + b)).2)
  else (vs, es.any (·.2))

/-- Row i of A: its decoded elements, scaled, and whether a byte it depends on is poisoned. -/
def Cmd.rowA (q : Cmd) (sparse : Bool) (row meta_ scales : List (Byte × Bool)) : List XVal × Bool :=
  let w := q.word
  let K := cK w
  let wa := fmtWidth (cFmtA w)
  let val := fun (k : Nat) => q.engVal (cFmtA w) (rowElem row wa k).1
  let vs := if sparse then
      (upTo (K / 24)).flatMap fun g =>
        decompress (sparseN (cSp w)) (leVal (((meta_.drop (8 * g)).take 8).map (·.1)))
          fun e => val (g * sparseN (cSp w) + e)
    else (upTo K).map val
  let bad := row.any (·.2) || meta_.any (·.2) || scales.any (·.2)
  if scaledA w then
    ((vs.zip (upTo K)).map fun (v, k) => scaledBy (byteAt scales (k / blockLen w)).1 v, bad)
  else (vs, bad)

/-- The restart unit of TMMA and TSMMA: row i of the accumulator (R156, R162). -/
def State.mmaRow (c : CoreId) (q : Cmd) (sparse : Bool) (cols : List (List XVal × Bool)) (i : Nat) (s : State) :
    Eng (List EWrite) :=
  let w := q.word
  let K := cK w
  let groups := K / 24
  let elems := if sparse then groups * sparseN (cSp w) else K
  let nb := ceilDiv K (blockLen w)
  let s0 := if cOp w = 3 && sparse then cAddrS w + 256 * groups else cAddrS w
  (s.engRead c q (cAddrA w + 16 * cSta w * i) (rowBytes (cFmtA w) elems)).bind fun row t =>
    (t.engScales c q sparse (cAddrS w + 8 * (i * groups)) (8 * groups)).bind fun meta_ t =>
      (t.engScales c q (scaledA w) (s0 + nb * i) nb).bind fun sa t =>
        let a := q.rowA sparse row meta_ sa
        let x := t.core c
        let out := (cols.zip (upTo 32)).map fun (b, j) =>
          (chunks (ceilDiv K 32) (x.accAt (cTile w) i j) (a.1.zip b.1), x.accBad (cTile w) i j || a.2 || b.2)
        .ok [] (t.setRow c (cTile w) i out)

/-- TMMA, and TSMMA on the decompressed operand (R151, R153, R156). Its engine errors are looked for in the order MISFMT of
A, of B, ILLOP, MISALIGN of A, of B, of the metadata, and none of the last three when K = 0 (log 101). -/
def State.mma (c : CoreId) (q : Cmd) (s : State) : Plan × State :=
  let w := q.word
  let K := cK w
  let sparse := cOp w = 3 && cSp w ≠ 0
  let nb := ceilDiv K (blockLen w)
  let s0 := if sparse then cAddrS w + 256 * (K / 24) else cAddrS w
  let sb := if scaledA w then s0 + 32 * nb else s0
  if !mmaFormat (cFmtA w) then (.error 0x04 (cFmtA w), s)
  else if !mmaFormat (cFmtB w) then (.error 0x04 (cFmtB w), s)
  else if sparse && K % 24 ≠ 0 then (.error 0x01 4, s)
  else if K = 0 then ({ count := 0, unit := fun _ s => .ok [] s }, s)
  else if misaligned (cAddrA w) 16 then (.error 0x03 (cAddrA w), s)
  else if misaligned (cAddrB w) 16 then (.error 0x03 (cAddrB w), s)
  else if sparse && misaligned (cAddrS w) 8 then (.error 0x03 (cAddrS w), s)
  else
    let rows := if cTb w then upTo 32 else upTo K
    let n := rowBytes (cFmtB w) (if cTb w then K else 32)
    let r := (State.engRows c q (cAddrB w) (cStb w) n rows [] s).bind fun b t =>
      (t.engScales c q (scaledB w) sb (32 * nb)).bind fun sc u =>
        .ok ((upTo 32).map fun j => q.columnB b sc j) u
    match r with
    | .ok cols t => ({ count := 32, unit := State.mmaRow c q sparse cols }, t)
    | r => (.stopped r, s)

/-! ## TLDACC, TST, TRED -/

/-- NaN results of the tile unit become 0x7FC0_0000 (R92, R157). -/
def quiet (v : Nat) : Nat := if (FFmt.fp32.decode v).isNaN then 0x7FC00000 else v

/-- The restart unit of TLDACC (R157): its elements depend on the whole row and its scales (R154). -/
def State.ldRow (c : CoreId) (q : Cmd) (i : Nat) (s : State) : Eng (List EWrite) :=
  let w := q.word
  let nb := 32 / blockLen w
  (s.engRead c q (cAddrA w + 16 * cSta w * i) (rowBytes (cFmtA w) 32)).bind fun row t =>
    (t.engScales c q (scaledA w) (cAddrS w + nb * i) nb).bind fun sc t =>
      let out := (upTo 32).map fun j =>
        let e := rowElem row (fmtWidth (cFmtA w)) j
        let v := q.engVal (cFmtA w) e.1
        let x := if scaledA w then scaledBy (byteAt sc (j / blockLen w)).1 v else v
        (quiet (round .fp32 (cRnd w) false x).1, row.any (·.2) || sc.any (·.2))
      .ok [] (t.setRow c (cTile w) i out)

/-- The conversion of an FP32 value into an output format (R157): every NaN is 0x7FC0_0000 before it is converted (R92),
and the flags are discarded. -/
def Cmd.engCode (q : Cmd) (v : Nat) : Nat :=
  let w := q.word
  match Fmt.ofCode (cFmtOut w) with
  | some F => (F.enc q.lut (cRnd w) (cSat w) (FFmt.fp32.decode (quiet v))).1
  | none => 0

/-- A row of codes packed into bytes, a byte poisoned when it holds a bit of a poisoned element (R86, R154). -/
def packRow (w : Nat) (codes : List (Nat × Bool)) : List (Byte × Bool) :=
  let n := codes.length * w / 8
  let v := joinLanes w (codes.map (·.1))
  (leBytes v n).zip ((upTo n).map fun i =>
    (fromTo (8 * i / w) ((8 * i + 7) / w + 1 - 8 * i / w)).any fun j => (codes.getD j (0, false)).2)

/-- Whether TST quantises (R152, R157). -/
def quantises (w : BitVec 256) : Bool := (cSlay w).testBit 0 && narrowCode (cFmtOut w)

/-- The restart unit of TST (R157): a block's scale byte depends on every element of the block (R154; log 32). -/
def State.stRow (c : CoreId) (q : Cmd) (i : Nat) (s : State) : Eng (List EWrite) :=
  let w := q.word
  let row := (s.core c).accRow (cTile w) i
  let out := cAddrA w + 16 * cSta w * i
  let wf := fmtWidth (cFmtOut w)
  if quantises w then
    let L := blockLen w
    let nb := 32 / L
    let F := match Fmt.ofCode (cFmtOut w) with | some (.float F) => F | _ => .e4m3
    let qs := (upTo nb).map fun b =>
      mxQuant F (cSat w) (((row.drop (L * b)).take L).map fun v => FFmt.fp32.decode (quiet v.1))
    let codes := (qs.flatMap fun x => x.2.1).zip (row.map (·.2))
    let scales := (qs.zip (upTo nb)).map fun (x, b) =>
      ((BitVec.ofNat 8 x.1 : Byte), ((row.drop (L * b)).take L).any (·.2))
    s.engWrite c q [(out, packRow wf codes), (cAddrS w + nb * i, scales)]
  else s.engWrite c q [(out, packRow wf (row.map fun v => (q.engCode v.1, v.2)))]

/-- The 32 values of TRED (R159): each with whether an element it reduces is poisoned. -/
def Core.reduced (x : Core) (w : BitVec 256) : List (Nat × Bool) :=
  let o := cSlay w % 4
  let line := fun (n : Nat) => (upTo 32).map fun m =>
    if (cSlay w).testBit 2 then (x.accAt (cTile w) m n, x.accBad (cTile w) m n)
    else (x.accAt (cTile w) n m, x.accBad (cTile w) n m)
  (upTo 32).map fun n =>
    let l := line n
    ((treeReduce (redOp o 1 (cRnd w) false) 5 (l.map (·.1)) .none).1, l.any (·.2))

/-- The one restart unit of TRED (R159). -/
def State.redUnit (c : CoreId) (q : Cmd) (_ : Nat) (s : State) : Eng (List EWrite) :=
  let w := q.word
  let vs := ((s.core c).reduced w).map fun v => (q.engCode v.1, v.2)
  s.engWrite c q [(cAddrA w, packRow (fmtWidth (cFmtOut w)) vs)]

/-! ## TEW -/

/-- The function of TEW (R158). -/
def tewFn (f : Nat) (rm : Rm) (y : Nat) : Nat :=
  if f = 0 then quiet y
  else if f = 9 then (if (FFmt.fp32.decode y).isNaN then 0x7FC00000 else if y / 2 ^ 31 % 2 = 1 then 0 else y)
  else quiet (Sfu.lane (f - 1) 1 rm false y).1

/-- The restart unit of TEW (R158). -/
def State.ewRow (c : CoreId) (q : Cmd) (i : Nat) (s : State) : Eng (List EWrite) :=
  let w := q.word
  (s.engScales c q (cAddrA w ≠ 0) (cAddrA w) 128).bind fun sc t =>
    (t.engScales c q (cAddrB w ≠ 0) (cAddrB w) 128).bind fun bi t =>
      let out := ((t.core c).accRow (cTile w) i).zip (upTo 32) |>.map fun (v, j) =>
        let a := if cAddrA w = 0 then (0x3F800000, false) else rowElem sc 32 j
        let b := if cAddrB w = 0 then (0, false) else rowElem bi 32 j
        let y := if cAddrB w = 0 then (farith .mul .fp32 (cRnd w) false v.1 a.1 0).1
          else (farith .fma .fp32 (cRnd w) false v.1 a.1 b.1).1
        (tewFn (cSlay w % 16) (cRnd w) y, v.2 || a.2 || b.2)
      .ok [] (t.setRow c (cTile w) i out)

/-! ## The plans -/

/-- The plan of a command without restart units. -/
def Plan.once (f : State → State) : Plan := { count := 0, unit := fun _ s => .ok [] s, finish := f }

/-- TNOP (R155). -/
def tnopPlan (_ : CoreId) (_ : Cmd) (s : State) : Plan × State := (.once id, s)

/-- TZ (R155): clears the accumulator and its poison. -/
def tzPlan (c : CoreId) (q : Cmd) (s : State) : Plan × State :=
  (.once fun s => s.modCore c fun x => { x with
    acc := x.acc.delRange (cTile q.word * 1024) (cTile q.word * 1024 + 1024)
    accPoison := x.accPoison.filter fun k => k / 1024 ≠ cTile q.word }, s)

/-- TLDACC (R157). -/
def tldaccPlan (c : CoreId) (q : Cmd) (s : State) : Plan × State :=
  let w := q.word
  if !accFormat (cFmtA w) then (.error 0x04 (cFmtA w), s)
  else if misaligned (cAddrA w) 16 then (.error 0x03 (cAddrA w), s)
  else ({ count := 32, unit := State.ldRow c q }, s)

/-- TST (R157). -/
def tstPlan (c : CoreId) (q : Cmd) (s : State) : Plan × State :=
  let w := q.word
  if !accFormat (cFmtOut w) then (.error 0x04 (cFmtOut w), s)
  else if misaligned (cAddrA w) 16 then (.error 0x03 (cAddrA w), s)
  else ({ count := 32, unit := State.stRow c q }, s)

/-- TEW (R158). -/
def tewPlan (c : CoreId) (q : Cmd) (s : State) : Plan × State :=
  let w := q.word
  if cSlay w % 16 ≥ 10 then (.error 0x01 4, s)
  else if misaligned (cAddrA w) 16 then (.error 0x03 (cAddrA w), s)
  else if misaligned (cAddrB w) 16 then (.error 0x03 (cAddrB w), s)
  else ({ count := 32, unit := State.ewRow c q }, s)

/-- TRED (R159). -/
def tredPlan (c : CoreId) (q : Cmd) (s : State) : Plan × State :=
  let w := q.word
  if !accFormat (cFmtOut w) then (.error 0x04 (cFmtOut w), s)
  else if cSlay w % 4 = 3 then (.error 0x01 4, s)
  else if misaligned (cAddrA w) 16 then (.error 0x03 (cAddrA w), s)
  else ({ count := 1, unit := State.redUnit c q }, s)

/-- TMOV (R155): bits and poison are copied exactly; TB = 1 transposes, in place too. -/
def tmovPlan (c : CoreId) (q : Cmd) (s : State) : Plan × State :=
  (.once fun s =>
    let w := q.word
    let x := s.core c
    let src := cTile w
    let rows := (upTo 32).map fun i => (upTo 32).map fun j =>
      if cTb w then (x.accAt src j i, x.accBad src j i) else (x.accAt src i j, x.accBad src i j)
    (rows.zip (upTo 32)).foldl (fun (t : State) r => t.setRow c (cSlay w % 8) r.2 r.1) s, s)

/-- The plan of a tile command (R71). -/
def tilePlan (c : CoreId) (q : Cmd) (s : State) : Plan × State :=
  match cOp q.word with
  | 0 => tnopPlan c q s
  | 1 => tzPlan c q s
  | 2 => State.mma c q s
  | 3 => State.mma c q s
  | 4 => tldaccPlan c q s
  | 5 => tstPlan c q s
  | 6 => tewPlan c q s
  | 7 => tredPlan c q s
  | _ => tmovPlan c q s

/-! ## The events -/

/-- TNOP (R155). -/
def execTnop (c : CoreId) (s : State) : Out := .next (s.runTile c 0 (tnopPlan c))

/-- TZ (R155). -/
def execTz (c : CoreId) (s : State) : Out := .next (s.runTile c 1 (tzPlan c))

/-- TMMA (R156). -/
def execTmma (c : CoreId) (s : State) : Out := .next (s.runTile c 2 (State.mma c))

/-- TSMMA (R153, R156). -/
def execTsmma (c : CoreId) (s : State) : Out := .next (s.runTile c 3 (State.mma c))

/-- TLDACC (R157). -/
def execTldacc (c : CoreId) (s : State) : Out := .next (s.runTile c 4 (tldaccPlan c))

/-- TST (R157). -/
def execTst (c : CoreId) (s : State) : Out := .next (s.runTile c 5 (tstPlan c))

/-- TEW (R158). -/
def execTew (c : CoreId) (s : State) : Out := .next (s.runTile c 6 (tewPlan c))

/-- TRED (R159). -/
def execTred (c : CoreId) (s : State) : Out := .next (s.runTile c 7 (tredPlan c))

/-- TMOV (R155). -/
def execTmov (c : CoreId) (s : State) : Out := .next (s.runTile c 8 (tmovPlan c))

end Sys2Proof.Machine
end

