-- ==== Sys2Proof/Machine/Supervisor.lean ====
section
/-! DEFINITION. SUPV: RESUME, PEEKC, POKEC, KILL, TRAP (R308 to R312), over the context records (R29 to R33). -/

namespace Sys2Proof.Machine

/-! ## Context records (R29 to R33) -/

/-- The number after `k` in a list, 0x7FF at its end. -/
def nextIn (k : Slot) : List Slot → Nat
  | [] => 0x7FF
  | x :: r => if x = k then (match r with | [] => 0x7FF | y :: _ => ctxOf y) else nextIn k r

/-- The wait list of a core that holds a process parked for a ticket: that of its sending end. -/
def State.ticketList (s : State) (k : Slot) : List Slot :=
  match List.find? (fun (e : EpId × Endpoint) =>
      coreOfEp e.1 = coreOf k && (e.2.waiter = some k || e.2.queue.contains k)) s.eps with
  | some e => e.2.waiter.toList ++ e.2.queue
  | none => []

/-- LINK.NEXT: the next process in the same ready or wait list (R33; log 106). -/
def State.linkNext (s : State) (k : Slot) : Nat :=
  let p := s.proc k
  match p.state, p.wait with
  | .ready, _ => nextIn k ((s.core (coreOf k)).ready p.prio)
  | .arriving, _ => nextIn k ((s.core (coreOf k)).ready p.prio)
  | .parked, .endpoint e => nextIn k ((s.ep e).waiter.toList ++ (s.ep e).queue ++ (s.ep e).syncing)
  | .parked, .ticket _ _ => nextIn k (s.ticketList k)
  | .parked, .replay =>
    let r := (s.core (coreOf k)).replay
    nextIn k (r.owner :: r.waiting.map (·.1))
  | _, _ => 0x7FF

/-- LINK as a word (R33). -/
def State.link (s : State) (k : Slot) : Word :=
  let p := s.proc k
  BitVec.ofNat 64 (s.linkNext k + p.state.code * 2 ^ 12 + p.waitk.toNat * 2 ^ 16 + p.rank.toNat * 2 ^ 32)

/-- The scratchpad offset of a slot's record (R34). -/
def Core.recordOffset (x : Core) (k : Slot) : Nat :=
  ctxBase x + (if ctxOf k < x.fulln then 384 * ctxOf k else 384 * x.fulln + 96 * (ctxOf k - x.fulln))

/-- The scratchpad offset of a vector-extension slot (R34). -/
def Core.extOffset (x : Core) (slot : Nat) : Nat := ctxBase x + 384 * x.fulln + 96 * x.lightn + 2240 * slot

/-- VEXTP: the scratchpad offset of the vector extension and its valid bit (R29, R34). -/
def State.vextp (s : State) (k : Slot) : Word :=
  match (s.proc k).vext with
  | none => 0
  | some v =>
    BitVec.ofNat 64 ((s.core (coreOf k)).extOffset v.slot + 2 ^ 19)

/-- A general register by number, its plain value. -/
def Proc.plain (p : Proc) (n : Nat) : Word := if h : n < 32 then p.g[n] else 0

/-- Word `i` of the context record of a slot (R29, R31). -/
def State.recordWord (s : State) (k : Slot) (i : Nat) : Word :=
  let p := s.proc k
  if i = 0 then p.pc
  else if i = 1 then p.pstat
  else if p.light then
    if i ≤ 9 then p.plain (i - 1) else if i = 10 then p.schw else s.link k
  else if i ≤ 32 then p.plain (i - 1)
  else if i ≤ 39 then p.mask (BitVec.ofNat 3 (i - 32))
  else if i = 40 then p.schw
  else if i = 41 then s.link k
  else if i = 42 then p.budget
  else if i = 43 then p.qmap
  else if i = 44 then p.pool
  else if i = 45 then p.fmtctl
  else if i = 46 then p.rowprog
  else s.vextp k

/-- The writable bits of POOL and of FMTCTL (R38). -/
def poolMask : Word := 0xFFF7FFE0
def fmtMask : Word := 0x1F0F

/-- Whether a PSTAT image has a nonzero reserved field (R37). -/
def badImage (w : Word) : Bool := bits w 7 6 ≠ 0 || bits w 63 28 ≠ 0

/-- A SCHW word written by POKEC: PRED, PRIO and DEBT are writable (R33). -/
def Proc.pokeSchw (p : Proc) (v : Word) : Proc :=
  if bits v 31 18 ≠ 0 || bits v 63 48 ≠ 0 then p
  else
  { p with pred := BitVec.ofNat 8 (bits v 7 0) ||| 1, prio := BitVec.ofNat 2 (bits v 17 16),
           debt := BitVec.ofNat 16 (bits v 47 32) }

/-- Word `i` of a context record written by POKEC (R310): RO fields are restored, a write with a nonzero
reserved field is discarded whole (R5). PSTAT is written elsewhere. Of the pools a SETS would discard
(R39), one with a COUNT above 2,048 is discarded here and one that reaches past B is taken (DESIGN CHOICE, log 124). -/
def Proc.poke (p : Proc) (i : Nat) (v : Word) : Proc :=
  if i = 0 then { p with pc := BitVec.ofNat 64 (v.toNat % 2 ^ 56 / 4 * 4) }
  else if i = 1 then { p with sstep := v.getLsbD 3 }
  else if p.light then
    if i ≤ 9 then p.setReg (BitVec.ofNat 5 (i - 1)) v else if i = 10 then p.pokeSchw v else p
  else if i ≤ 32 then p.setReg (BitVec.ofNat 5 (i - 1)) v
  else if i ≤ 39 then p.setMask (BitVec.ofNat 3 (i - 32)) v
  else if i = 40 then p.pokeSchw v
  else if i = 42 then { p with limit := BitVec.ofNat 32 (bits v 31 0) }
  else if i = 44 then (if v &&& ~~~poolMask ≠ 0 || bits v 31 20 > 2048 then p else { p with pool := v })
  else if i = 45 then (if v &&& ~~~fmtMask ≠ 0 then p else { p with fmtctl := v })
  else p

/-- Word `i` of a vector extension (R30). -/
def VExt.word (x : VExt) (i : Nat) : Word :=
  if h : i / 8 < 32 then BitVec.ofNat 64 (x.v[i / 8].toNat / 2 ^ (64 * (i % 8)))
  else if i = 256 then x.vprog else 0

def VExt.poke (x : VExt) (i : Nat) (v : Word) : VExt :=
  if h : i / 8 < 32 then { x with v := x.v.set (i / 8) (setBits x.v[i / 8] (64 * (i % 8) + 63) (64 * (i % 8)) v.toNat) }
  else if i = 256 then { x with vprog := v } else x

/-- Words of a record of each kind (R310). -/
def Proc.recordWords (p : Proc) : Nat := if p.light then 12 else 48

/-- The bytes of a vector extension (R30). -/
def VExt.image (x : VExt) : List Byte := (upTo 280).flatMap fun i => leBytes (x.word i).toNat 8

/-- The record of a slot, and its vector extension, written to the context area, as a spill writes them: a write of the
scratchpad like any other (R29 to R31, R186, R244, R281). -/
def State.spillRecord (s : State) (k : Slot) : State :=
  let p := s.proc k
  let x := s.core (coreOf k)
  let bs := (upTo p.recordWords).flatMap fun i => leBytes (s.recordWord k i).toNat 8
  let t := s.writeAt none none (locSpad (coreOf k) (x.recordOffset k)) bs none
  match p.vext with
  | some v => t.writeAt none none (locSpad (coreOf k) (x.extOffset v.slot)) v.image none
  | none => t

/-! ## The operations at the target's core -/

/-- Whether a handle is dead, one whose process has been accepted elsewhere included (R283, R311). -/
def State.gone (s : State) (h : Word) : Bool :=
  s.dead h || s.leftFor (slotOfHandle h)

/-- RESUME (R309). -/
def State.superResume (s : State) (h image : Word) (monitor : Bool) (domain : BitVec 12) : State × Answer :=
  let k := slotOfHandle h
  if s.dead h then (s, .value 2)
  else if !s.rightOver true monitor domain k then (s, .trap 0x02 [])
  else if (s.proc k).state ≠ .stopped then (s, .value 1)
  else (s.resumeProc k (image.getLsbD 3), .value 0)

/-- A selector of PEEKC and POKEC that is malformed, or names what the target lacks (R310); TILE counts for AREA 2 only
(log 90). -/
def State.badSelector (s : State) (k : Slot) (sel : Word) : Bool :=
  let p := s.proc k
  let area := bits sel 1 0
  let i := bits sel 14 3
  sel.getLsbD 2 || bits sel 63 18 ≠ 0 || area = 3 ||
    (area = 0 && i ≥ p.recordWords) || (area = 1 && (p.vext.isNone || i ≥ 280)) ||
    (area = 2 && (i ≥ 512 || !p.tileown.getLsbD (bits sel 17 15)))

/-- The in-flight command that owns a tile of a core (R149). -/
def State.tileOwner (s : State) (c : CoreId) (t : Nat) : Option Cmd :=
  (s.core c).tileQ.find? fun q => (namedTiles q.word).contains t

/-- The checks of PEEKC and POKEC after the selector's (R149, R310). -/
def State.ownedTile (s : State) (k : Slot) (sel : Word) : Option Cmd :=
  if bits sel 1 0 = 2 then s.tileOwner (coreOf k) (bits sel 17 15) else none

/-- PEEKC (R310). -/
def State.superPeek (s : State) (h sel : Word) (monitor : Bool) (domain : BitVec 12) : State × Answer :=
  let k := slotOfHandle h
  let x := s.core (coreOf k)
  let t := bits sel 17 15
  let i := bits sel 14 3
  if s.dead h then (s, .value 0)
  else if !s.rightOver true monitor domain k then (s, .trap 0x02 [])
  else if s.badSelector k sel then (s, .trap 0x05 [sel])
  else
    match s.ownedTile k sel with
    | some q => (s, .trap 0x09 [BitVec.ofNat 64 t, BitVec.ofNat 64 q.tag])
    | none =>
      if bits sel 1 0 = 0 then (s, .value (s.recordWord k i))
      else if bits sel 1 0 = 1 then (s, .value (match (s.proc k).vext with | some v => v.word i | none => 0))
      else
        let r := 2 * i / 32
        let j := 2 * i % 32
        if x.accBad t r j || x.accBad t r (j + 1) then (s, .trap 0x08 [sel])
        else (s, .value (BitVec.ofNat 64 (x.accAt t r j + x.accAt t r (j + 1) * 2 ^ 32)))

/-- POKEC (R310). -/
def State.superPoke (s : State) (h sel v : Word) (monitor : Bool) (domain : BitVec 12) : State × Answer :=
  let k := slotOfHandle h
  let t := bits sel 17 15
  let i := bits sel 14 3
  if s.dead h then (s, .nothing)
  else if !s.rightOver true monitor domain k then (s, .trap 0x02 [])
  else if s.badSelector k sel then (s, .trap 0x05 [sel])
  else
    match s.ownedTile k sel with
    | some q => (s, .trap 0x09 [BitVec.ofNat 64 t, BitVec.ofNat 64 q.tag])
    | none =>
      if (s.proc k).state ≠ .stopped then (s, .trap 0x05 [sel, 4])
      else if bits sel 1 0 = 0 then
        if i = 1 && badImage v then (s, .trap 0x15 [v])
        else
          let u := s.modProc k fun p => p.poke i v
          (if (u.proc k).resident then u else u.spillRecord k, .nothing)
      else if bits sel 1 0 = 1 then
        let u := s.modProc k fun p => { p with vext := p.vext.map fun x => x.poke i v }
        (if (u.proc k).resident then u else u.spillRecord k, .nothing)
      else
        let r := 2 * i / 32
        let j := 2 * i % 32
        (s.modCore (coreOf k) fun x =>
          (x.setAcc t r j (bits v 31 0) false).setAcc t r (j + 1) (bits v 63 32) false, .nothing)

/-- KILL (R311). -/
def State.superKill (s : State) (h : Word) (monitor : Bool) (domain : BitVec 12) : State × Answer :=
  let k := slotOfHandle h
  if s.gone h then (s, .value 2)
  else if !s.rightOver true monitor domain k then (s, .trap 0x02 [])
  else (s.killProc k, .value 0)

/-! ## The instructions -/

/-- RESUME (R309). -/
def execResume (d a b : Reg) (s : State) : Out :=
  let sh : Shape := { srcs := [a, b], dst := some d, full := true, priv := true }
  .next (s.issue sh fun vals s =>
    let h := op vals 0
    let m := s.isMonitor s.self
    if badImage (op vals 1) then s.trap 0x15 [op vals 1]
    else
      s.supervise sh vals h (.resume h (op vals 1) m s.cur.domain)
        (fun s => s.superResume h (op vals 1) m s.cur.domain) (.value 2))

/-- PEEKC (R310). -/
def execPeekc (d a b : Reg) (s : State) : Out :=
  let sh : Shape := { srcs := [a, b], dst := some d, full := true, priv := true }
  .next (s.issue sh fun vals s =>
    let h := op vals 0
    let m := s.isMonitor s.self
    s.supervise sh vals h (.peek h (op vals 1) m s.cur.domain)
      (fun s => s.superPeek h (op vals 1) m s.cur.domain) (.value 0))

/-- POKEC (R310). -/
def execPokec (d a b : Reg) (s : State) : Out :=
  let sh : Shape := { srcs := [a, b], dsrc := some d, full := true, priv := true }
  .next (s.issue sh fun vals s =>
    let h := op vals 0
    let m := s.isMonitor s.self
    s.supervise sh vals h (.poke h (op vals 1) (s.cur.reg d) m s.cur.domain)
      (fun s => s.superPoke h (op vals 1) (s.cur.reg d) m s.cur.domain) .nothing)

/-- KILL (R311): a KILL of the issuer ends it. -/
def execKill (d a : Reg) (s : State) : Out :=
  let sh : Shape := { srcs := [a], dst := some d, full := true, priv := true }
  .next (s.issue sh fun vals s =>
    let h := op vals 0
    let m := s.isMonitor s.self
    if !s.cur.resumed && h = s.handleOf s.self then s.killProc s.self
    else
      s.supervise sh vals h (.kill h m s.cur.domain) (fun s => s.superKill h m s.cur.domain) (.value 2))

/-- TRAP n (R312). -/
def execTrap (n : BitVec 8) (s : State) : Out := .next (s.issue {} fun _ s => s.trap 0x17 [n.zeroExtend 64])

end Sys2Proof.Machine
end

