-- ==== Sys2Proof/Machine/Sys.lean ====
section
/-! DEFINITION. SYS: GETS, SETS, TLBINV, KEYSET, CFLUSH, CINV, NOP, BREAK (R36 to R40, R237, R238, R344 to R348, R351). -/

namespace Sys2Proof.Machine

/-! ## State registers (R36 to R40, R351) -/

/-- Whether a state-register number is assigned (R36). -/
def knownRegister (n : Nat) : Bool := n ≤ 9 || (0x100 ≤ n && n ≤ 0x104) || (0x110 ≤ n && n ≤ 0x112)

/-- Whether SETS of a register needs the supervisor right (R36). -/
def supervisorRegister (n : Nat) : Bool := n = 4 || n = 0x100 || n = 0x101 || (0x110 ≤ n && n ≤ 0x112)

/-- CTXAREA as a word (R40). -/
def Core.ctxarea (x : Core) : Word := BitVec.ofNat 64 (x.fulln + x.lightn * 2 ^ 11 + x.extn * 2 ^ 32)

/-- VIGIL as a word: INTERVAL, and the cycles since the last sink event, saturating (R40, R262). -/
def State.vigil (s : State) (c : CoreId) : Word :=
  let x := s.cluster (clusterOf c)
  BitVec.ofNat 64 (x.vigilInterval.toNat + min (2 ^ 32 - 1) (s.now c - x.vigilSince) * 2 ^ 32)

/-- The register GETS reads (R36, R351). -/
def State.getRegister (s : State) (n : Nat) : Word :=
  let p := s.cur
  let c := s.here
  if n = 0 then p.pstat
  else if n = 1 then p.pid
  else if n = 2 then p.rank.zeroExtend 64
  else if n = 3 then p.prio.zeroExtend 64
  else if n = 4 then p.budget
  else if n = 5 then p.debt.zeroExtend 64
  else if n = 6 then p.qmap
  else if n = 7 then p.pool
  else if n = 8 then p.fmtctl
  else if n = 9 then p.rowprog
  else if n = 0x100 then (s.core c).slice.zeroExtend 64
  else if n = 0x101 then (s.core c).ctxarea
  else if n = 0x102 then (s.cluster (clusterOf c)).loadreg
  else if n = 0x103 then BitVec.ofNat 64 (s.pkg (pkgOf c)).heartbeat
  else if n = 0x104 then (s.pkg (pkgOf c)).stepno
  else if n = 0x110 then (s.core c).dlprobe.zeroExtend 64
  else if n = 0x111 then s.vigil c
  else BitVec.ofNat 64 (s.pkg (pkgOf c)).fablimit.toNat

/-- GETS (R351). -/
def execGets (d : Reg) (n : BitVec 12) (s : State) : Out :=
  let sh : Shape := { dst := some d }
  .next (s.issue sh fun _ s =>
    if knownRegister n.toNat then s.doneWith sh (s.getRegister n.toNat) else s.trap 0x01 [n.zeroExtend 64])

/-- SETS of POOL (R39): a write that takes effect abandons the issuer's open recording (R269). -/
def State.setPool (s : State) (v : Word) : State :=
  let base := 32 * bits v 18 5
  let count := bits v 31 20
  if v &&& ~~~poolMask ≠ 0 || count > 2048 || base + 32 * count > ctxBase (s.core s.here) then s
  else
    let t : State := { s with cur := { s.cur with pool := v } }
    match (t.core t.here).recording with
    | some r => if r.owner = t.self then t.abandonRec t.here 3 else t
    | none => t

/-- SETS of CTXAREA (R40): discarded when a count or S is out of range, or another live process is on the core. The writer
keeps its vector extension and the extension's slot number (DESIGN CHOICE, log 123). -/
def State.setCtxarea (s : State) (v : Word) : State :=
  let f := bits v 8 0
  let l := bits v 21 11
  let e := bits v 39 32
  let y := { s.core s.here with fulln := f, lightn := l, extn := e }
  if bits v 10 9 ≠ 0 || bits v 31 22 ≠ 0 || bits v 63 40 ≠ 0 || f < 8 || f > 256 || l > 1024 || ctxBytes y > 262144 ||
      (s.liveOn s.here).any fun k => k ≠ s.self then s
  else s.setCore s.here y

/-- The value of SETS applied to a register (R39, R40, R351). -/
def State.setRegister (s : State) (n : Nat) (v : Word) : State :=
  let c := s.here
  if n = 4 then { s with cur := { s.cur with limit := BitVec.ofNat 32 (bits v 31 0) } }
  else if n = 7 then s.setPool v
  else if n = 8 then (if v &&& ~~~fmtMask ≠ 0 then s else { s with cur := { s.cur with fmtctl := v } })
  else if n = 0x100 then (if bits v 63 16 ≠ 0 then s else s.modCore c fun x => { x with slice := BitVec.ofNat 16 v.toNat })
  else if n = 0x101 then s.setCtxarea v
  else if n = 0x110 then (if bits v 63 32 ≠ 0 then s else s.modCore c fun x => { x with dlprobe := BitVec.ofNat 32 v.toNat })
  else if n = 0x111 then
    s.modCluster (clusterOf c) fun x => { x with vigilInterval := BitVec.ofNat 32 (bits v 31 0) }
  else if n = 0x112 then
    (if bits v 63 1 ≠ 0 then s else s.modPkg (pkgOf c) fun x => { x with fablimit := v.getLsbD 0 })
  else s

/-- SETS (R36, R351): VIGIL and FABCTL only by the package monitor. -/
def execSets (a : Reg) (n : BitVec 12) (s : State) : Out :=
  let sup := supervisorRegister n.toNat
  let sh : Shape := { srcs := [a], full := sup, priv := sup }
  .next (s.issue sh fun vals s =>
    if !knownRegister n.toNat then s.trap 0x01 [n.zeroExtend 64]
    else if 0x111 ≤ n.toNat && !s.isMonitor s.self then s.trap 0x02 []
    else (s.setRegister n.toNat (op vals 0)).done sh)

/-! ## Translation maintenance (R346, R351) -/

/-- A fault entry is freed; a fault that waits at the walker takes its place (R344, R346). -/
def State.freeFault (s : State) (b i : Nat) : State :=
  let t := s.modBase b fun x => { x with faults := Map.del x.faults i }
  match (t.base b).waiting with
  | [] => t
  | (dom, wr, fe, bad, level, w) :: rest =>
    (t.modBase b fun x => { x with waiting := rest }).addFault (coreOf w.slot) dom w.va level bad wr fe w

/-- The command of a process that stands stopped on a fault in one of its core's queues (R162). -/
def State.faultedCmd (s : State) (w : FaultWaiter) : Option Cmd :=
  let x := s.core (coreOf w.slot)
  (if w.copy then x.copyQ else x.tileQ).find? fun q => q.owner = w.slot && q.pid = w.pid && q.faulted

/-- Whether a process still waits at a walker for an access of its own. -/
def State.scalarFault (s : State) (k : Slot) : Bool :=
  let own := fun (w : FaultWaiter) => w.slot = k && !w.engine
  s.bases.any fun (_, x) => (x.faults.any fun (_, f) => f.waiters.any own) || x.waiting.any fun y => own y.2.2.2.2.2

/-- A stopped command goes on at its next unit (R162): ROWPROG.VALID clears, and its process is woken when nothing else
holds it in WAITK 9, with what has ended its wait meanwhile. One that waits on for an answer to what it has sent re-enters
that wait under its own WAITK (log 103). -/
def State.restartCmd (s : State) (w : FaultWaiter) : State :=
  match s.faultedCmd w with
  | none => s
  | some q =>
    let s1 := s.modCmd (coreOf w.slot) q fun x => { x with faulted := false }
    let s2 := s1.modProc w.slot fun p =>
      { p with rowprog := if w.copy then p.rowprog else rowInvalid p.rowprog,
               engineFault := p.engineFault.filter fun f => f.1 ≠ w.copy }
    let p := s2.proc w.slot
    let more := (s2.commandsOf w.slot).any Cmd.faulted
    if p.state ≠ .parked || p.waitk ≠ 9 || more || s2.scalarFault w.slot then s2
    else
      match p.due, p.phase with
      | some (v, mark), _ => s2.wake w.slot v mark
      | none, .fresh => s2.wake w.slot 0 0
      | none, .after _ _ _ => s2.modProc w.slot fun q => { q with waitk := q.parkedAs }

/-- REPLAY to a waiter (R346). -/
def State.replayWaiter (s : State) (w : FaultWaiter) : State :=
  if w.engine then s.restartCmd w
  else if (s.proc w.slot).pid = w.pid && (s.proc w.slot).waitk = 9 then s.wake w.slot 0 0 else s

/-- FAIL to a waiter (R346). -/
def State.failWaiter (s : State) (w : FaultWaiter) : State :=
  if w.engine then
    match s.faultedCmd w with
    | some q => s.engineError (coreOf w.slot) q q.units 0x07 w.va
    | none => s
  else if (s.proc w.slot).pid = w.pid && (s.proc w.slot).waitk = 9 then s.trapOf w.slot 0x07 [w.va] else s

/-- A reply to the entry a TAG names, when it is outstanding and of the domain (R346). -/
def State.faultReply (s : State) (p dom : Nat) (tag : Nat) (replay : Bool) : State :=
  let b := p * 4 + tag / 2 ^ 30 % 4
  match ((s.base b).faults).find? (tag % 256) with
  | none => s
  | some f =>
    if f.serial ≠ tag / 256 % 2 ^ 22 || f.domain ≠ dom then s
    else f.waiters.foldl (fun (t : State) w => if replay then t.replayWaiter w else t.failWaiter w) (s.freeFault b (tag % 256))

/-- The translations a TLBINV removes (R351). -/
def removed (span dom : Nat) (va : Word) (t : Trans) : Bool :=
  span = 2 || (t.domain = dom && (span = 1 || t.page = pageAt (bits va 51 0) t.level))

/-- The kept table entries that stay after a TLBINV: it removes those of the domain that cover the address, whichever walk
kept them, those of the domain, or all (R351). -/
def keptWithout (span dom : Nat) (va : Word) (x : Base) : List KeptEntry :=
  x.tables.filter fun e => !(span = 2 || (e.domain = dom && (span = 1 || e.page = pageAt (bits va 51 0) e.level)))

/-- TLBINV (R351): the removal at once, the reply when its package-wide work is done. -/
def execTlbinv (d a : Reg) (r g : BitVec 2) (s : State) : Out :=
  let sh : Shape := { srcs := [a, d], full := true, priv := true }
  let span := g.toNat
  .next (s.issue sh fun vals s =>
    if s.cur.resumed then s.done sh
    else
      let c := op vals 1
      let va := op vals 0
      let dom := bits c 11 0
      if bits c 31 12 ≠ 0 || (span = 2 && dom ≠ 0) then s.trap 0x05 [c]
      else if !s.isMonitor s.self && (span = 2 || dom ≠ s.cur.domain.toNat) then s.trap 0x05 [c, 8]
      else if span = 0 && bits va 55 52 ≠ 0 then s.trap 0x05 [va]
      else
        s.afterDrain .package fun s =>
          let keep := fun (x : Cluster) => { x with tcache := x.tcache.filter fun t => !removed span dom va t }
          let kept := fun (x : Base) => { x with tables := keptWithout span dom va x }
          let t : State := { s with
            clusters := s.clusters.map fun (cl, x) => (cl, if cl / 128 = pkgOf s.here then keep x else x)
            bases := s.bases.map fun (b, x) => (b, if b / 4 = pkgOf s.here then kept x else x) }
          t.parkAfter 14 .remote [va, BitVec.ofNat 64 r.toNat, c] none)

/-! ## Memory keys (R347, R348) -/

/-- The checks of KEYSET on its control word, in their order. -/
def State.keyCheck (s : State) (c : Word) (f : State → State) : State :=
  let p := s.pkg (pkgOf s.here)
  let dom := bits c 27 16
  let foreign := match p.keys.find? (bits c 10 0) with | some k => k.owner ≠ s.cur.domain.toNat | none => false
  if bits c 15 11 ≠ 0 || bits c 63 28 ≠ 0 || !(p.domain dom).valid then s.trap 0x05 [c]
  else if !s.isMonitor s.self && dom ≠ s.cur.domain.toNat then s.trap 0x05 [c]
  else if !s.isMonitor s.self && foreign then s.trap 0x05 [c, 8]
  else f s

/-- The end of KEYSET: the drain, the change in the whole package at once, the wait for its completion. -/
def State.keyChange (s : State) (c : Word) (k : Option (BitVec 512)) : State :=
  s.afterDrain .package fun s =>
    let t := s.modPkg (pkgOf s.here) fun x =>
      { x with keys := match k with
          | some m => Map.put x.keys (bits c 10 0) { material := m, owner := bits c 27 16 }
          | none => Map.del x.keys (bits c 10 0) }
    t.parkAfter 14 .remote [] none

/-- KEYSET (R348): its 64 bytes are read by plain loads. -/
def execKeyset (d a : Reg) (s : State) : Out :=
  let sh : Shape := { srcs := [a], dsrc := some d, full := true, priv := true }
  .next (s.issue sh fun vals s =>
    if s.cur.resumed then s.done sh
    else
      let c := s.cur.reg d
      let p := op vals 0
      s.keyCheck c fun s =>
        State.checked (s.classifyOnly p 64) s .read fun sp t =>
          match sp with
          | .mem loc none =>
            if kindOf loc ≠ .spad || coreOfSpad loc ≠ t.here then s.trap 0x05 [p]
            else if bits p 5 0 ≠ 0 then s.trap 0x03 [p]
            else
              let accs := (upTo 8).map fun j =>
                ({ ea := addAddr p (8 * j : Nat), n := 8, spot := .mem (loc + 8 * j) none } : Acc)
              State.loadAll (fun a => a.ea) accs [] [] (fun got u =>
                let k : BitVec 512 := BitVec.ofNat 512 (leVal got.flatten)
                if k.toNat % 2 ^ 256 = k.toNat / 2 ^ 256 then u.trap 0x05 [c, 7] else u.keyChange c (some k)) t
          | _ => s.trap 0x05 [p])

/-- KEYSET.CLR (R348). -/
def execKeysetClr (d : Reg) (s : State) : Out :=
  let sh : Shape := { dsrc := some d, full := true, priv := true }
  .next (s.issue sh fun _ s =>
    if s.cur.resumed then s.done sh
    else s.keyCheck (s.cur.reg d) fun s => s.keyChange (s.cur.reg d) none)

/-! ## Cache maintenance (R237, R238) -/

/-- A dirty line invalidated without write-back: HBM keeps the value last written back (R238). -/
def State.dropLine (s : State) (l : Nat) : State :=
  match s.dirty.find? l with
  | none => s
  | some d =>
    let own := granules (64 * l) 64
    { s with dirty := s.dirty.del l, mem := s.mem.write (64 * l) d.bytes,
             poison := d.poison.foldl natInsert (s.poison.filter fun g => !own.contains g) }

/-- The dirty lines from `lo` on, `n` of them, in the cluster caches of a package. -/
def State.dirtyIn (s : State) (p lo n : Nat) : List Nat :=
  (s.dirty.filter fun (l, d) => d.cluster / 128 = p && lo ≤ l && l < lo + n).map (·.1)

/-- CFLUSH and CINV: the affected lines, the drain, then each line. -/
def State.cacheOp (s : State) (a : Reg) (r : Nat) (f : State → Nat → State) : State :=
  let sh : Shape := { srcs := [a], full := true, priv := true }
  s.issue sh fun vals s =>
    let va := op vals 0
    let go := fun (lo n : Nat) (s : State) => s.afterDrain .package fun s =>
      ((s.dirtyIn (pkgOf s.here) lo n).foldl f s).parkAfter 14 .remote vals none
    if s.cur.resumed then s.done sh
    else if r = 2 then go 0 (2 ^ 60) s
    else if bits va 55 52 ≠ 0 then s.trap 0x05 [va]
    else
      State.checked (s.translate s.here s.cur.domain.toNat va .nothing) s .nothing fun sp t =>
        let n := if r = 0 then 1 else 1024
        match sp with
        | .mem loc _ => go (loc / 64 / n * n) n t
        | .step loc _ _ => go (loc / 64 / n * n) n t
        | .atomic loc _ => go (loc / 64 / n * n) n t
        | .port _ _ _ => t.done sh

/-- CFLUSH (R237, R238). -/
def execCflush (a : Reg) (r : BitVec 2) (s : State) : Out := .next (s.cacheOp a r.toNat State.writeBack)

/-- CINV (R237, R238). -/
def execCinv (a : Reg) (r : BitVec 2) (s : State) : Out := .next (s.cacheOp a r.toNat State.dropLine)

/-- MAINTENANCE_COMPLETE (R238, R348, R351): the package-wide work of a maintenance instruction ends; a TLBINV delivers
its reply, and the process goes on. -/
def execMaintenanceComplete (k : Slot) (s : State) : Out :=
  let p := s.proc k
  if p.state ≠ .parked || p.waitk ≠ 14 then .next s
  else
    match p.inflight, p.phase with
    | some (.tlbinv _ _ _ _, _), .after vals _ _ =>
      let t := if op vals 1 = 0 then s
        else s.faultReply (pkgOf (coreOf k)) (bits (op vals 2) 11 0) (bits (op vals 2) 63 32) (op vals 1 = 1)
      .next (t.wake k 0 1)
    | some (.keyset _ _, _), _ => .next (s.wake k 0 1)
    | some (.keysetClr _, _), _ => .next (s.wake k 0 1)
    | some (.cflush _ _, _), _ => .next (s.wake k 0 1)
    | some (.cinv _ _, _), _ => .next (s.wake k 0 1)
    | _, _ => .next s

/-- NOP (R351). -/
def execNop (s : State) : Out := .next (s.issue {} fun _ s => s.done {})

/-- BREAK (R351). -/
def execBreak (s : State) : Out := .next (s.issue {} fun _ s => s.trap 0x16 [0])

end Sys2Proof.Machine
end

