-- ==== Sys2Proof/Machine/Sched.lean ====
section
/-! DEFINITION. The scheduler's events: DISPATCH, PREEMPT, SLICE_EXPIRY, BUDGET_EXHAUSTED (R241 to R243), the spill and
fill of contexts (R244, R249), the waits of R246, deadlines (R252), LOADREG and the heartbeat (R40). An event whose
condition does not hold changes nothing. -/

namespace Sys2Proof.Machine

/-- Whether a core issues at all: its die works and its package is not held in thermal reset (R23, R381). -/
def State.coreUp (s : State) (c : CoreId) : Bool :=
  s.dieUp (dieOfCore c) && (s.pkg (pkgOf c)).present && !(s.pkg (pkgOf c)).thermtrip

/-- Contexts in the register file of a core (R244). -/
def registerSlots : Nat := 8

/-- The process a core runs when it must choose (R241): the candidate if resident, else the first resident one. -/
def State.choice (s : State) (c : CoreId) : Option Slot :=
  (s.core c).queueOrder.find? fun k => (s.proc k).resident

/-- The slice a process receives and the debt it keeps (R242). -/
def sliceOf (slice debt : Nat) : Nat × Nat :=
  let full := max 64 slice
  let n := if full ≥ debt + 64 then full - debt else 64
  (n, debt - (full - n))

/-- A process is given the issue slot of its core (R240 to R242). -/
def State.dispatchTo (s : State) (c : CoreId) (k : Slot) : State :=
  let p := s.proc k
  let (n, d) := sliceOf (s.core c).slice.toNat p.debt.toNat
  let sliced := decide (2 ≤ p.prio.toNat)
  let t := (s.unlist k).modCore c fun x => { x with running := some k }
  (t.modProc k fun q => { q with
    state := .running, slice := if sliced then some n else none, overrun := 0,
    debt := if sliced then BitVec.ofNat 16 d else q.debt, resident := true,
    lastRan := s.now c }).focus k

/-- DISPATCH (R241). -/
def execDispatch (c : CoreId) (s : State) : Out :=
  .next (
    if (s.core c).running.isSome || !s.coreUp c then s
    else
      match s.choice c with
      | none => s
      | some k => s.dispatchTo c k)

/-- Whether a process stands between two instructions. -/
def Proc.atBoundary (p : Proc) : Bool := p.state = .running && p.inflight.isNone && p.held.isNone

/-- Whether the running process of a core stands at a boundary and the process the core would choose outranks it
(R241). -/
def State.outranked (s : State) (c : CoreId) : Bool :=
  match (s.core c).running, s.choice c with
  | some k, some j => (s.proc k).atBoundary && decide ((s.proc j).prio < (s.proc k).prio)
  | _, _ => false

/-- PREEMPT (R241): the running process goes to the head of its level. -/
def execPreempt (c : CoreId) (s : State) : Out :=
  .next (
    match (s.core c).running with
    | none => s
    | some k =>
      if s.outranked c then
        let t := s.modCore c fun x => { x with running := none }
        (t.modProc k fun p => { p with state := .ready, slice := none, overrun := 0, lastRan := s.now c }).toHead k
      else s)

/-- Whether the slice of a process has expired and it stands at a safe point (R242). A process dispatched at level 0 or 1
has been given none, and SETPRI gives it none (R305). -/
def Proc.sliceOver (p : Proc) : Bool := p.atBoundary && decide (2 ≤ p.prio.toNat) && p.slice == some 0 && !p.inalt

/-- SLICE_EXPIRY (R242): at a safe point the overrun becomes debt and the process goes to the tail of its level. -/
def execSliceExpiry (c : CoreId) (s : State) : Out :=
  .next (
    match (s.core c).running with
    | none => s
    | some k =>
      if (s.proc k).sliceOver then
        let t := s.modCore c fun x => { x with running := none }
        (t.modProc k fun p => { p with
          state := .ready, debt := BitVec.ofNat 16 (min 65535 (p.debt.toNat + p.overrun)), slice := none, overrun := 0,
          lastRan := s.now c }).toTail k
      else s)

/-- Whether a process of level 0 or 1 has used its budget and stands at a boundary (R243). -/
def Proc.overBudget (p : Proc) : Bool :=
  p.atBoundary && decide (p.prio.toNat ≤ 1) && p.limit != 0 && decide (p.limit.toNat ≤ p.used.toNat)

/-- BUDGET_EXHAUSTED (R243): at levels 0 and 1 the process traps BUDGET at its next boundary, inside an ALT too. -/
def execBudgetExhausted (c : CoreId) (s : State) : Out :=
  .next (
    match (s.core c).running with
    | none => s
    | some k =>
      let p := s.proc k
      if p.overBudget then s.trapOf k 0x0F [p.limit.zeroExtend 64, p.used.zeroExtend 64] else s)

/-! ## Spill and fill (R244, R249) -/

/-- The contexts in the register file of a core. -/
def State.residents (s : State) (c : CoreId) : List Slot := (s.liveOn c).filter fun k => (s.proc k).resident

/-- The first process of a queue that is not resident and stands before a resident one, or is its head. -/
def wantedOf (resident : Slot → Bool) : List Slot → Option Slot
  | [] => none
  | k :: r => if resident k then (match r.find? fun j => !resident j with
      | none => none
      | some j => if (r.dropWhile fun x => x ≠ j).any resident then some j else none) else some k

/-- The process the core fills next (R244). -/
def State.wanted (s : State) (c : CoreId) : Option Slot :=
  wantedOf (fun k => (s.proc k).resident) (s.core c).queueOrder

/-- The element of a list with the least measure, the first among equals. -/
def leastBy (f : Slot → Nat) : List Slot → Option Slot
  | [] => none
  | k :: r => (match leastBy f r with | none => some k | some j => if f j < f k then some j else some k)

/-- The victim of a spill (R244): the resident parked or stopped process that parked longest ago, else the resident
ready process of the highest-numbered level that ran least recently. -/
def State.victim (s : State) (c : CoreId) : Option Slot :=
  let rs := s.residents c
  match leastBy (fun k => (s.proc k).since) (rs.filter fun k => (s.proc k).state = .parked || (s.proc k).state = .stopped) with
  | some k => some k
  | none =>
    let ready := rs.filter fun k => (s.proc k).state = .ready || (s.proc k).state = .arriving
    let top := ready.foldl (fun m k => max m (s.proc k).prio.toNat) 0
    leastBy (fun k => (s.proc k).lastRan) (ready.filter fun k => (s.proc k).prio.toNat = top)

/-- Whether one process outranks another for a slot of the register file (R244): a lower level, or the same level and a
place ahead in the ready queue. -/
def State.outranksFor (s : State) (c : CoreId) (w v : Slot) : Bool :=
  decide ((s.proc w).prio < (s.proc v).prio) ||
    ((s.proc w).prio == (s.proc v).prio && ((s.core c).queueOrder.find? fun k => k = w || k = v) == some w)

/-- CONTEXT_SPILL (R244): a victim's record is written to the context area. -/
def execContextSpill (c : CoreId) (s : State) : Out :=
  .next (
    match s.wanted c, s.victim c with
    | some w, some v =>
      if (s.residents c).length < registerSlots then s
      else if (s.proc v).state = .parked || (s.proc v).state = .stopped || s.outranksFor c w v then
        (s.spillRecord v).modProc v fun p => { p with resident := false }
      else s
    | _, _ => s)

/-- CONTEXT_FILL (R244, R249): the wanted context enters the register file, from the context area or the arrival
queue. What a plain store has put into its record meanwhile is not taken up, and FMTCTL and POOL of a light process stay
(DESIGN CHOICE, logs 23 and 114). -/
def execContextFill (c : CoreId) (s : State) : Out :=
  .next (
    match s.wanted c with
    | some w =>
      if (s.residents c).length ≥ registerSlots || !s.coreUp c then s
      else
        (s.modCore c fun x => { x with arrivals := natErase x.arrivals w }).modProc w fun p =>
          { p with resident := true }
    | none => s)

/-- ARRIVAL_WRITE (R249): the oldest arrival-queue entry is written to its record and becomes ready. -/
def execArrivalWrite (c : CoreId) (s : State) : Out :=
  .next (
    match (s.core c).arrivals with
    | [] => s
    | k :: r =>
      let t := s.modCore c fun x => { x with arrivals := r }
      let u := t.modProc k fun p => { p with state := if p.state = .arriving then .ready else p.state }
      u.spillRecord k)

/-! ## Waits and time -/

/-- MEMORY_WAIT_PARK (R246): a wait held for 16 cycles parks the process with WAITK 13. -/
def execMemoryWaitPark (c : CoreId) (s : State) : Out :=
  .next (
    match (s.core c).running with
    | none => s
    | some k =>
      match (s.proc k).held with
      | some t0 =>
        if s.now c ≥ t0 + 16 then
          let t := s.focus k
          t.park 13 t.cur.wait t.cur.phase none
        else s
      | none => s)

/-- DEADLINE_REACHED (R252): SLEEP, WAITA and deadline guards. -/
def execDeadlineReached (k : Slot) (s : State) : Out :=
  .next (
    let p := s.proc k
    match p.deadline with
    | some d =>
      if p.state = .parked && s.now (coreOf k) ≥ d && (p.waitk = 3 || p.waitk = 4 || p.waitk = 8) then s.wake k 0 0
      else s
    | none => s)

/-- LOADi of a core (R40): ready plus running processes, at most 15; a reserved service core reads 15. An arriving process
(STATE 5) stands in a ready queue and counts as ready (DESIGN CHOICE, log 115). -/
def State.loadField (s : State) (c : CoreId) : Nat :=
  if s.isService c then 15
  else min 15 ((s.core c).queueOrder.length + (if (s.core c).running.isSome then 1 else 0))

/-- LOADREG_REFRESH (R40): all sixteen fields together. -/
def execLoadregRefresh (cl : Nat) (s : State) : Out :=
  .next (s.modCluster cl fun x => { x with
    loadreg := BitVec.ofNat 64 ((upTo 16).foldl (fun n i => n + s.loadField (cl * 16 + i) * 2 ^ (4 * i)) 0) })

/-- HEARTBEAT_TICK (R40, R181): every 512 cycles; a FENCESC that drained in an earlier cycle completes. -/
def execHeartbeatTick (p : Nat) (s : State) : Out :=
  .next (
    let x := s.pkg p
    if !x.present || x.time < 512 * (x.heartbeat + 1) then s
    else
      let t := s.modPkg p fun x => { x with heartbeat := x.heartbeat + 1 }
      let due := t.live.filter fun k => pkgOf (coreOf k) = p &&
        (match (t.proc k).wait with | .tick a => decide (a < x.time) | _ => false)
      due.foldl (fun (u : State) k => u.wake k 0 1) t)

end Sys2Proof.Machine
end

