-- ==== Sys2Proof/Machine/MemEvents.lean ====
section
/-! DEFINITION. The events of memory: STORE_PERFORM (R173, R174), MEMORY_REPLY (R246), POSTED_WRITE_FAILURE (R216),
TRANSLATION_WALK (R344), and the traps of the fetch: UNASSIGNED_ENCODING (R67), FETCH_FAULT (R111). -/

namespace Sys2Proof.Machine

/-- Every process that waits for a drain looks again: a flush may complete the drains of several (R178). -/
def State.recheckAll (s : State) : State := s.live.foldl State.recheck s

/-- STORE_PERFORM (R173, R174): the n-th entry passes the ordering point, and unless it only passes is performed at its
home; a mark whose drain is complete leaves the queue. -/
def execStorePerform (c : CoreId) (n : Nat) (passOnly : Bool) (s : State) : Out :=
  .next (
    match (s.core c).storeQ[n]? with
    | none => s
    | some q =>
      if q.target.isNone then
        (if s.markDone c q then (s.dropStore c q).recheckCore c else s)
      else if !q.passed && !s.mayPass c n q then s
      else
        (s.passStore c n q !passOnly).recheckCore c)

/-- The number of writes a process is answerable for on a port (R178). -/
def Proc.lastPosted (p : Proc) (key : Nat) : Nat := max (p.unflushedHost.get key 0) (p.unflushedIo.get key 0)

/-- A process whose late reply has come: its instruction has completed as though it had not parked (R246). -/
def Proc.completed (p q : Proc) : Proc :=
  { p with pc := q.pc, g := q.g, pred := q.pred, fmtctl := q.fmtctl, vext := q.vext, lastWord := q.lastWord, phase := .fresh,
           inflight := none }

/-- The late reply of a process's access comes, or its fetch goes on (R246). -/
def State.lateReply (s : State) (k : Slot) : State :=
  match s.late.find? k with
  | none => s.wake k 0 0
  | some q =>
    let t := State.modProc { s with late := s.late.del k } k fun p => p.completed q
    (if (t.proc k).resident then t else t.spillRecord k).wake k 0 0

/-- MEMORY_REPLY (R178, R187, R188, R216, R246): a completion reaches the process. It waits for a host port: the data or
the error of its access, which flushes the writes the port posted before that read. It waits for a home: the reply of its
access, or of its fetch. Else it is the flush of its posted writes on the port that bit 0 of the value names: a read
the port issued after them is completed. -/
def execMemoryReply (k : Slot) (v : Word) (err : Bool) (s : State) : Out :=
  .next (
    match (s.proc k).wait with
    | .reply =>
      let t := match (s.proc k).portRead with
        | some (key, n) => (s.flushPort key n).modProc k fun p => { p with portRead := none }
        | none => s
      (t.wake k v (if err then 2 else 1)).recheckAll
    | .memory => s.lateReply k
    | _ =>
      let key := portKey (pkgOf (coreOf k)) (bits v 0 0)
      (s.flushPort key ((s.proc k).lastPosted key)).recheckAll)

/-- POSTED_WRITE_FAILURE (R216, R357): counted in PSTS.WRERR, without a trap. -/
def execPostedWriteFailure (p port : Nat) (s : State) : Out :=
  .next (s.modPkg p fun x => x.setPort port { x.port port with wrerr := min 65535 ((x.port port).wrerr + 1) })

/-- TRANSLATION_WALK (R344): a miss of a cluster's translation cache walks the tables and fills a leaf; a fault that
waits at the walker takes an entry that has become free. -/
def execTranslationWalk (c : CoreId) (dom : Nat) (va : Word) (s : State) : Out :=
  .next (
    let p := pkgOf c
    let cl := clusterOf c
    let a := va.toNat % 2 ^ 52
    let b := baseOfDie (dieOfCore c)
    match (s.cluster cl).hit dom a, s.walk b dom a with
    | none, .inl (w, level, at_) =>
      if (s.walkFenced b dom a).isSome then s
      else s.fillCache cl p { domain := dom, page := pageAt a level, level := level, leaf := w ||| 8, entryAt := at_ }
    | none, .inr _ =>
      (match (s.base b).waiting with
       | (d, wr, fe, bad, level, w) :: rest =>
         if (s.base b).faults.length < 256 then
           (s.modBase b fun x => { x with waiting := rest }).addFault (coreOf w.slot) d w.va level bad wr fe w
         else s
       | [] => s)
    | some _, _ => s)

/-! ## Traps of the fetch (R67, R111) -/

/-- UNASSIGNED_ENCODING (R67): ILLOP with detail 0 at the word's own address. -/
def execUnassignedEncoding (_w : IWord) (s : State) : Out := .next (s.trap 0x01 [0])

/-- The detail words of a fetch trap: the address, and for a fenced home the die and the reason (R111, R365). -/
def State.fetchDetails (s : State) (cause : Nat) : List Word :=
  let at_ : Word := BitVec.ofNat 64 (s.cur.pc.toNat % 2 ^ 56)
  match s.translate s.here s.cur.domain.toNat at_ .exec with
  | (.trap c ds, _) => if c = cause then ds else [at_]
  | _ => [at_]

/-- FETCH_FAULT (R111): a trap at the fetched address, with no instruction decoded. -/
def execFetchFault (cause : Nat) (s : State) : Out :=
  .next (s.stopProc s.self 0 cause 0 (s.fetchDetails cause))

end Sys2Proof.Machine
end

