-- ==== Sys2Proof/Machine/ChanEvents.lean ====
section
/-! DEFINITION. The events of messages between cores: migration (R248, R249), rendezvous (R253, R254), BIND (R290), the
count messages of rings (R255, R256), CHSYNC (R293), TIMEOUT (R257), lost peers (R375), remote operations (R303, R308). -/

namespace Sys2Proof.Machine

/-! ## Migration (R248, R249) -/

/-- An answer to a spawn or migration message of a job has come (R334): a DRAIN that waited for the last is answered. -/
def State.settleJob (s : State) (c : CoreId) (job : Nat) : State :=
  if job = 0 then s
  else
    let t := s.modCore c fun x => { x with inFlight := removeFirst (fun j => j = job) x.inFlight }
    let x := t.core c
    if x.drainFor.contains job && !x.inFlight.contains job then
      (t.modCore c fun x => { x with drainFor := x.drainFor.filter fun j => j ≠ job }).send (.core c)
        (.dist (job / 2 ^ 48) (t.pkg (job / 2 ^ 48)).master) .control (.drained (BitVec.ofNat 64 (job % 2 ^ 48)) c)
    else t

/-- Entries of the arrival queue (R249) and of the refusal list (R248). -/
def arrivalRoom : Nat := 48
def refusalRoom : Nat := 64

/-- A single-stepped process whose instruction completed elsewhere stops with BREAK at its first boundary there (R37,
R240). -/
def State.stepOver (s : State) (k : Slot) : State :=
  let e : EngineStop := { kind := 0, cause := 0x16, word := (s.proc k).lastWord, details := [1], rowprog := none }
  if (s.proc k).sstep then s.modProc k fun p => { p with engineErr := some (p.engineErr.getD e) } else s

/-- A context accepted at a core: it takes the slot, in the arrival queue while that has room (R248, R249). -/
def State.acceptContext (s : State) (c : CoreId) (k src : Slot) (p : Proc) : State :=
  let room := (s.core c).arrivals.length < arrivalRoom
  let q := { p with state := if room then .arriving else .ready, since := s.now c }
  let t := (s.setProc k q).toTail k
  let u := if room then t.modCore c fun x => { x with arrivals := x.arrivals ++ [k] } else t.spillRecord k
  let v := u.send (.core c) (.core (coreOf src)) .control (.accept src p.pid p.jobKey)
  if p.job ≠ 0 && (s.core c).cancels.contains p.jobKey then v.killProc k else v.stepOver k

/-- MIGRATION_ARRIVAL (R248, R333). -/
def execMigrationArrival (n : Nat) (s : State) : Out :=
  .next (s.deliver n fun m s =>
    match m.dst, m.body with
    | .core c, .migrate p src =>
      let x := s.core c
      match (if x.cdom = p.domain && !x.busy && p.pid ≠ 0 then s.freeSlot c true else none) with
      | some k => some (s.acceptContext c k src p)
      | none =>
        let room := decide (x.refusals.length < refusalRoom) && p.pid ≠ 0
        let t := if room then s.modCore c fun x => { x with refusals := x.refusals ++ [src] } else s
        some (t.send (.core c) (.core (coreOf src)) .control (.refuse src p.pid room p.jobKey))
    | _, _ => none)

/-- ACCEPT (R248): the source slot is free. -/
def execAccept (n : Nat) (s : State) : Out :=
  .next (s.deliver n fun m s =>
    match m.body with
    | .accept k pid job =>
      let p := s.proc k
      let c := coreOf k
      let t := s.settleJob c job
      if p.pid = pid && p.state = .parked && p.waitk = 10 then
        some (((t.unchooseAll k).setProc k Proc.empty).callRefused c)
      else some t
    | _ => none)

/-- REFUSE (R248): a refusal that found the list full is followed by a resend after 1,024 cycles. -/
def execRefuse (n : Nat) (s : State) : Out :=
  .next (s.deliver n fun m s =>
    match m.body with
    | .refuse k pid listed job =>
      let p := s.proc k
      let t := s.settleJob (coreOf k) job
      if p.pid = pid && p.state = .parked && p.waitk = 10 then
        some (t.modProc k fun p => { p with deadline := if listed then none else some (s.now (coreOf k) + 1024) })
      else some t
    | _ => none)

/-- The context of a refused sender is sent again. -/
def State.resend (s : State) (k : Slot) : State :=
  match (s.proc k).state, (s.proc k).wait with
  | .parked, .migration c => (s.modProc k fun p => { p with deadline := none }).sendContext k c
  | _, _ => s

/-- SPACE (R248). -/
def execSpace (n : Nat) (s : State) : Out :=
  .next (s.deliver n fun m s => match m.body with
    | .space k pid => some (if (s.proc k).pid = pid then s.resend k else s)
    | _ => none)

/-- MIGRATION_RESEND (R248). -/
def execMigrationResend (k : Slot) (s : State) : Out :=
  .next (
    match (s.proc k).deadline with
    | some d => if (s.proc k).waitk = 10 && s.now (coreOf k) ≥ d then s.resend k else s
    | none => s)

/-! ## Rendezvous (R253, R254) -/

/-- The process that waits at a receiving end for an offer, with the operand values of its IN or INB. -/
def State.receiver (s : State) (e : EpId) : Option (Slot × List Word) :=
  match (s.ep e).waiter with
  | none => none
  | some r =>
    let p := s.proc r
    match p.wait, p.phase with
    | .endpoint f, .after vals _ 0 => if p.state = .parked && f = e then some (r, vals) else none
    | _, _ => none

/-- The process and PID an offer comes from. -/
def Offer.sender : Offer → Slot × Word
  | .word k pid _ => (k, pid)
  | .block k pid _ _ => (k, pid)

/-- OFFER (R253). An offer stays in flight behind an earlier offer still held, and behind a withdrawal on its way. -/
def execOffer (n : Nat) (s : State) : Out :=
  .next (s.deliver n fun m s =>
    match m.body with
    | .offer e o =>
      if (s.ep e).state = 0 || (s.ep e).offer.isSome ||
          (s.msgs.take n).any fun x => (match x.body with | .withdraw f _ _ => f = e | _ => false) then none
      else
        match s.receiver e, o with
        | some (r, _), .word k pid v =>
          some ((s.wake r v 1).acknowledge (coreOfEp e) k pid)
        | some (r, vals), .block k pid loc len =>
          let to_ := locSpad (coreOfEp e) ((ownOffset (coreOfEp e) (op vals 1)).getD 0)
          some ((s.startBlock e k pid loc len r to_).modProc r fun p => { p with phase := .after vals 0 3 })
        | none, o => some ((s.modEp e fun x => { x with offer := some o }).wakeEp e)
    | _ => none)

/-- ACK (R253): it wakes the sender; one for a departed sender is discarded. -/
def execAck (n : Nat) (s : State) : Out :=
  .next (s.deliver n fun m s => match m.body with | .ack k pid => some (s.answer k pid (.value 0)) | _ => none)

/-- BLOCK_TRANSFER_DONE (R253): the last byte lands and the receiver is woken with the length. -/
def execBlockTransferDone (n : Nat) (s : State) : Out :=
  .next (s.deliver n fun m s =>
    match m.src, m.body with
    | .core c, .block k pid len gs => some ((s.land c gs).answer k pid (.value (BitVec.ofNat 64 len)))
    | _, _ => none)

/-- WITHDRAW (R254): an offer of the departed party that no receiver has taken is discarded. -/
def execWithdraw (n : Nat) (s : State) : Out :=
  .next (s.deliver n fun m s =>
    match m.body with
    | .withdraw e k pid =>
      if (s.msgs.take n).any fun x => (match x.body with | .offer f o => f = e && o.sender = (k, pid) | _ => false) then none
      else
        some (s.modEp e fun x => { x with offer := x.offer.filter fun o => o.sender ≠ (k, pid) })
    | _ => none)

/-! ## BIND (R290) -/

/-- BIND: resolved at the peer's home. -/
def execBind (n : Nat) (s : State) : Out :=
  .next (s.deliver n fun m s =>
    match m.src, m.dst, m.body with
    | .core a, .core b, .bind k pid mine peer =>
      let (t, x) := s.bindResult (s.proc k).domain mine peer
      if pid = 0 then some s else some (t.send (.core b) (.core a) .channel (.bindReply k pid x))
    | _, _, _ => none)

/-- BIND_REPLY. -/
def execBindReply (n : Nat) (s : State) : Out :=
  .next (s.deliver n fun m s => match m.body with | .bindReply k pid a => some (s.answer k pid a) | _ => none)

/-! ## Count messages (R255, R256) -/

/-- A failed check, or a DESYNC message: the endpoint enters STATE 3, and what waits there looks again (R256, R377). -/
def State.enterDesync (s : State) (e : EpId) (bad : Word) : State :=
  ((s.dropTickets e).modEp e fun x => { x with state := 3, badCount := bad }).wakeEp e

/-- A check that fails at an endpoint tells its peer. -/
def State.failCheck (s : State) (e : EpId) (bad : Word) : State :=
  let x := s.ep e
  let peers := if x.peer = 0 then s.boundTo e else [epOfHandle x.peer]
  peers.foldl (fun (t : State) f => t.send (.core (coreOfEp e)) (.core (coreOfEp f)) .channel (.desync f bad))
    (s.enterDesync e bad)

/-- The word that holds a failing count message (R377). -/
def badWord (count n : Nat) (ret : Bool) : Word := BitVec.ofNat 64 (count % 2 ^ 16 + n % 2 ^ 16 * 2 ^ 16 + ret.toNat * 2 ^ 32)

/-- Whether a ring end takes COMMIT messages: bound, or an ANY receiving end (R255, R259). -/
def Endpoint.opens (x : Endpoint) : Bool := x.state = 2 || (x.state = 1 && x.mode = 2)

/-- COMMIT_MESSAGE (R255, R256, R259): the granules land, then the count is checked, or the ticket's slot is committed. -/
def execCommitMessage (n : Nat) (s : State) : Out :=
  .next (s.deliver n fun m s =>
    match m.src, m.body with
    | .core c, .commit e t k ring ticket =>
      let x := s.ep e
      if !x.opens then some s
      else
        let u := s.land c ring
        match ticket with
        | some i =>
          some ((u.modEp e fun y => { y with slots := y.slots ++ [i], tail := y.tail + BitVec.ofNat 16 k }).wakeEp e)
        | none =>
          if (x.tail.toNat + k) % 2 ^ 16 = t && (t + 2 ^ 16 - x.head.toNat) % 2 ^ 16 ≤ x.rlen then
            some ((u.modEp e fun y => { y with tail := BitVec.ofNat 16 t }).wakeEp e)
          else some (u.failCheck e (badWord t k false))
    | _, _ => none)

/-- A RETURN taken at the producer (R256). -/
def State.takeReturn (s : State) (e : EpId) (h n : Nat) : State :=
  let x := s.ep e
  if (x.head.toNat + n) % 2 ^ 16 = h && n ≤ x.committed then (s.modEp e fun y => { y with head := BitVec.ofNat 16 h }).wakeEp e
  else s.failCheck e (badWord h n true)

/-- RETURN_MESSAGE (R255, R256). -/
def execReturnMessage (n : Nat) (s : State) : Out :=
  .next (s.deliver n fun m s =>
    match m.body with
    | .ret e h k => if (s.ep e).state ≠ 2 then some s else some (s.takeReturn e h k)
    | _ => none)

/-- DESYNC (R256). -/
def execDesync (n : Nat) (s : State) : Out :=
  .next (s.deliver n fun m s =>
    match m.body with
    | .desync e bad => if (s.ep e).state = 2 then some (s.enterDesync e bad) else some s
    | _ => none)

/-- CHSYNC_ARRIVAL (R293): both ends restore together once both have run CHSYNC. -/
def execChsyncArrival (n : Nat) (s : State) : Out :=
  .next (s.deliver n fun m s =>
    match m.body with
    | .chsync e r =>
      let x := s.ep e
      if x.state = 3 && !x.syncing.isEmpty then some (s.restoreEnds e (x.syncPeer ++ [r]))
      else if x.state = 3 then some (s.modEp e fun y => { y with syncPeer := natErase y.syncPeer r ++ [r] })
      else
        some ((s.ep r).syncing.foldl (fun (t : State) k => t.wake k 0 1) (s.modEp r Endpoint.restored))
    | _ => none)

/-! ## Routes (R12, R19, R373) -/

/-- The core at fabric coordinates (R12). -/
def routerAt (x y : Nat) : Nat :=
  (2 * (x % 64 / 16) + y % 32 / 16) * 256 + (4 * (y % 16 / 4) + x % 16 / 4) * 16 + 4 * (y % 4) + x % 4

/-- Links are numbered 0 to 23 for the Delan ports, then 24 + 2·router for the fabric link from a router to its
neighbour in increasing x and one more for increasing y. -/
def fabricLink (x y : Nat) (vertical : Bool) : Nat := 24 + 2 * routerAt x y + vertical.toNat

/-- The die-to-die links of a compute die (R12). -/
def linksOfDie (e : Nat) : List Nat :=
  let x0 := 16 * (e / 2)
  let y0 := 16 * (e % 2)
  (upTo 16).flatMap fun i =>
    [fabricLink (x0 + 15) (y0 + i) false, fabricLink (x0 + 63) (y0 + i) false,
     fabricLink (x0 + i) (y0 + 15) true, fabricLink (x0 + i) (y0 + 31) true]

/-- Whether every die-to-die link of a compute die is down (R373). -/
def Package.isolated (x : Package) (e : Nat) : Bool := (linksOfDie e).all fun l => x.links.get l 0 = 2

/-- The die-to-die links from a compute die to its neighbour in increasing x, and to the one in increasing y. -/
def linksRight (e : Nat) : List Nat := (upTo 16).map fun i => fabricLink (16 * (e / 2) + 15) (16 * (e % 2) + i) false
def linksUp (e : Nat) : List Nat := (upTo 16).map fun i => fabricLink (16 * (e / 2) + i) (16 * (e % 2) + 15) true

/-- The compute dies of a package that a die is joined to by a link that is not down. -/
def Package.nextDies (x : Package) (e : Nat) : List Nat :=
  let up := fun (ls : List Nat) => ls.any fun l => x.links.get l 0 ≠ 2
  let right := (e + 2) % 8
  let left := (e + 6) % 8
  let across := e / 2 * 2 + (1 - e % 2)
  (if up (linksRight e) then [right] else []) ++ (if up (linksRight left) then [left] else []) ++
    (if up (linksUp e) || up (linksUp across) then [across] else [])

/-- The neighbour of a package in a direction of the pod torus: +X, −X, +Y, −Y, +Z, −Z (R19). -/
def torusNext (p k : Nat) : Nat :=
  let step := fun (v : Nat) => if k % 2 = 0 then (v + 1) % 8 else (v + 7) % 8
  let (x, y, z) := (p % 8, p / 8 % 8, p / 64)
  if k / 2 = 0 then z * 64 + y * 8 + step x else if k / 2 = 1 then z * 64 + step y * 8 + x else step z * 64 + y * 8 + x

/-- Whether a package has a port of a direction that is not down. -/
def Package.portsUp (x : Package) (k : Nat) : Bool := (fromTo (4 * k) 4).any fun l => x.links.get l 0 ≠ 2

/-- The packages a package can send frames to over one hop. -/
def State.nextPkgs (s : State) (p : Nat) : List Nat :=
  ((upTo 6).filter fun k =>
    let q := torusNext p k
    q ≠ p && (s.pkg q).present && (s.pkg p).portsUp k && (s.pkg q).portsUp (if k % 2 = 0 then k + 1 else k - 1)).map (torusNext p)

/-- What can be reached in a number of hops. -/
def hopsFrom (next : Nat → List Nat) : Nat → List Nat → List Nat
  | 0, seen => seen
  | fuel + 1, seen =>
    let more := seen.foldl (fun l x => (next x).foldl natInsert l) seen
    if more.length = seen.length then seen else hopsFrom next fuel more

/-- Whether a route exists between two cores (R373, R375): through die-to-die links of one package, or the Delan ports of
the pod's packages. -/
def State.routed (s : State) (c d : CoreId) : Bool :=
  if pkgOf c = pkgOf d then
    (hopsFrom (s.pkg (pkgOf c)).nextDies 8 [c / 256 % 8]).contains (d / 256 % 8)
  else (hopsFrom s.nextPkgs 512 [pkgOf c]).contains (pkgOf d)

/-! ## TIMEOUT and lost peers -/

/-- TIMEOUT (R257): a bounded CLAIM or AWAIT whose TLIMIT has passed. -/
def execTimeout (k : Slot) (s : State) : Out :=
  .next (
    let p := s.proc k
    match p.deadline, p.wait with
    | some d, .endpoint e =>
      if p.state = .parked && (p.waitk = 2 || p.waitk = 1) && s.now (coreOf k) ≥ d then
        let x := s.ep e
        s.trapOf k 0x0E [s.epHandle e, x.head.zeroExtend 64, x.tail.zeroExtend 64]
      else s
    | _, _ => s)

/-- Whether a reason of R375 holds for an endpoint's peer: no route to its core (1), its die fenced (2), its package
withdrawn (3). -/
def State.lostFor (s : State) (e : EpId) (reason : Nat) : Bool :=
  let c := coreOfEp (epOfHandle (s.ep e).peer)
  (s.ep e).peer ≠ 0 && ((reason = 1 && !s.routed (coreOfEp e) c) || (reason = 2 && !s.dieUp (dieOfCore c)) ||
    (reason = 3 && (s.pkg (pkgOf c)).withdrawn))

/-- PEER_UNREACHABLE (R375): reasons 4 and 5 come about inside the steps that free the peer. -/
def execPeerUnreachable (e : EpId) (reason : Nat) (s : State) : Out :=
  .next (if s.lostFor e reason then s.peerLost e reason else s)

/-! ## Remote operations (R285, R303, R308) -/

/-- A spawn at its target (R303): the child and its handle, or nothing. -/
def State.spawnAt (s : State) (c : CoreId) (child : Proc) : Option (Slot × State) :=
  if s.takes c child.domain child.jobKey then s.create c child else none

/-- What a remote operation other than a spawn comes to at its core. -/
def State.remoteResult (s : State) (op : RemoteOp) : State × Answer :=
  match op with
  | .spawn _ => (s, .nothing)
  | .chstat h sel dom => s.chstat h sel dom
  | .tkt e => let (t, v) := s.takeTicket e; (t, .value (BitVec.ofNat 64 v))
  | .setpri h level supv monitor dom => s.setpri h level supv monitor dom
  | .resume h image monitor dom => s.superResume h image monitor dom
  | .peek h sel monitor dom => s.superPeek h sel monitor dom
  | .poke h sel v monitor dom => s.superPoke h sel v monitor dom
  | .kill h monitor dom => s.superKill h monitor dom

/-- The reply of a remote operation goes to its issuer's core; `job` is the job a spawn is counted under (R334). -/
def State.reply (s : State) (c : CoreId) (a : Answer) (k : Slot) (pid : Word) (job : Nat) : State :=
  s.send (.core c) (.core (coreOf k)) .channel (.reply a k pid job)

/-- REMOTE_OPERATION (R303, R308): a child of a chunk is counted at its home before the reply (R328). -/
def execRemoteOperation (n : Nat) (s : State) : Out :=
  .next (s.deliver n fun m s =>
    match m.dst, m.body with
    | .core c, .remote (.spawn child) k pid =>
      (match s.spawnAt c child with
       | none => some (s.reply c (.value 0) k pid child.jobKey)
       | some (j, t) =>
         let h : Answer := .value (t.handleOf j)
         if !child.chv then some (t.reply c h k pid child.jobKey)
         else
           some (t.send (.core c) (.core child.chunkHome) .control
             (.increment child.chidx.toNat child.chunkHome k pid h child.job)))
    | .core c, .remote op k pid => let (t, a) := s.remoteResult op; some (t.reply c a k pid 0)
    | _, _ => none)

/-- REMOTE_OPERATION_REPLY (R308): it wakes the issuer with the value, or traps it. -/
def execRemoteOperationReply (n : Nat) (s : State) : Out :=
  .next (s.deliver n fun m s =>
    match m.body with
    | .reply a k pid job => some (((s.settleJob (coreOf k) job).payOwed (coreOf k)).answer k pid a)
    | _ => none)

end Sys2Proof.Machine
end

