-- ==== Sys2Proof/Machine/Probe.lean ====
section
/-! DEFINITION. Deadlock reports (R260, R261), the vigil's hang report (R262), and the delivery of records and fault
entries (R345, R364 to R367, R414). -/

namespace Sys2Proof.Machine

/-! ## Wait edges (R260) -/

/-- Whether an instruction's wait on an endpoint is one of R260's. -/
def probed : Instr → Bool
  | .outWord _ _ => true
  | .inWord _ _ => true
  | .outBlock _ _ _ => true
  | .inBlock _ _ _ => true
  | .claim _ _ _ _ => true
  | .await _ _ _ _ => true
  | _ => false

/-- The process that operated last on an endpoint, while it stands in its slot. -/
def State.operatorOf (s : State) (e : EpId) : Option Slot :=
  match (s.ep e).lastOp with
  | some (k, pid) => if (s.proc k).state ≠ .free && (s.proc k).pid = pid then some k else none
  | none => none

/-- The last process that operated on the peer of an endpoint. -/
def State.peerOperator (s : State) (e : EpId) : Option Slot :=
  let x := s.ep e
  if x.peer = 0 then none else s.operatorOf (epOfHandle x.peer)

/-- The wait edges of a process parked in one of the waits of R260; none for any other process. -/
def State.edges (s : State) (k : Slot) : Option (List (Option Slot)) :=
  let p := s.proc k
  if p.state ≠ .parked || p.waitk = 9 then none
  else
    match p.wait with
    | .endpoint e =>
      let port := p.qeps.any fun x => x.2 = e
      let op := match p.inflight with | some (i, _) => probed i | none => false
      if (op || port) && (s.ep e).state = 2 then some [s.peerOperator e] else none
    | .ticket r _ => some [s.operatorOf r]
    | .alt gs false => some (gs.map s.peerOperator)
    | _ => none

/-- The interval of a process's core (R40). -/
def State.probeInterval (s : State) (k : Slot) : Nat := (s.core (coreOf k)).dlprobe.toNat

/-- The engagement of a process that is not too old (R261). -/
def State.engagedIn (s : State) (k : Slot) : Option Engagement :=
  (s.proc k).engaged.filter fun g => s.now (coreOf k) < g.since + s.probeInterval k

/-- The most handles a path carries (R261). -/
def pathRoom : Nat := 16

/-- Whether a process is the origin a wave names: the PID in that slot (R261). -/
def State.isOrigin (s : State) (k origin : Slot) (pid : Word) : Bool := k = origin && (s.proc k).pid = pid

/-- Engages a process and forwards one copy of the probe along each of its edges (R261, rule 1). An origin that its own
wave engages again keeps that probe's path. -/
def State.engage (s : State) (k origin : Slot) (pid : Word) (serial : Nat) (sender : Option Slot) (es : List (Option Slot))
    (path : List Word) (len : Nat) : State :=
  let back := sender.isSome && s.isOrigin k origin pid
  let g : Engagement := { origin := origin, pid := pid, serial := serial, sender := sender, left := es.length,
                          since := s.now (coreOf k), path := if back then path else [], pathLen := if back then len else 0 }
  let path' := (path ++ [s.handleOf k]).take pathRoom
  (es.filterMap fun t => t).foldl (fun (t : State) j =>
    t.send (.core (coreOf k)) (.core (coreOf j)) .control (.probe j origin pid serial k path' (len + 1)))
    (s.modProc k fun p => { p with engaged := some g })

/-- PROBE_ORIGINATE (R260): a process parked for INTERVAL cycles starts a wave. -/
def execProbeOriginate (k : Slot) (s : State) : Out :=
  .next (
    let interval := s.probeInterval k
    let p := s.proc k
    let free := match s.engagedIn k with | none => true | some g => decide (k < g.origin)
    match s.edges k with
    | some es =>
      if interval = 0 || s.now (coreOf k) < p.since + interval || !free then s
      else
        let n := ((s.core (coreOf k)).probeSerial + 1) % 2 ^ 16
        (s.modCore (coreOf k) fun x => { x with probeSerial := n }).engage k k p.pid n none es [] 0
    | none => s)

/-- PROBE (R261, rules 1 to 4). -/
def execProbe (n : Nat) (s : State) : Out :=
  .next (s.deliver n fun m s =>
    match m.body with
    | .probe j origin pid serial sender path len =>
      match s.edges j with
      | none => some s
      | some es =>
        match s.engagedIn j with
        | none => some (s.engage j origin pid serial (some sender) es path len)
        | some g =>
          if g.origin = origin && g.serial = serial then
            let t := if s.isOrigin j origin pid && g.pathLen = 0 then
                s.modProc j fun p => { p with engaged := some { g with path := path, pathLen := len } }
              else s
            some (t.send (.core (coreOf j)) (.core (coreOf sender)) .control (.echo sender origin serial path len))
          else if origin < g.origin then some (s.engage j origin pid serial (some sender) es path len)
          else some s
    | _ => none)

/-- The last record of a core becomes a DEADLOCK record of three granules (R364). -/
def State.lengthen (s : State) (c : CoreId) (path : List Word) : State :=
  s.modCore c fun x =>
    { x with records := match x.records.getLast? with
        | none => x.records
        | some r =>
          let w0 := r.words.headD 0 + 2 ^ 33
          x.records.dropLast ++ [{ r with words := w0 :: r.words.drop 1 ++ (path ++ List.replicate 16 0).take 16 }] }

/-- The origin of a wave whose count has reached zero traps DEADLOCK (R261, R365). -/
def State.deadlock (s : State) (k : Slot) (g : Engagement) : State :=
  (s.trapOf k 0x10 [BitVec.ofNat 64 g.path.length, BitVec.ofNat 64 g.serial,
    BitVec.ofNat 64 (min 255 g.pathLen)]).lengthen (coreOf k) g.path

/-- ECHO (R261, rule 5). -/
def execEcho (n : Nat) (s : State) : Out :=
  .next (s.deliver n fun m s =>
    match m.body with
    | .echo j origin serial _ _ =>
      match s.engagedIn j with
      | none => some s
      | some g =>
        if g.origin ≠ origin || g.serial ≠ serial || (s.proc j).state ≠ .parked then some s
        else if g.left > 1 then some (s.modProc j fun p => { p with engaged := some { g with left := g.left - 1 } })
        else if s.isOrigin j origin g.pid then some (s.deadlock j g)
        else
          let t := s.modProc j fun p => { p with engaged := some { g with left := 0 } }
          match g.sender with
          | some k => some (t.send (.core (coreOf j)) (.core (coreOf k)) .control (.echo k origin serial [] 0))
          | none => some t
    | _ => none)

/-- ENGAGEMENT_EXPIRY (R261, rule 6). -/
def execEngagementExpiry (k : Slot) (s : State) : Out :=
  .next (if (s.proc k).engaged.isSome && (s.engagedIn k).isNone then s.modProc k fun p => { p with engaged := none } else s)

/-! ## The vigil (R262) -/

/-- The ready and parked counts of a core, each saturating at 15 (R374). -/
def State.hangByte (s : State) (c : CoreId) : Nat :=
  min 15 (s.core c).queueOrder.length + min 15 ((s.liveOn c).filter fun k => (s.proc k).state = .parked).length * 16

/-- HANG_REPORT (R262, R374): COUNT has reached a multiple of INTERVAL. -/
def execHangReport (cl : Nat) (s : State) : Out :=
  .next (
    let x := s.cluster cl
    let c := cl * 16
    let count := min (2 ^ 32 - 1) (s.now c - x.vigilSince)
    if x.vigilInterval = 0 || count = 0 || count % x.vigilInterval.toNat ≠ 0 then s
    else
      let half := fun (i : Nat) => (upTo 8).foldl (fun n j => n + s.hangByte (c + i + j) * 2 ^ (8 * j)) 0
      s.report (pkgOf c) none 0 4 [4, BitVec.ofNat 64 (cl % 128 + count * 2 ^ 32), BitVec.ofNat 64 (half 0),
        BitVec.ofNat 64 (half 8)])

/-! ## One slot of an ANY channel (R259, R366) -/

/-- The package monitor's endpoint (R414). -/
def monitorEp (p : Nat) : EpId := (p * 2048 + 255) * 1024 + Config.monitorIndex

/-- Whether an ANY receiving end can take one more slot now: the next ticket has been called. -/
def Endpoint.callable (x : Endpoint) : Bool := x.slotCount ≠ 0 && x.hasCalled x.nextt.toNat

/-- A hardware sender commits one slot for its ticket: the words, the rest zero (R259). -/
def State.commitSlot (s : State) (by_ : CoreId) (e : EpId) (t : Nat) (words : List Word) : State :=
  let x := s.ep e
  let at_ := locSpad (coreOfEp e) (64 * (x.rbase + x.slotSize * (t % max 1 x.slotCount)))
  let bs := ((words.flatMap fun (w : Word) => leBytes w.toNat 8) ++ List.replicate (64 * x.slotSize) 0).take (64 * x.slotSize)
  let u := s.writeAt none (some by_) at_ bs none
  (u.modEp e fun y => { y with slots := y.slots ++ [t], tail := y.tail + BitVec.ofNat 16 y.slotSize }).wakeEp e

/-- A hardware sender takes the next ticket and commits its slot at once. -/
def State.sendSlot (s : State) (by_ : CoreId) (e : EpId) (words : List Word) : State :=
  (s.takeTicket e).1.commitSlot by_ e (s.takeTicket e).2 words

/-- Whether an endpoint is open as an ANY receiving end of block class with a SHAPE, and not in DESYNC. -/
def Endpoint.isSink (x : Endpoint) (shapeOk : Nat → Bool) : Bool :=
  (x.state = 1 || x.state = 2) && x.mode = 2 && !x.dir && x.cls = 1 && shapeOk x.shape.toNat

/-- The endpoint a handle names when a record for a domain may go there (R366), else the package monitor's. -/
def State.sinkOf (s : State) (p : Nat) (h : Word) (d : Nat) : EpId :=
  if h ≠ 0 && s.accepts h (BitVec.ofNat 12 d) && (s.ep (epOfHandle h)).isSink (fun n => n = 192) then epOfHandle h
  else monitorEp p

/-- The handle a record of a package goes by, 0 for the package monitor, and the domain it is sent for (R366, R374, R207). -/
def State.recordHandle (s : State) (p : Nat) (r : Rec) : Word × Nat :=
  match r.dest with
  | .monitor => (0, 0)
  | .domain d => (((s.pkg p).domain d).supep, d)
  | .pod => ((s.pkg p).podsupv, 0)

/-- Where a record of a package goes. -/
def State.recordSink (s : State) (p : Nat) (r : Rec) : EpId := s.sinkOf p (s.recordHandle p r).1 (s.recordHandle p r).2

/-- Whether an endpoint is as a record's sink must be (R366). -/
def Endpoint.takesRecords (x : Endpoint) : Bool := x.isSink fun n => n = 192

/-- A waiting record takes a ticket at its sink, when it holds none and the sink is open (R259, R366). -/
def State.ticketRec (s : State) (p : Nat) (r : Rec) : State × Rec :=
  let e := s.recordSink p r
  if r.ticket.isSome || !(s.ep e).takesRecords then (s, r)
  else
    let t := s.shown (s.recordHandle p r).1 (BitVec.ofNat 12 (s.recordHandle p r).2)
    ((t.takeTicket e).1, { r with ticket := some (e, (t.takeTicket e).2) })

/-- Waiting records take their tickets in order (R367). -/
def State.ticketRecs (s : State) (p : Nat) : List Rec → State × List Rec
  | [] => (s, [])
  | r :: rest =>
    let (t, x) := s.ticketRec p r
    let (u, xs) := t.ticketRecs p rest
    (u, x :: xs)

/-- Whether the accesses a record's process performed before its trap are released at the record's endpoint: the drain of
R183 is complete for its queued stores (R367). -/
def State.released (s : State) (r : Rec) (e : EpId) : Bool :=
  match r.source with
  | none => true
  | some (k, pid) =>
    let p := s.proc k
    let q := (s.core (coreOf k)).storeQ.filter fun x => x.owner = k && x.pid = pid && x.target.isSome
    s.drainedFor (coreOf k) (if p.pid = pid then p else Proc.empty) q (drainBetween (coreOf k) e)

/-- Whether a record's ticket has been called and its commit may be made (R366, R367). -/
def State.sendable (s : State) (r : Rec) : Bool :=
  match r.ticket with
  | some (e, t) => (s.ep e).hasCalled t && s.released r e
  | none => false

/-- The first record that can be committed and has no earlier one for its endpoint before it (R367). -/
def State.firstSendable (s : State) (rs : List Rec) : Option Nat :=
  indexOf (fun i => match rs[i]? with
    | some r => s.sendable r && !(rs.take i).any fun x => x.ticket.map (·.1) = r.ticket.map (·.1)
    | none => false) (upTo rs.length) 0

/-- A core sends a record: one that leaves its cluster is a sink event of it (R262, R366). -/
def State.recordLeaves (s : State) (c : CoreId) (r : Rec) : State :=
  match r.ticket with
  | some (e, _) => if clusterOf (coreOfEp e) = clusterOf c then s else s.sink c
  | none => s

/-- A record's slot is committed. -/
def State.commitRec (s : State) (c : CoreId) (r : Rec) : State :=
  match r.ticket with
  | some (e, t) => s.commitSlot c e t r.words
  | none => s

/-- Records a core buffers awaiting their call (R367). -/
def recordRoom : Nat := 16

/-- TRAP_RECORD (R366, R367): the records buffered at a core take their tickets, and the first whose ticket has been called
is committed; core 255 does the same for its package's own reports. -/
def execTrapRecord (c : CoreId) (s : State) : Out :=
  .next (
    let p := pkgOf c
    let rs := (s.core c).records
    let (t, xs) := s.ticketRecs p (rs.take recordRoom)
    let t := t.modCore c fun x => { x with records := xs ++ rs.drop recordRoom }
    match t.firstSendable xs with
    | some i =>
      (match xs[i]? with
       | some r => ((t.recordLeaves c r).commitRec c r).modCore c fun x => { x with records := dropAt x.records i }
       | none => t)
    | none =>
      if c % 2048 ≠ 255 then t
      else
        let (u, ys) := t.ticketRecs p (t.pkg p).outbox
        let u := u.modPkg p fun x => { x with outbox := ys }
        match u.firstSendable ys with
        | some i =>
          (match ys[i]? with
           | some r => (u.commitRec c r).modPkg p fun x => { x with outbox := dropAt ys i }
           | none => u)
        | none => u)

/-! ## Fault entries (R345) -/

/-- The words of a fault entry. -/
def FaultEntry.words (f : FaultEntry) (base i : Nat) : List Word :=
  [BitVec.ofNat 64 (bits f.va 51 0),
    BitVec.ofNat 64 (f.domain + f.writes.toNat * 2 ^ 16 + f.fetches.toNat * 2 ^ 17 + f.engines.toNat * 2 ^ 18 +
      f.malformed.toNat * 2 ^ 19 + f.level * 2 ^ 20 + min 65535 f.waiters.length * 2 ^ 32),
    BitVec.ofNat 64 (base * 2 ^ 30 + f.serial * 2 ^ 8 + i), f.first]

/-- Whether a domain's PAGER can take fault entries (R345). -/
def State.pagerOk (s : State) (h : Word) (d : Nat) : Bool :=
  h ≠ 0 && s.accepts h (BitVec.ofNat 12 d) && (s.ep (epOfHandle h)).isSink fun n => 1 ≤ n && n ≤ 64

/-- The words an entry is sent as: itself to its PAGER, a record of R364 to the package monitor (R345). -/
def FaultEntry.sentAs (f : FaultEntry) (base i : Nat) (toMonitor : Bool) : List Word :=
  if toMonitor then recordWords 0x07 2 f.domain 1 0 0 0 0 (f.words base i) else f.words base i

/-- FAULT_ENTRY_SEND (R345): the walker takes a ticket at the domain's PAGER when it can take entries, else at the package
monitor's endpoint, and commits the entry once the ticket has been called. An entry whose PAGER's endpoint was freed while
it waited goes to the monitor, whatever PAGER then holds. -/
def execFaultEntrySend (p base i : Nat) (s : State) : Out :=
  .next (
    let b := p * 4 + base
    match ((s.base b).faults).find? i with
    | none => s
    | some f =>
      let by_ := p * 2048 + base * 512 + 255
      let put := fun (t : State) (g : FaultEntry) => t.modBase b fun x => { x with faults := Map.put x.faults i g }
      let (t, f) :=
        match f.ticket with
        | some _ => (s, f)
        | none =>
          let h := if f.toMonitor then 0 else ((s.pkg p).domain f.domain).pager
          let e := if s.pagerOk h f.domain then epOfHandle h else monitorEp p
          if f.sent || !(s.pagerOk h f.domain || (s.ep e).takesRecords) then (s, f)
          else
            let u := s.shown h (BitVec.ofNat 12 f.domain)
            let g := { f with ticket := some (e, (u.takeTicket e).2) }
            (put (u.takeTicket e).1 g, g)
      match f.ticket with
      | some (e, n) =>
        if f.sent || !(t.ep e).hasCalled n then t
        else put (t.commitSlot by_ e n (f.sentAs base i (t.ep e).takesRecords)) { f with sent := true, ticket := none }
      | none => t)

end Sys2Proof.Machine
end

