-- ==== Sys2Proof/Machine/StepEvents.lean ====
section
/-! DEFINITION. The calends (R192 to R212, R387): sealing, the pod tree, the streams of entries and their application at
the homes, the release, the step registers, the forming of the pod and a package's withdrawal from it. -/

namespace Sys2Proof.Machine

/-! ## The pod and its tree (R386, R387) -/

/-- The members of the pod that take part in its calends: those of R386 that have not withdrawn (R212). -/
def State.members (s : State) : List Nat :=
  (s.pkgs.filter fun e => e.2.inPod && !e.2.withdrawn).map (·.1)

/-- One hop in one dimension of the torus towards a coordinate; of two equally short directions the increasing one. -/
def hopTo (x r : Nat) : Nat := if (r + 8 - x) % 8 ≤ 4 then (x + 1) % 8 else (x + 7) % 8

/-- The next package on the route to the root: X first, then Y, then Z (R387). -/
def nextHop (n root : Nat) : Nat :=
  let x := n % 8
  let y := n / 8 % 8
  let z := n / 64
  if x ≠ root % 8 then z * 64 + y * 8 + hopTo x (root % 8)
  else if y ≠ root / 8 % 8 then z * 64 + hopTo y (root / 8 % 8) * 8 + x
  else hopTo z (root / 64) * 64 + y * 8 + x

/-- The first member on the route from `n` to the root, within a number of hops. -/
def parentFrom (member : Nat → Bool) (root : Nat) : Nat → Nat → Nat
  | 0, _ => root
  | fuel + 1, n =>
    let m := nextHop n root
    if m = root || member m then m else parentFrom member root fuel m

/-- The parent of a member in the calends tree; the root has none (R387). -/
def State.parentOf (s : State) (root n : Nat) : Option Nat :=
  if n = root then none else some (parentFrom (fun m => s.members.contains m) root 12 n)

/-- The children of a member in the tree its own ROOT gives. -/
def State.childrenOf (s : State) (p : Nat) : List Nat :=
  s.members.filter fun m => m ≠ p && s.parentOf (s.pkg p).root m = some p

/-! ## The home: applying granules (R199 to R201, R204, R347) -/

/-- The ranks of a list, rising, each once. -/
def ranksOf (es : List StepEntry) : List Nat := es.foldl (fun l e => natInsert l e.rank) []

/-- Whether the home's own key slot lets it store an entry: valid and owned by the writer's domain (R347). -/
def State.slotGood (s : State) (h : Nat) (e : StepEntry) : Bool :=
  match (s.pkg h).keys.find? e.key with
  | some k => k.owner = e.domain
  | none => false

/-- The domain that receives the report on a granule (R201): the owner of the key slot its entries name, else the domain
of the first writer. -/
def State.conflictDomain (s : State) (h : Nat) (es : List StepEntry) : Nat :=
  match es with
  | [] => 0
  | e :: r =>
    if r.any fun x => x.key ≠ e.key then e.domain
    else match (s.pkg h).keys.find? e.key with | some k => k.owner | none => e.domain

/-- Reports a conflicting granule: at most 1,024 in a calends (R201). -/
def State.reportConflict (s : State) (h g : Nat) (mask : Nat) (es : List StepEntry) : State :=
  let x := s.pkg h
  let hit := ranksOf (es.filter fun e => (upTo 8).any fun i => mask / 2 ^ i % 2 = 1 && (e.bytes.getD i none).isSome)
  let lo := hit.headD 0
  let dom := s.conflictDomain h es
  let s1 := s.modPkg h fun x =>
    { x with conflicts := x.conflicts + 1, unreported := if x.conflicts = 1024 then dom else x.unreported }
  if x.conflicts ≥ 1024 then s1
  else
    s1.report h (some dom) 0x12 2
      [BitVec.ofNat 64 (paOf (8 * g)),
       BitVec.ofNat 64 (mask + (match es with | [] => 0 | e :: _ => e.rule) * 2 ^ 8 + (x.stepno.toNat + 1) % 2 ^ 48 * 2 ^ 16),
       BitVec.ofNat 64 (lo + hit.getD 1 lo * 2 ^ 32), 0]

/-- Applies the entries of one granule to the image (R199, R200), reports conflicts (R201), and poisons the granule where
an entry is poisoned (R368). -/
def State.applyGranule (s : State) (h g : Nat) (es0 : List StepEntry) : State :=
  let es := sortEntries es0
  match es with
  | [] => s
  | e0 :: _ =>
    let covered := (upTo 8).map fun i => !(covering es i).isEmpty
    if es.any fun e => !s.slotGood h e then
      s.reportConflict h g ((upTo 8).foldl (fun m i => if covered.getD i false then m + 2 ^ i else m) 0) es
    else
      let image := s.bytesAt (8 * g) 8 (some e0.key)
      let new := (upTo 8).map (applyByte image es)
      let mask := (upTo 8).foldl (fun m i => if (new.getD i (0, false)).2 then m + 2 ^ i else m) 0
      let keep := s.poisoned (8 * g) 8 && (e0.rule ≥ 3 || mask ≠ 0 || !covered.all id)
      let s1 := s.writeAt none none (8 * g) (new.map (·.1)) (some e0.key)
      let s2 := if keep then s1.poisonAt (8 * g) else s1
      let s3 := if mask ≠ 0 then s2.reportConflict h g mask es else s2
      if es.any fun e => e.poisoned then
        (s3.poisonAt (8 * g)).report h (some (s.conflictDomain h es)) 0x08 2 [BitVec.ofNat 64 (paOf (8 * g))]
      else s3

/-- The granule every stream into unit `u` of a home has passed: none while a member's stream has passed nothing, and no
limit once every stream has ended (R204). Withdrawn members are no longer waited for (R212). -/
def State.passedAll (s : State) (h u : Nat) : Option (Option Nat) :=
  s.members.foldl (fun (b : Option (Option Nat)) m =>
    match b with
    | none => none
    | some lim =>
      if (s.pkg h).doneFrom.contains (m * 4 + u) then some lim
      else match (s.pkg h).passed.find? (m * 4 + u) with
        | none => none
        | some g => some (some (match lim with | none => g | some l => min l g))) (some none)

/-- Applies, in increasing order, every granule that every stream has passed. -/
def State.applyReady (s : State) (h u : Nat) : State :=
  match s.passedAll h u with
  | none => s
  | some lim =>
    let all := (s.pkg h).streamed.get u []
    let ready := all.filter fun e => match lim with | none => true | some l => e.gran ≤ l
    let grans := ready.foldl (fun l e => natInsert l e.gran) []
    let s1 := s.modPkg h fun x => { x with
      streamed := x.streamed.put u (all.filter fun e => !ready.contains e)
      applying := x.applying || !grans.isEmpty }
    grans.foldl (fun t g => t.applyGranule h g (ready.filter fun e => e.gran = g)) s1

/-! ## Closing by CALL, sealing and release (R193, R203) -/

/-- The OPEN row of R203 for a CALL: it closes the step when no process is enrolled. -/
def State.tryCall (s : State) (p : Nat) : State :=
  let x := s.pkg p
  if x.phase = 0 && x.called = some x.openStep && (s.enrolledOn p).isEmpty then s.closeStep p else s

/-- RELEASE at a package (R203): the sealed entries are freed, STEPNO counts, the registers waiting for OPEN take
effect (R208), processes parked in STEP and loads held by R195 go on, and the tree children are released. -/
def State.releasePkg (s : State) (p : Nat) : State :=
  let x := s.pkg p
  let no := x.stepno + 1
  let s1 := (s.childrenOf p).foldl (fun (t : State) c => t.send (.unit p) (.unit c) .control .release) s
  let ctl := x.newStepctl
  let s2 := s1.modPkg p fun x => { x with
    entries := x.entries.filter fun e => e.step ≥ x.openStep
    stepno := no, phase := 0, applying := false, conflicts := 0, newStepctl := none
    steplim := match ctl with | some v => BitVec.ofNat 32 (bits v 31 0) | none => x.steplim
    root := match ctl with | some v => bits v 40 32 | none => x.root }
  let s3 := (s2.live.filter fun k => (s2.proc k).wait = .step).foldl (fun (t : State) k =>
    let q := t.proc k
    if q.wait ≠ .step then t
    else if q.state = .parked && q.parkedAs = 7 then
      (if pkgOf (coreOf k) = p && q.arrivedIn = some (x.openStep - 1) then t.wake k no 1 else t)
    else t.wake k 0 0) s2
  (s3.tryClose p).tryCall p

/-- Whether every member holds the ROOT a package holds (R208). -/
def State.rootsAgree (s : State) (p : Nat) : Bool := s.members.all fun m => (s.pkg m).root = (s.pkg p).root

/-- The STREAMING row of R203: every DONE in, every granule applied, every tree child APPLIED. Leftover reports follow
R201; the root releases at once, but not while members hold different ROOTs (R208). -/
def State.tryApplied (s : State) (p : Nat) : State :=
  let x := s.pkg p
  if x.phase = 1 && !x.closing && (x.root ≠ p || s.rootsAgree p) && (s.members.all fun m => (upTo 4).all fun u => x.doneFrom.contains (m * 4 + u)) &&
      (s.childrenOf p).all fun c => x.appliedFrom.contains c then
    let s1 := if x.conflicts > 1024 then
        s.report p (some x.unreported) 0x12 2 [BitVec.allOnes 64, BitVec.ofNat 64 (x.conflicts - 1024)]
      else s
    let s2 := s1.modPkg p fun x => { x with phase := 2, doneFrom := [], passed := [], streamed := [], appliedFrom := [] }
    match s.parentOf x.root p with
    | some q => s2.send (.unit p) (.unit q) .control (.applied p x.openStep)
    | none => (s2.modPkg p fun x => { x with arrives := [], lateSent := 0 }).releasePkg p
  else s

/-- Whether a queued store of a package's cores still belongs to its closed step (R193). -/
def State.stepPending (s : State) (p : Nat) : Bool :=
  s.cores.any fun (c, x) => pkgOf c = p && x.storeQ.any fun q =>
    match q.target with
    | some (.step _ _ _ st) => st < (s.pkg p).openStep
    | _ => false

/-- The granules of a list of entries for one unit of one home, rising. -/
def granulesFor (es : List StepEntry) (h u : Nat) : List Nat :=
  (es.filter fun e => pkgOfLoc (8 * e.gran) = h && unitOf e.gran = u).foldl (fun l e => natInsert l e.gran) []

/-- The streams of a package's sealed entries to one home: each unit's granules in increasing order, then DONE (R204). -/
def State.streamTo (s : State) (p h : Nat) : State :=
  let es := (s.pkg p).entries.filter fun e => e.step < (s.pkg p).openStep
  (upTo 4).foldl (fun (t : State) u =>
    ((granulesFor es h u).foldl (fun (t : State) g =>
      t.send (.unit p) (.unit h) .bulk (.entries p u (es.filter fun e => e.gran = g))) t).send
        (.unit p) (.unit h) .bulk (.done p u)) s

/-- STEP_SEAL (R193, R203, R204): every contribution of the closed step is accepted; ARRIVE goes to the root and the
streams begin. -/
def execStepSeal (p : Nat) (s : State) : Out :=
  .next (
    let x := s.pkg p
    if x.phase ≠ 1 || !x.closing || s.stepPending p then s
    else
      let s1 := s.modPkg p fun x => { x with closing := false }
      let s2 := s1.send (.unit p) (.unit x.root) .control (.arrive p (x.openStep - 1))
      (s.members.foldl (fun (t : State) h => t.streamTo p h) s2).tryApplied p)

/-- ARRIVE (R203): the first of a step makes the root call every member and start STEPLIM; one of a step whose calends the
root has released comes too late to do anything. -/
def execArrive (n : Nat) (s : State) : Out :=
  .next (s.deliver n fun m s =>
    match m.body, m.dst with
    | .arrive q st, .unit r =>
      let x := s.pkg r
      if st < x.released then some s
      else
      let s1 := s.modPkg r fun x => { x with arrives := natInsert x.arrives q }
      if x.arrives.isEmpty then
        let s2 := s1.modPkg r fun x => { x with firstArrive := x.time, lateSent := 0 }
        some (s.members.foldl (fun (t : State) c =>
          t.send (.unit r) (.unit c) .control (.call st)) s2)
      else some s1
    | _, _ => none)

/-- CALL (R203): a member with no enrolled process closes its open step; a CALL for a step already closed does nothing,
and one that runs ahead of the RELEASE before it waits for OPEN. -/
def execCall (n : Nat) (s : State) : Out :=
  .next (s.deliver n fun m s =>
    match m.body, m.dst with
    | .call st, .unit p =>
      let x := s.pkg p
      if st ≠ x.openStep then some s
      else if x.phase = 0 && !(s.enrolledOn p).isEmpty then some s
      else some ((s.modPkg p fun x => { x with called := some st }).tryCall p)
    | _, _ => none)

/-- Cycles in a microsecond at 2.5 GHz (R252). -/
def cyclesPerUs : Nat := 2500

/-- STEPLIM_EXPIRY (R207): a record for each member that has not arrived, to the endpoint in PODSUPV. -/
def execSteplimExpiry (p : Nat) (s : State) : Out :=
  .next (
    let x := s.pkg p
    let late := s.members.filter fun m => !x.arrives.contains m
    if x.arrives.isEmpty || x.steplim = 0 || late.isEmpty ||
        x.time < x.firstArrive + (x.lateSent + 1) * x.steplim.toNat * cyclesPerUs then s
    else
      let us := (x.time - x.firstArrive) / cyclesPerUs
      let rec_ := fun (m : Nat) => recordWords 0x13 2 0 1 0 0 0 0 [BitVec.ofNat 64 m, x.stepno, BitVec.ofNat 64 us, 0]
      s.modPkg p fun x => { x with
        lateSent := x.lateSent + 1
        outbox := x.outbox ++ late.map fun m => { dest := .pod, words := rec_ m } })

/-- ENTRY_STREAM (R204, R199): entries reach a home unit, which applies the granules every stream has passed. -/
def execEntryStream (n : Nat) (s : State) : Out :=
  .next (s.deliver n fun m s =>
    match m.body, m.dst with
    | .entries q u es, .unit h =>
      let last := es.foldl (fun g e => max g e.gran) 0
      some ((s.modPkg h fun x => { x with
        streamed := x.streamed.put u (x.streamed.get u [] ++ es)
        passed := x.passed.put (q * 4 + u) last }).applyReady h u)
    | _, _ => none)

/-- STREAM_DONE (R204): the end of a stream. -/
def execStreamDone (n : Nat) (s : State) : Out :=
  .next (s.deliver n fun m s =>
    match m.body, m.dst with
    | .done q u, .unit h =>
      some (((s.modPkg h fun x => { x with doneFrom := natInsert x.doneFrom (q * 4 + u) }).applyReady h u).tryApplied h)
    | _, _ => none)

/-- APPLIED (R203): a tree child has applied its granules and those of its subtree. One that reaches a parent that has gone
past STREAMING in that calends, as the repeated one of a withdrawn parent's child may, does nothing. -/
def execApplied (n : Nat) (s : State) : Out :=
  .next (s.deliver n fun m s =>
    match m.body, m.dst with
    | .applied q st, .unit p =>
      if (s.pkg p).openStep ≠ st || (s.pkg p).phase ≠ 1 then some s
      else some ((s.modPkg p fun x => { x with appliedFrom := natInsert x.appliedFrom q }).tryApplied p)
    | _, _ => none)

/-- RELEASE (R203, R205). -/
def execRelease (n : Nat) (s : State) : Out :=
  .next (s.deliver n fun m s =>
    match m.body, m.dst with
    | .release, .unit p => if (s.pkg p).phase = 2 then some (s.releasePkg p) else some s
    | _, _ => none)

/-! ## The step registers (R208) -/

/-- STEPCTL as a word. -/
def Package.stepctl (x : Package) : Word := BitVec.ofNat 64 (x.steplim.toNat + x.root * 2 ^ 32)

/-- STEPOVF as a word. -/
def Package.stepovf (x : Package) : Word := BitVec.ofNat 64 (x.ovfBase + x.ovfSize * 2 ^ 40)

/-- STEPSTAT as a word. -/
def State.stepstat (s : State) (p : Nat) : Word :=
  let x := s.pkg p
  BitVec.ofNat 64 (x.phase + min (2 ^ 29 - 1) x.entries.length * 2 ^ 3 + x.hostdrop.toNat * 2 ^ 32 +
    min 65535 (s.enrolledOn p).length * 2 ^ 48)

/-- STEPCTL_WRITE (R208): it takes effect in the OPEN state. -/
def execStepctlWrite (p : Nat) (v : Word) (s : State) : Out :=
  .next (
    if bits v 63 41 ≠ 0 then s
    else
      s.modPkg p fun x =>
        if x.phase = 0 then { x with steplim := BitVec.ofNat 32 (bits v 31 0), root := bits v 40 32 }
        else { x with newStepctl := some v })

/-- STEPOVF_WRITE (R208): discarded whole while an entry lives in the overflow area, or above 131,072 units. -/
def execStepovfWrite (p : Nat) (v : Word) (s : State) : Out :=
  .next (
    if bits v 63 58 ≠ 0 || bits v 57 40 > 131072 || (s.pkg p).entries.any fun e => e.overflow then s
    else s.modPkg p fun x => { x with ovfBase := bits v 39 0, ovfSize := bits v 57 40 })

/-! ## Forming the pod, and leaving it (R387, R212) -/

/-- Whether a package is configured as a member and has ended phase 6 of its bring-up. -/
def State.readyFor (s : State) (m : Nat) : Bool := (s.pkg m).member && (s.pkg m).bringup ≥ 7

/-- The members that a configuration names (R386). -/
def membersOf (cfg : BitVec 1024) : List Nat := (upTo 512).filter (namesMember cfg)

/-- POD_FORMATION (R387): every member that the root's configuration names has ended its bring-up. STEPNO reads 0 at
every member, and processes that executed STEP before arrive in the first step. -/
def execPodFormation (s : State) : Out :=
  .next (
    let root := (s.pkgs.filter fun e => e.2.member && e.2.root = e.1).headD (0, Package.absent)
    match root.2.config with
    | none => s
    | some cfg =>
      if s.podFormed || !(membersOf cfg).all s.readyFor then s
      else
        let s1 := (membersOf cfg).foldl (fun (t : State) m =>
          t.modPkg m fun x => { x with stepno := 0, openStep := 0, bringup := 8, inPod := true }) { s with podFormed := true }
        let waiting := s1.live.filter fun k => (s1.proc k).wait = .pod && (membersOf cfg).contains (pkgOf (coreOf k))
        let s2 := waiting.foldl (fun (t : State) k => (t.modProc k fun p =>
          { p with wait := .step, arrivedIn := some 0 }).sink (coreOf k)) s1
        let came := fun (t : State) (m : Nat) =>
          if waiting.any fun k => pkgOf (coreOf k) = m then t.arrival m else t.tryClose m
        (membersOf cfg).foldl came s2)

/-- The messages of the step units after a package has left (R212): those from it and to it are gone, but a RELEASE that it
has forwarded stands, and one on its way to it goes to its tree children instead. -/
def State.dropUnit (s : State) (p : Nat) (orphans : List Nat) : State :=
  { s with msgs := s.msgs.flatMap fun m =>
      if m.src = .unit p then (if m.body = .release then [m] else [])
      else if m.dst = .unit p then
        (if m.body = .release then orphans.map fun c => { m with dst := .unit c } else [])
      else [m] }

/-- A package leaves the pod's calends and enters WITHDRAWN (R212). -/
def State.withdrawPkg (s : State) (p : Nat) : State :=
  if (s.pkg p).withdrawn then s
  else
    let orphans := s.childrenOf p
    let s1 := (s.dropUnit p orphans).modPkg p fun x => { x with withdrawn := true, phase := 3, applying := false }
    let s2 := orphans.foldl (fun (t : State) c =>
      match decide ((t.pkg c).phase = 2), t.parentOf (t.pkg c).root c with
      | true, some q => t.send (.unit c) (.unit q) .control (.applied c (t.pkg c).openStep)
      | _, _ => t) s1
    s2.members.foldl (fun (t : State) h => ((upTo 4).foldl (fun (t : State) u => t.applyReady h u) t).tryApplied h) s2

end Sys2Proof.Machine
end

