-- ==== Sys2Proof/Machine/Launch.lean ====
section
/-! DEFINITION. Launches, distributors and cancellation (R318 to R334, R418, R419): launch messages, host queues, slot
reports, the mirror, chunks, their LIVE counts and reports, completion messages, the two phases of a cancellation, and
the taking over by a new master. -/

namespace Sys2Proof.Machine

/-! ## Launch messages (R318 to R320) -/

/-- A field of a launch message: `n` bytes from byte `at_`. -/
def msgField (l : BitVec 512) (at_ n : Nat) : Nat := bits l (8 * (at_ + n) - 1) (8 * at_)

/-- Whether a launch message keeps R318's limits. -/
def goodLaunch (l : BitVec 512) : Bool :=
  msgField l 0 8 % 4 = 0 && 1 ≤ msgField l 0x14 4 && msgField l 0x10 4 + msgField l 0x14 4 ≤ 2 ^ 32 &&
    1 ≤ msgField l 0x18 2 && msgField l 0x18 2 ≤ 256 && msgField l 0x1A 2 < 4096 && msgField l 0x1C 1 < 16 &&
    msgField l 0x1D 1 = 0 && msgField l 0x30 16 = 0

/-- The pending launch that a message asks for, under its identity. -/
def launchOf (l : BitVec 512) (id : Word) : Launch :=
  { id := id, entry := BitVec.ofNat 64 (msgField l 0 8), arg := BitVec.ofNat 64 (msgField l 8 8),
    first := msgField l 0x10 4, count := msgField l 0x14 4, chunk := msgField l 0x18 2, domain := msgField l 0x1A 2,
    prio := msgField l 0x1C 1 % 4, light := l.getLsbD (8 * 0x1C + 2), supv := l.getLsbD (8 * 0x1C + 3),
    deps := msgField l 0x1E 2, compl := BitVec.ofNat 64 (msgField l 0x20 8), user := BitVec.ofNat 64 (msgField l 0x28 8),
    next := msgField l 0x10 4, again := [], sent := [], reissued := 0, stage := 0, status := 0, cores := [],
    awaiting := [] }

/-- A launch identity (R320). -/
def launchId (queue : Nat) (dev : Bool) (serial : BitVec 32) : Word :=
  BitVec.ofNat 64 (queue + dev.toNat * 2 ^ 15 + serial.toNat * 2 ^ 16)

/-- The SERIAL after another; 0 is skipped (R320). -/
def serialAfter (n : BitVec 32) : BitVec 32 := if n + 1 = 0 then 1 else n + 1

/-- QUEUE of a launch's identity. -/
def Launch.queue (l : Launch) : Nat := bits l.id 14 0

/-- Whether indices of the launch remain to be sent. -/
def Launch.hasWork (l : Launch) : Bool := !l.again.isEmpty || l.next < l.first + l.count

/-- A pending launch by its identity. -/
def Package.launch (x : Package) (id : Word) : Option Launch := List.find? (fun (l : Launch) => l.id = id) x.launches

/-- One launch of the master changed. -/
def State.modLaunch (s : State) (p : Nat) (id : Word) (f : Launch → Launch) : State :=
  s.setLaunches p fun ls => ls.map fun l => if l.id = id then f l else l

/-! ## Host queues (R321, R322, R324, R325, R332) -/

def Package.queue (x : Package) (q : Nat) : HostQueue := x.queues.get q HostQueue.atReset

def State.modQueue (s : State) (p q : Nat) (f : HostQueue → HostQueue) : State :=
  s.modPkg p fun x => { x with queues := x.queues.put q (f (x.queue q)) }

/-- Whether a launch of the queue is pending. -/
def Package.queueBusy (x : Package) (q : Nat) : Bool := x.launches.any fun l => !l.dev && l.queue = q

/-- LAUNCH_WINDOW_WRITE (R322): the checks in order; the first that fails rejects the message. -/
def execLaunchWindowWrite (p port q : Nat) (aligned : Bool) (img : BitVec 512) (s : State) : Out :=
  .next (
    let h := (s.pkg p).queue q
    let reject := fun (f : HostQueue → HostQueue) =>
      s.modQueue p q fun h => { f h with rejects := min 65535 (h.rejects + 1) }
    if !aligned then reject fun h => { h with badmsg := true }
    else if !h.en || (if h.port then 1 else 0) ≠ port then reject fun h => { h with badport := true }
    else if h.free = 0 then reject fun h => { h with full := true }
    else if !goodLaunch img || msgField img 0x1A 2 ≠ h.domain || (img.getLsbD (8 * 0x1C + 3) && !h.supv) then
      reject fun h => { h with badmsg := true }
    else
      let t := s.modQueue p q fun h => { h with free := h.free - 1, nextser := serialAfter h.nextser }
      t.setLaunches p fun ls => ls ++ [launchOf img (launchId q false h.nextser)])

/-- BADMSG of a queue. -/
def State.badMsg (s : State) (p q : Nat) : State := s.modQueue p q fun h => { h with badmsg := true }

/-- The pending launch that a host's word names in its queue (R324, R332). -/
def Package.ownLaunch (x : Package) (q : Nat) (v : Word) : Option Launch :=
  if bits v 14 0 = q && !v.getLsbD 15 then x.launch v else none

/-- DEPDEC_WRITE (R324). -/
def execDepdecWrite (p _port q : Nat) (v : Word) (s : State) : Out :=
  .next (
    match (s.pkg p).ownLaunch q v with
    | none => s.badMsg p q
    | some l => if l.deps > 0 then s.depDown p v else s.depUnder p q v)

/-- A launch has ended with a status (R327, R332): its entry is free at once, its completion message follows. -/
def State.endLaunch (s : State) (p : Nat) (l : Launch) (status : Nat) : State :=
  let t := if l.dev then s else s.modQueue p l.queue fun h => { h with free := h.free + 1, done := h.done + 1 }
  let busy := (s.pkg p).launches.filter fun x => x.dev && x.stage ≠ 3 && x.id ≠ l.id
  let n := if l.dev then min 31 (1024 - busy.length) else ((t.pkg p).queue l.queue).free
  t.modLaunch p l.id fun l =>
    { l with stage := 3, status := status, again := [], sent := [], awaiting := [], held := [], freeThen := n }

/-- QCTL as a word. -/
def HostQueue.qctl (h : HostQueue) : Word :=
  BitVec.ofNat 64 (h.en.toNat + h.port.toNat * 2 + h.qpri * 4 + h.supv.toNat * 16 + h.domain * 2 ^ 16)

/-- QSTAT as a word. -/
def HostQueue.qstat (h : HostQueue) : Word :=
  BitVec.ofNat 64 (h.free + h.nextser.toNat * 2 ^ 16 + h.done.toNat * 2 ^ 48)

/-- QERR as a word. -/
def HostQueue.qerr (h : HostQueue) : Word :=
  BitVec.ofNat 64 (h.depunder.toNat + h.badmsg.toNat * 2 + h.full.toNat * 4 + h.badport.toNat * 8 + h.rejects * 2 ^ 16 +
    h.depser.toNat * 2 ^ 32)

/-- QCTL_WRITE (R321, R325): discarded whole with a reserved bit, or when it would change DOMAIN or PORT of a queue that
has a pending launch. -/
def execQctlWrite (p _port q : Nat) (v : Word) (s : State) : Out :=
  .next (
    let h := (s.pkg p).queue q
    if bits v 15 5 ≠ 0 || bits v 63 28 ≠ 0 then s
    else if (s.pkg p).queueBusy q && (bits v 27 16 ≠ h.domain || v.getLsbD 1 ≠ h.port) then s
    else s.modQueue p q fun h =>
      { h with en := v.getLsbD 0, port := v.getLsbD 1, qpri := bits v 3 2, supv := v.getLsbD 4, domain := bits v 27 16 })

/-- Whether a distributor hears what is sent to the master: it is the master, and the 10 µs of R331 do not run. -/
def State.masterHears (s : State) (p b : Nat) : Bool := (s.pkg p).failover.isNone && b = (s.pkg p).master

/-! ## Slot reports (R326, R419) -/

/-- What a core reports: free full slots, free light slots, FULLN, LIGHTN. -/
def State.slotReport (s : State) (c : CoreId) : Nat × Nat × Nat × Nat :=
  let x := s.core c
  let full := ((s.liveOn c).filter fun k => ctxOf k < x.fulln).length
  (x.fulln - full, x.lightn - ((s.liveOn c).length - full), x.fulln, x.lightn)

/-- SLOT_REPORT (R326): at a multiple of 256, the cores of a base die report to its distributor, which forwards them to
the master. -/
def execSlotReport (p base : Nat) (s : State) : Out :=
  .next (
    let x := s.pkg p
    let b := p * 4 + base
    if x.time % 256 ≠ 0 || (s.base b).fenced.isSome then s
    else
      let cores := (fromTo (p * 2048 + base * 512) 512).filter fun c => s.dieUp (dieOfCore c)
      let m := cores.map fun c => (c, s.slotReport c)
      let t := s.modBase b fun y => { y with slots := m }
      if base = x.master then t.modPkg p fun x => { x with report := m.foldl (fun r (c, v) => Map.put r c v) x.report }
      else t.send (.dist p base) (.dist p x.master) .control (.slots base m))

/-- SLOT_REPORT_FORWARD (R326): a forwarded report reaches the master. -/
def execSlotReportForward (n : Nat) (s : State) : Out :=
  .next (s.deliver n fun m s =>
    match m.body, m.dst with
    | .slots _ r, .dist p b => if !s.masterHears p b then some s else some (s.modPkg p fun x => { x with report := r.foldl (fun q (c, v) => Map.put q c v) x.report })
    | _, _ => none)

/-! ## Cutting chunks (R324, R326, R419) -/

/-- The free slots of a kind in a report. -/
def freeIn (light : Bool) (v : Nat × Nat × Nat × Nat) : Nat := if light then v.2.1 else v.1

/-- A core's limit for a kind in a report (R419). -/
def limitIn (light : Bool) (v : Nat × Nat × Nat × Nat) : Nat := if light then v.2.2.2 else v.2.2.1

/-- The reports of the cores that a launch may use: its domain's, not reserved, not lost. -/
def State.usable (s : State) (p : Nat) (l : Launch) : Map (Nat × Nat × Nat × Nat) :=
  (s.pkg p).report.filter fun (c, _) => (s.core c).cdom.toNat = l.domain && !s.isService c && s.dieUp (dieOfCore c)

/-- The next chunk of a launch: a returned one first, else the next CHUNK indices, cut shorter where CHUNK exceeds every
core's limit (R326, R419). -/
def State.cut (s : State) (p : Nat) (l : Launch) : Nat × Nat :=
  match l.again with
  | c :: _ => c
  | [] =>
    let L := (s.usable p l).foldl (fun n (_, v) => max n (limitIn l.light v)) 0
    (l.next, min (min l.chunk L) (l.first + l.count - l.next))

/-- The core that takes a chunk: the most free slots, the lowest number among equals; it must have room for it all. -/
def State.chunkCore (s : State) (p : Nat) (l : Launch) (size : Nat) : Option CoreId :=
  ((s.usable p l).foldl (fun (best : Option (CoreId × Nat)) (c, v) =>
    let f := freeIn l.light v
    if f < size then best
    else match best with
      | none => some (c, f)
      | some (d, g) => if f > g then some (c, f) else some (d, g)) none).map (·.1)

/-- A launch's chunk and its core, when it is eligible, has work and a core qualifies. -/
def State.offerOf (s : State) (p : Nat) (l : Launch) : Option (Launch × Nat × Nat × CoreId) :=
  if l.stage ≠ 0 || l.deps ≠ 0 || !l.hasWork then none
  else
    let (first, size) := s.cut p l
    if size = 0 then none else (s.chunkCore p l size).map fun c => (l, first, size, c)

/-- The offer of each host queue: that of its first eligible launch with work, in acceptance order. -/
def State.queueOffers (s : State) (p : Nat) : List Launch → List Nat → List (Launch × Nat × Nat × CoreId)
  | [], _ => []
  | l :: r, seen =>
    if l.dev || l.stage ≠ 0 || l.deps ≠ 0 || !l.hasWork || natMem seen l.queue then s.queueOffers p r seen
    else
      match s.offerOf p l with
      | some o => o :: s.queueOffers p r (natInsert seen l.queue)
      | none => s.queueOffers p r (natInsert seen l.queue)

/-- What the master sends next (R324): device launches in acceptance order, then the queues in increasing QPRI, those of
equal QPRI in turn after the queue of that QPRI served last. -/
def State.nextChunk (s : State) (p : Nat) : Option (Launch × Nat × Nat × CoreId) :=
  let x := s.pkg p
  match (x.launches.filter Launch.dev).filterMap (s.offerOf p) with
  | o :: _ => some o
  | [] =>
    let key := fun (o : Launch × Nat × Nat × CoreId) =>
      let level := (x.queue o.1.queue).qpri
      level * 65536 + (o.1.queue + 32768 - x.rotation.get level 0) % 32768
    (s.queueOffers p x.launches []).foldl (fun best o => match best with
      | none => some o
      | some b => if key o < key b then some o else some b) none

/-! ## The mirror (R329) -/

/-- The next surviving base die after `b`, in increasing number with wrap (R329). -/
def State.nextBase (s : State) (p b : Nat) : Nat :=
  let up := fun (i : Nat) => (s.base (p * 4 + i)).fenced.isNone
  if up ((b + 1) % 4) then (b + 1) % 4 else if up ((b + 2) % 4) then (b + 2) % 4
  else if up ((b + 3) % 4) then (b + 3) % 4 else b

/-- The mirror's acknowledgement of the chunk waiting to be sent. -/
def State.askMirror (s : State) (p : Nat) (id : Word) : State :=
  s.send (.dist p (s.pkg p).mirrorAt) (.dist p (s.pkg p).master) .control (.mirrorAck id)

/-- MIRROR_WRITE (R329): the next chunk is recorded as sent in the master's launches and in the mirror, before it is
sent. -/
def execMirrorWrite (p : Nat) (s : State) : Out :=
  .next (
    let x := s.pkg p
    if x.toSend.isSome || x.failover.isSome then s
    else
      match s.nextChunk p with
      | none => s
      | some (l, first, size, c) =>
        let t := s.modLaunch p l.id fun l => { l with
          again := l.again.drop 1
          next := if l.again.isEmpty then first + size else l.next
          sent := l.sent ++ [{ core := c, first := first, size := size }] }
        let less := fun (v : Nat × Nat × Nat × Nat) =>
          if l.light then (v.1, v.2.1 - size, v.2.2) else (v.1 - size, v.2)
        let u := t.modPkg p fun x => { x with
          toSend := some (l.id, first, size, c)
          rotation := if l.dev then x.rotation else x.rotation.put (x.queue l.queue).qpri ((l.queue + 1) % 32768)
          report := x.report.map fun (d, v) => (d, if d = c then less v else v) }
        u.askMirror p l.id)

/-- MIRROR_ACK (R329, R319): the chunk is sent, its processes at the level of R319 as QPRI now stands (R325). A launch
that was cancelled meanwhile sends no more. -/
def execMirrorAck (n : Nat) (s : State) : Out :=
  .next (s.deliver n fun m s =>
    match m.body, m.dst with
    | .mirrorAck id, .dist p b =>
      let x := s.pkg p
      if !s.masterHears p b then some s
      else
      (match x.toSend, x.launch id with
       | some (id', first, size, c), some l =>
         if id' ≠ id then some s
         else
           let t := s.modPkg p fun x => { x with toSend := none }
           if l.stage ≠ 0 then
             some (t.modLaunch p id fun l => { l with sent := l.sent.filter fun e => !(e.first = first && e.core = c) })
           else
             let prio := if l.dev then l.prio else max l.prio (x.queue l.queue).qpri
             some ((t.modLaunch p id fun l => { l with begun := true }).send (.dist p b) (.core c) .control
               (.chunk id first size { l with prio := prio }))
       | _, _ => some (s.modPkg p fun x => { x with toSend := none }))
    | _, _ => none)

/-! ## Chunks at their cores (R319, R327, R328) -/

/-- The process of index `x` of a launch (R319). -/
def Launch.process (l : Launch) (x : Nat) (home : CoreId) (i : Nat) : Proc :=
  let g : Vector Word 32 := Vector.ofFn fun r =>
    if r.val = 1 then l.arg else if r.val = 2 then BitVec.ofNat 64 x else if r.val = 3 then l.id
    else if r.val = 4 then l.user else 0
  { Proc.created l.entry g l.light l.supv (BitVec.ofNat 12 l.domain) (BitVec.ofNat 2 l.prio) (BitVec.ofNat 32 x) with
    job := BitVec.ofNat 48 l.id.toNat, chome := BitVec.ofNat 11 home, chidx := BitVec.ofNat 10 i, chv := true,
    chpkg := pkgOf home }

/-- The free context slots of a kind of a core. -/
def State.freeSlots (s : State) (c : CoreId) (light : Bool) : Nat := freeIn light (s.slotReport c)

/-- The number of a launch's job in the pod. -/
def jobKeyOf (p : Nat) (id : Word) : Nat := p * 2 ^ 48 + id.toNat % 2 ^ 48

/-- CHUNK (R326, R328): the core accepts the chunk whole, creating its processes in index order, or refuses it whole. -/
def execChunk (n : Nat) (s : State) : Out :=
  .next (s.deliver n fun m s =>
    match m.body, m.dst with
    | .chunk id first size l, .core c =>
      let p := pkgOf c
      let entry := firstFree (fun i => ((s.core c).chunks.find? i).isNone) 1024 0
      (match entry, s.takes c (BitVec.ofNat 12 l.domain) (jobKeyOf p id) && size ≤ s.freeSlots c l.light with
       | some i, true =>
         let t := s.modCore c fun x => { x with chunks := Map.put x.chunks i { launch := id, first := first, live := size } }
         some ((fromTo first size).foldl (fun (t : State) x =>
           match t.create c (l.process x c i) with
           | some (_, u) => u
           | none => t) t)
       | _, _ => some (s.send (.core c) (.dist p (s.pkg p).master) .control (.chunkRefused id first size c)))
    | _, _ => none)

/-- CHUNK_REFUSED (R326): the chunk returns to the head of its launch, and the core's count is recorded as zero. -/
def execChunkRefused (n : Nat) (s : State) : Out :=
  .next (s.deliver n fun m s =>
    match m.body, m.dst with
    | .chunkRefused id first size c, .dist p b =>
      if !s.masterHears p b then some s
      else
      let light := match (s.pkg p).launch id with | some l => l.light | none => false
      let none_ := fun (v : Nat × Nat × Nat × Nat) => if light then (v.1, 0, v.2.2) else (0, v.2)
      let t := s.modLaunch p id fun l => { l with
        sent := l.sent.filter fun e => !(e.first = first && e.core = c)
        again := if l.stage = 0 then (first, size) :: l.again else l.again }
      some (t.modPkg p fun x => { x with report := x.report.map fun (d, v) => (d, if d = c then none_ v else v) })
    | _, _ => none)

/-- A chunk whose LIVE count has reached zero is reported to the master and its entry freed (R328). -/
def State.reportChunk (s : State) (c : CoreId) (i : Nat) (e : ChunkEntry) : State :=
  (s.modCore c fun x => { x with
    chunks := Map.del x.chunks i
    unreported := x.unreported ++ [(e.launch, e.first, s.now c)] }).send (.core c)
      (.dist (pkgOf c) (s.pkg (pkgOf c)).master) .control (.chunkReport e.launch e.first c)

/-- COUNT_INCREMENT (R328): the home counts a child and acknowledges; the spawn's reply follows (R303). -/
def execCountIncrement (n : Nat) (s : State) : Out :=
  .next (s.deliver n fun m s =>
    match m.body with
    | .increment i home k pid a job =>
      some ((s.liveUp home i job).reply home a k pid (if job = 0 then 0 else pkgOf home * 2 ^ 48 + job.toNat))
    | _ => none)

/-- COUNT_DECREMENT (R328): one death; ignored for an entry already freed. -/
def execCountDecrement (n : Nat) (s : State) : Out :=
  .next (s.deliver n fun m s =>
    match m.body with
    | .decrement i home job =>
      (match (s.core home).chunks.find? i with
       | some e =>
         if e.launch ≠ job.zeroExtend 64 then some s
         else if e.live ≤ 1 then some (s.reportChunk home i e)
         else some (s.modCore home fun x => { x with chunks := Map.put x.chunks i { e with live := e.live - 1 } })
       | none => some s)
    | _ => none)

/-- A launch whose chunks have all been reported completes (R327). -/
def State.completed (s : State) (p : Nat) (id : Word) : State :=
  match (s.pkg p).launch id with
  | some l => if l.stage = 0 && l.sent.isEmpty && !l.hasWork then s.endLaunch p l 0 else s
  | none => s

/-- CHUNK_REPORT (R327): the master strikes the chunk and acknowledges it to its home. One that reaches a fenced master, or
one that is master no more, is lost, and the home sends it again (R331). -/
def execChunkReport (n : Nat) (s : State) : Out :=
  .next (s.deliver n fun m s =>
    match m.body, m.dst with
    | .chunkReport id first c, .dist p b =>
      if !s.masterHears p b then some s
      else
      let t := (s.modLaunch p id fun l =>
        { l with sent := l.sent.filter fun e => !(e.first = first && e.core = c) }).completed p id
      some (t.modCore c fun x => { x with unreported := x.unreported.filter fun e => !(e.1 = id && e.2.1 = first) })
    | _, _ => none)

/-- CHUNK_REPORT_RESEND (R327): 10 µs after the last sending, to the current master. -/
def execChunkReportResend (c : CoreId) (i : Nat) (s : State) : Out :=
  .next (
    match (s.core c).unreported[i]? with
    | some (id, first, at_) =>
      if s.now c < at_ + 10 * cyclesPerUs then s
      else
        (s.modCore c fun x => { x with unreported := setAt x.unreported i (id, first, s.now c) }).send (.core c)
          (.dist (pkgOf c) (s.pkg (pkgOf c)).master) .control (.chunkReport id first c)
    | none => s)

/-! ## Completion messages (R327, R418) -/

/-- The words of a launch's completion message (R327). -/
def Launch.completionWords (l : Launch) : List Word :=
  [l.id, l.user, BitVec.ofNat 64 (l.status + l.freeThen * 2 ^ 8 + l.reissued * 2 ^ 32), 0]

/-- One granule of words committed at a MODE 3 sending end, as CLAIM and COMMIT do (R418, R360). -/
def State.commitWords (s : State) (e : EpId) (ws : List Word) : State :=
  let x := s.ep e
  let bs := ((ws.flatMap fun (w : Word) => leBytes w.toNat 8) ++ List.replicate 64 0).take 64
  match s.hostEpOf e with
  | none => s
  | some j =>
    let p := pkgOf (coreOfEp e)
    let port := if j.port then 1 else 0
    let u := s.post p port [(j.granule (x.tail.toNat % x.rlen), bs)]
    let v := u.post p port [(j.granule x.rlen, leBytes ((x.tail.toNat + 1) % 2 ^ 16 + 2 ^ 16) 8)]
    v.modEp e fun y => { y with tail := y.tail + 1 }

/-- Whether an endpoint takes completion messages as an ANY receiving end: block or word class, open, not in DESYNC
(R418). -/
def Endpoint.takesCompletion (x : Endpoint) : Bool :=
  x.mode = 2 && !x.dir && x.cls ≤ 1 && (x.state = 1 || x.state = 2)

/-- A launch's completion message goes on (R418): at an ANY receiving end it takes a ticket and, once that is called,
commits a slot; at a MODE 3 sending end it commits a granule when there is room; where delivery is impossible it becomes
an event for the package monitor. None while it waits. -/
def State.complete1 (s : State) (p : Nat) (l : Launch) : Option State :=
  let ws := l.completionWords
  let t := s.setLaunches p fun ls => ls.filter fun x => x.id ≠ l.id
  let e := epOfHandle l.compl
  let x := s.ep e
  let by_ := p * 2048 + (s.pkg p).master * 512 + 255
  let dom := BitVec.ofNat 12 l.domain
  if l.compl = 0 then some t
  else if !s.accepts l.compl dom then some ((t.shown l.compl dom).report p none 0 4 (5 :: ws.take 3))
  else if x.takesCompletion then
    match l.ticket with
    | none => some ((s.takeTicket e).1.modLaunch p l.id fun l => { l with ticket := some (e, (s.takeTicket e).2) })
    | some (_, n) => if x.hasCalled n then some (t.commitSlot by_ e n ws) else none
  else if x.mode = 3 && x.dir && x.state = 2 && (s.hostEpOf e).isSome then
    (if x.reserved = 0 && x.freeGranules ≥ 1 then some (t.commitWords e ws) else none)
  else some (t.report p none 0 4 (5 :: ws.take 3))

/-- The first launch of a list whose completion message can be sent. -/
def State.firstComplete (s : State) (p : Nat) : List Launch → Option State
  | [] => none
  | l :: r =>
    if l.stage ≠ 3 then s.firstComplete p r
    else match s.complete1 p l with
      | some t => some t
      | none => s.firstComplete p r

/-- COMPLETION_SEND (R327, R418): the completion message of a launch that has ended. -/
def execCompletionSend (p : Nat) (s : State) : Out :=
  .next (if (s.pkg p).failover.isSome then s else (s.firstComplete p (s.pkg p).launches).getD s)

/-! ## Cancellation (R332 to R334) -/

/-- The cores a cancellation is sent to: every working core of the domain in the pod. -/
def State.coresOf (s : State) (p d : Nat) : List CoreId :=
  let pkgs := natInsert (s.members) p
  (pkgs.flatMap fun q => fromTo (q * 2048) 2048).filter fun c => (s.core c).cdom.toNat = d && s.dieUp (dieOfCore c)

/-- The second phase (R334): DRAIN to every core that has acknowledged. -/
def State.beginDrain (s : State) (p : Nat) (l : Launch) : State :=
  let t := s.modLaunch p l.id fun l => { l with stage := 2, awaiting := l.cores }
  l.cores.foldl (fun (t : State) c => t.send (.dist p (s.pkg p).master) (.core c) .control (.drain l.id)) t

/-- Whether a core has room in its cancel table for a job, counting the CANCELs on their way to it (R333). -/
def State.cancelRoom (s : State) (c : CoreId) (key : Nat) : Bool :=
  let coming := s.msgs.filter fun m => m.dst = .core c && match m.body with | .cancel _ _ => true | _ => false
  (s.core c).cancels.contains key || (s.core c).cancels.length + coming.length < 64

/-- The CANCELs a launch's master holds back go out where there is room by now (R333). -/
def State.sendCancels (s : State) (p : Nat) (l : Launch) : State :=
  l.held.foldl (fun (t : State) c =>
    if t.cancelRoom c (jobKeyOf p l.id) then
      (t.modLaunch p l.id fun l => { l with held := natErase l.held c }).send (.dist p (s.pkg p).master) (.core c) .control
        (.cancel l.id l.domain)
    else t) s

/-- Every master sends the CANCELs it holds back where there is room by now (R333). -/
def State.sendHeld (s : State) : State :=
  s.pkgs.foldl (fun (t : State) (q, x) => x.launches.foldl (fun (t : State) l => t.sendCancels q l) t) s

/-- The end of a cancellation (R334): the cores clear the mark, the completion message follows. -/
def State.endCancel (s : State) (p : Nat) (l : Launch) : State :=
  (l.cores.foldl (fun (t : State) c =>
    t.modCore c fun x => { x with cancels := x.cancels.filter fun j => j ≠ jobKeyOf p l.id })
    (s.endLaunch p l l.status)).sendHeld

/-- Whether a chunk of a launch, or its refusal, is still on its way (R334). -/
def State.chunkOnWay (s : State) (id : Word) : Bool :=
  s.msgs.any fun m => match m.body with
    | .chunk i _ _ _ => i = id
    | .chunkRefused i _ _ _ => i = id
    | _ => false

/-- A cancellation goes on when nobody is awaited any more. -/
def State.cancelOn (s : State) (p : Nat) (id : Word) : State :=
  match (s.pkg p).launch id with
  | some l =>
    if !l.awaiting.isEmpty then s
    else if l.stage = 1 then (if l.cores.isEmpty then s.endCancel p l else s.beginDrain p l)
    else if l.stage = 2 && !s.chunkOnWay id then s.endCancel p l
    else s
  | none => s

/-- The first phase of ending a launch with a status (R333): CANCEL to every core of the domain, held back where the table
of 64 is full. -/
def State.beginCancel (s : State) (p : Nat) (l : Launch) (status : Nat) : State :=
  let cs := s.coresOf p l.domain
  let t := s.modLaunch p l.id fun l =>
    { l with stage := 1, status := status, cores := cs, awaiting := cs, held := cs, again := [] }
  let u := match (t.pkg p).launch l.id with
    | some l => t.sendCancels p l
    | none => t
  u.cancelOn p l.id

/-- CANCEL_WRITE (R332): no chunk sent, the entry is free at once; one whose last chunk has been reported sets BADMSG (R335);
one already being cancelled stays as it is (log 109). -/
def execCancelWrite (p _port q : Nat) (v : Word) (s : State) : Out :=
  .next (
    match (s.pkg p).ownLaunch q v with
    | none => s.badMsg p q
    | some l =>
      if l.stage = 3 && l.status = 0 then s.badMsg p q
      else if l.stage ≠ 0 then s
      else if l.deps ≠ 0 || !l.begun then s.endLaunch p l 1
      else s.beginCancel p l 1)

/-- JOB_CANCEL (R333): the core marks the job, kills its processes, reports, and acknowledges. -/
def execJobCancel (n : Nat) (s : State) : Out :=
  .next (s.deliver n fun m s =>
    match m.body, m.src, m.dst with
    | .cancel id domain, .dist p b, .core c =>
      let key := jobKeyOf p id
      let x := s.core c
      let ack := fun (t : State) => t.send (.core c) (.dist p b) .control (.cancelAck id c)
      if x.cancels.contains key then some (ack s)
      else if x.cancels.length ≥ 64 then none
      else
        let t := s.modCore c fun x => { x with cancels := x.cancels ++ [key] }
        let doomed := (t.liveOn c).filter fun k => (t.proc k).jobKey = key && !t.leftFor k
        let u := doomed.foldl (fun (u : State) k => u.killProc k) t
        let ws := recordWords 0x18 2 domain 1 0 0 0 0 [id, BitVec.ofNat 64 doomed.length]
        some (ack (u.buffer c { dest := .domain domain, words := ws }))
    | _, _, _ => none)

/-- CANCEL_ACK (R333, R334). -/
def execCancelAck (n : Nat) (s : State) : Out :=
  .next (s.deliver n fun m s =>
    match m.body, m.dst with
    | .cancelAck id c, .dist p b =>
      if !s.masterHears p b then some s
      else some ((s.modLaunch p id fun l => if l.stage = 1 then { l with awaiting := natErase l.awaiting c } else l).cancelOn p
        id)
    | _, _ => none)

/-- DRAIN (R334): answered at once when no message of the job is unanswered, else with the last answer. -/
def execDrain (n : Nat) (s : State) : Out :=
  .next (s.deliver n fun m s =>
    match m.body, m.src, m.dst with
    | .drain id, .dist p b, .core c =>
      let key := jobKeyOf p id
      if (s.core c).inFlight.contains key then some (s.modCore c fun x => { x with drainFor := natInsert x.drainFor key })
      else some (s.send (.core c) (.dist p b) .control (.drained id c))
    | _, _, _ => none)

/-- DRAINED (R334): with the last one the cancellation ends. -/
def execDrained (n : Nat) (s : State) : Out :=
  .next (s.deliver n fun m s =>
    match m.body, m.dst with
    | .drained id c, .dist p b =>
      if !s.masterHears p b then some s
      else
      (match (s.pkg p).launch id with
       | some l =>
         if l.stage = 2 && l.awaiting = [c] && s.chunkOnWay id then none
         else
           some ((s.modLaunch p id fun l =>
             if l.stage = 2 then { l with awaiting := natErase l.awaiting c } else l).cancelOn p id)
       | none => some s)
    | _, _ => none)

/-! ## Device launches (R323) -/

/-- The lowest free entry of the device table. -/
def Package.freeDevice (x : Package) : Option Nat :=
  firstFree (fun i => !x.launches.any fun l => l.dev && l.queue = i && l.stage ≠ 3) 1024 0

/-- DEVICE_LAUNCH (R303, R323): the master accepts the message and answers with the launch identity, or refuses it with
0; a message that comes while a new master is awaited waits for it (R331). -/
def execDeviceLaunch (n : Nat) (s : State) : Out :=
  .next (s.deliver n fun m s =>
    match m.body, m.dst with
    | .device l k pid supv domain, .dist p _ =>
      let x := s.pkg p
      let b := x.master
      let answer := fun (t : State) (v : Word) => t.send (.dist p b) (.core (coreOf k)) .channel (.reply (.value v) k pid 0)
      let allowed := goodLaunch l && msgField l 0x1A 2 = domain.toNat &&
        (supv || (!l.getLsbD (8 * 0x1C + 3) && msgField l 0x1C 1 % 4 ≥ 2))
      if x.failover.isSome then none
      else
      (match x.freeDevice with
       | some i =>
         if allowed then
           let id := launchId i true x.devSerial
           let t := s.modPkg p fun x => { x with devSerial := serialAfter x.devSerial }
           some (answer (t.setLaunches p fun ls => ls ++ [launchOf l id]) id)
         else some (answer s 0)
       | none => some (answer s 0))
    | _, _ => none)

/-! ## A new master (R331) -/

/-- Whether a sent chunk is at its core or on its way there or back: chunk entry, report or message. -/
def State.chunkKnown (s : State) (p : Nat) (id : Word) (e : SentChunk) : Bool :=
  (s.core e.core).chunks.any (fun (_, y) => y.launch = id && y.first = e.first) ||
    (s.core e.core).unreported.any (fun y => y.1 = id && y.2.1 = e.first) ||
    (s.msgs.any fun m => m.dst.pkg = p && match m.body with
      | .chunk i f _ _ => i = id && f = e.first
      | .chunkRefused i f _ _ => i = id && f = e.first
      | _ => false) ||
    match (s.pkg p).toSend with
    | some (i, f, _, _) => i = id && f = e.first
    | none => false

/-- MASTER_FAILOVER (R331): 10 µs after the fence the lowest-numbered surviving distributor resumes from the mirror; a
chunk that no core holds goes back to its launch. With the mirror lost too, every pending launch ends with LOST. -/
def execMasterFailover (p : Nat) (s : State) : Out :=
  .next (
    let x := s.pkg p
    match x.failover with
    | none => s
    | some at_ =>
      if x.time < at_ + 10 * cyclesPerUs then s
      else
        let b := s.nextBase p 3
        let lost := (s.base (p * 4 + x.mirrorAt)).fenced.isSome
        let send := if lost then none else x.toSend
        let t := s.modPkg p fun x =>
          { x with failover := none, master := b, mirrorAt := s.nextBase p b, launches := x.mirror, toSend := send }
        if lost then
          x.mirror.foldl (fun (t : State) l =>
            if l.stage = 3 then t.modLaunch p l.id fun l => { l with status := 2 } else t.beginCancel p l 2) t
        else
          let u := t.setLaunches p fun ls => ls.map fun l =>
            let gone := (l.sent.filter fun e => !s.chunkKnown p l.id e).map fun e => (e.first, e.size)
            let kept := l.sent.filter fun e => s.chunkKnown p l.id e
            { l with sent := kept, again := if l.stage = 0 then gone ++ l.again else l.again }
          let v := match x.toSend with
            | some (id, _, _, _) => u.askMirror p id
            | none => u
          x.mirror.foldl (fun (t : State) l => if l.stage = 1 || l.stage = 2 then t.beginCancel p l l.status else t) v)

end Sys2Proof.Machine
end

