-- ==== Sys2Proof/Machine/Host.lean ====
section
/-! DEFINITION. The hosts and the shared register map (R208, R321, R336 to R339, R354 to R360): semaphores, core
reassignment, common-store windows, domain descriptors, host endpoints, plain registers, package memory accessed from a
host, the PCI Express links. -/

namespace Sys2Proof.Machine

/-- The state after an event written as an outcome. -/
def State.after (s : State) (o : Out) : State := match o with | .next t => t | _ => s

/-! ## Ports (R354, R357) -/

/-- A package that holds itself in reset: after a thermal trip, or a self-test that failed (R23, R385). -/
def Package.heldInReset (x : Package) : Bool := x.thermtrip || x.bringup = 0


def State.modPort (s : State) (p n : Nat) (f : Port → Port) : State :=
  s.modPkg p fun x => x.setPort n (f (x.port n))

/-- BADACC of a port, saturating (R356). -/
def State.badAccess (s : State) (p n : Nat) : State :=
  s.modPort p n fun x => { x with badacc := min 65535 (x.badacc + 1) }

/-- MSI-X vector `i` on both ports (R354). -/
def State.interruptBoth (s : State) (p i : Nat) : State :=
  let ring := fun (x : Port) => { x with interrupts := x.interrupts ++ [i] }
  (s.modPort p 0 ring).modPort p 1 ring

/-- A read completion returned to a port's host. -/
def State.answerPort (s : State) (p n : Nat) (bs : List Byte) : State := s.modPort p n fun x => { x with completion := bs }

/-- Whether a host port can train: the base die that carries it works, and bring-up has come to the training of the ports,
or the package holds in its thermal reset (R23, R383, R385). -/
def State.portTrains (s : State) (p port : Nat) : Bool :=
  (s.base (p * 4 + (if port = 0 then 0 else 2))).fenced.isNone &&
    ((s.pkg p).thermtrip || decide (3 ≤ (s.pkg p).bringup))

/-- PCIE_LINK_UP (R357, R385). -/
def execPcieLinkUp (p port : Nat) (s : State) : Out :=
  .next (if s.portTrains p port then s.modPort p port fun x => { x with linkup := true } else s)

/-! ## Semaphores (R358) -/

/-- A semaphore's register: bit 0 HELD, bits 2:1 OWNER; it reads 0 while it is free. -/
def Package.sem (x : Package) (i : Nat) : Nat := x.sems.get i 0

def State.setSem (s : State) (p i v : Nat) : State := s.modPkg p fun x => { x with sems := x.sems.put i v }

/-- A release: the semaphore is free, vector `i` is raised on both ports where `i` is not 0. -/
def State.releaseSem (s : State) (p i : Nat) : State :=
  let t := s.setSem p i 0
  if i = 0 then t else t.interruptBoth p i

/-- SEM_READ (R358): the value before the read goes to the reader, and a free semaphore with it: 0 and 1 are the ports, 2
the monitor; no other agent reads one. -/
def execSemRead (p who i : Nat) (s : State) : Out :=
  .next (
    let old := (s.pkg p).sem i
    let t := if old % 2 = 0 then s.setSem p i (1 + who * 2) else s
    if who ≤ 1 then t.answerPort p who (leBytes old 8)
    else if who = 2 then t.modPkg p fun x => { x with monitorData := leBytes old 8 }
    else s)

/-- SEM_WRITE (R358): only a write of 0 by the owner releases; any other is discarded, and counted for a port. -/
def execSemWrite (p who i : Nat) (v : Word) (s : State) : Out :=
  .next (
    if v = 0 && (s.pkg p).sem i = 1 + who * 2 then s.releaseSem p i
    else if who ≤ 1 then s.modPort p who fun x => { x with semerr := min 255 (x.semerr + 1) }
    else s)

/-- PCIE_LINK_DOWN (R358, R363): the port's semaphores are released, its firmware upload is discarded. -/
def execPcieLinkDown (p port : Nat) (s : State) : Out :=
  .next (
    let t := s.modPort p port fun x => { x with linkup := false }
    let held := ((s.pkg p).sems.filter fun e => e.2 = 1 + port * 2).map (·.1)
    let u := held.foldl (fun (t : State) i => t.releaseSem p i) t
    u.modPkg p fun x => { x with
      upload := match x.upload with
        | some up => if up.port = port then none else x.upload
        | none => none })

/-! ## Core reassignment (R338) -/

/-- Whether a CDOM write is discarded. -/
def State.badCdom (s : State) (c : CoreId) (v : Word) : Bool :=
  let x := s.core c
  bits v 63 13 ≠ 0 || !((s.pkg (pkgOf c)).domain (bits v 11 0)).valid || c % 2048 = 255 || !(s.liveOn c).isEmpty ||
    !x.tileQ.isEmpty || !x.copyQ.isEmpty || x.replay.state ≠ .idle || x.recording.isSome || x.busy

/-- CDOM_WRITE (R338): BUSY is 1 until the clearing ends. -/
def execCdomWrite (c : CoreId) (v : Word) (s : State) : Out :=
  .next (
    if s.badCdom c v then s
    else s.modCore c fun x => { x with busy := true, newDom := BitVec.ofNat 12 (bits v 11 0) })

/-- Bytes cleared to zero with good check bits. -/
def State.clearBytes (s : State) (lo hi : Nat) : State :=
  { s with mem := s.mem.clear lo hi, poison := s.poison.filter fun g => !(lo ≤ 8 * g && 8 * g < hi) }

/-- CDOM_CLEAR_DONE (R338): the steps of the clearing, then DOMAIN takes its value. -/
def execCdomClearDone (c : CoreId) (s : State) : Out :=
  .next (
    let x := s.core c
    if !x.busy then s
    else
      let s1 := s.clearBytes (locSpad c 0) (locSpad c spadSize)
      let s2 := (fromTo (c * 1024) 1024).foldl (fun (t : State) e => t.freeEp e 5) s1
      let cl := clusterOf c
      let mine := ((s2.cluster cl).tapes.filter fun e => e.2.core = c).map (·.1)
      let s3 := mine.foldl (fun (t : State) i => t.invalidate cl i) s2
      s3.modCore c fun x => { x with acc := [], accPoison := [], lut := [], cdom := x.newDom, busy := false })

/-! ## Common-store windows (R339) -/

/-- A window register as a word. -/
def Window.word (x : Window) : Word :=
  BitVec.ofNat 64 (x.base + x.size * 2 ^ 11 + x.domain * 2 ^ 32 + x.valid.toNat * 2 ^ 63)

/-- A window register's value in a word. -/
def windowOf (v : Word) : Window :=
  { base := bits v 9 0, size := bits v 21 11, domain := bits v 43 32, valid := v.getLsbD 63 }

/-- Whether a unit of 64 KiB lies in a window. -/
def Window.covers (x : Window) (u : Nat) : Bool := x.valid && x.base ≤ u && u < x.base + x.size

/-- Whether some window of a die gives a unit to a domain. -/
def Die.gives (x : Die) (d u : Nat) : Bool := (upTo 16).any fun w => (x.window w).domain = d && (x.window w).covers u

/-- Whether a window write is discarded. -/
def State.badWindow (s : State) (p e w : Nat) (v : Word) : Bool :=
  let n := windowOf v
  bits v 10 10 ≠ 0 || bits v 31 22 ≠ 0 || bits v 62 44 ≠ 0 || n.base + n.size > 1024 ||
    (n.valid && (!((s.pkg p).domain n.domain).valid || (upTo 16).any fun i =>
      let o := (s.die e).window i
      i ≠ w && o.valid && o.domain ≠ n.domain && n.size ≠ 0 && o.size ≠ 0 && n.base < o.base + o.size &&
        o.base < n.base + n.size))

/-- Step 1 of a window write for one unit that leaves its domain. -/
def State.unitLeaves (s : State) (e u : Nat) : State :=
  let lo := locCommon (e / 8) (e % 8) (65536 * u)
  let hi := lo + 65536
  let s1 := { s with ordadds := s.ordadds.filter fun o => !(lo ≤ 8 * o.gran && 8 * o.gran < hi) }
  let s2 := (s1.barriers.filter fun b => lo ≤ b.1 && b.1 < hi).foldl (fun (t : State) b =>
    let a := match (t.proc b.2).phase with | .after (v :: _) _ _ => v | _ => 0
    t.trapOf b.2 0x05 [a]) s1
  let woken := (s2.armed.filter fun a => lo ≤ 64 * a.1 && 64 * a.1 < hi).map (·.2)
  woken.foldl (fun (t : State) k => t.wake k 0 1) { s2 with armed := s2.armed.filter fun a => !(lo ≤ 64 * a.1 && 64 * a.1 < hi) }

/-- Whether a write that was checked under the windows as they are has still to be performed at a location that `f` picks:
a queued store, a write of a command, a granule of a channel block on its way (R339). -/
def State.writesTo (s : State) (f : Nat → Bool) : Bool :=
  let hits := fun (t : Target) => match t with | .mem loc => f loc | _ => false
  (s.cores.any fun (_, x) =>
    (x.storeQ.any fun q => match q.target with | some g => hits g | none => false) ||
      (x.tileQ ++ x.copyQ).any fun q => q.pending.any fun w => hits w.target) ||
    s.msgs.any fun m => match m.body with | .block _ _ _ gs => gs.any fun g => f g.1 | _ => false

/-- The 64 KiB unit of common store of a die that a location lies in. -/
def unitOfDie (e loc : Nat) : Option Nat :=
  let lo := locCommon (e / 8) (e % 8) 0
  if lo ≤ loc && loc < lo + 65536 * 1024 then some ((loc - lo) / 65536) else none

/-- A window write that waits starts once none is in progress: one that is to be discarded is passed over (R339). -/
def State.startWindow (s : State) (e : Nat) : List (Nat × Word) → State
  | [] => if (s.die e).windowQ.isEmpty then s else s.modDie e fun x => { x with windowQ := [] }
  | (w, v) :: r =>
    if s.badWindow (e / 8) e w v then s.startWindow e r
    else s.modDie e fun x => { x with clearing := some (w, windowOf v), windowQ := r }

/-- The window write in progress on a die takes effect (R339): the bytes that leave, the bytes that join, the window. It
waits for the writes to the bytes that leave, which were checked under the window as it was. -/
def State.finishWindow (s : State) (e : Nat) : State :=
  let x := s.die e
  match x.clearing with
  | none => s
  | some (w, n) =>
    let o := x.window w
    let y := { x with windows := x.windows.put w n, clearing := none }
    let leaves := fun (u : Nat) => o.covers u && !y.gives o.domain u
    let joining := (upTo 1024).filter fun u => n.covers u && !x.gives n.domain u
    let at_ := fun (u : Nat) => locCommon (e / 8) (e % 8) (65536 * u)
    if s.writesTo fun loc => (unitOfDie e loc).any leaves then s
    else
      let s1 := s.modDie e fun _ => y
      let s2 := ((upTo 1024).filter leaves).foldl (fun (t : State) u => t.unitLeaves e u) s1
      let s3 := joining.foldl (fun (t : State) u => t.clearBytes (at_ u) (at_ u + 65536)) s2
      s3.startWindow e x.windowQ

/-- WINDOW_WRITE (R339): an accepted write starts; one that comes while another is in progress on the die waits until
that one has taken effect, and is checked then. -/
def execWindowWrite (p die w : Nat) (v : Word) (s : State) : Out :=
  .next (
    let e := p * 8 + die
    if w ≥ 16 then s
    else if (s.die e).clearing.isSome then s.modDie e fun x => { x with windowQ := x.windowQ ++ [(w, v)] }
    else s.startWindow e [(w, v)])

/-- WINDOW_CLEAR_DONE (R339): bytes that leave, bytes that join and are cleared, then the new window. -/
def execWindowClearDone (p die : Nat) (s : State) : Out := .next (s.finishWindow (p * 8 + die))

/-! ## Domain descriptors (R336, R337) -/

def State.modDomain (s : State) (p d : Nat) (f : Domain → Domain) : State :=
  s.modPkg p fun x => { x with domains := x.domains.put d (f (x.domain d)) }

/-- Whether something still belongs to a domain of a package (R337). -/
def State.domainUsed (s : State) (p d : Nat) : Bool :=
  ((upTo 2048).any fun c =>
    let x := s.core (p * 2048 + c)
    x.cdom.toNat = d || (x.busy && x.newDom.toNat = d)) ||
    ((upTo 8).any fun e =>
      let x := s.die (p * 8 + e)
      ((x.clearing.toList.map (·.2)) ++ (upTo 16).map x.window).any fun w => w.valid && w.domain = d) ||
    ((s.pkg p).keys.any fun k => k.2.owner = d) || (s.pkg p).launches.any fun l => l.domain = d

/-- DESCRIPTOR_WRITE (R336, R337). -/
def execDescriptorWrite (p dom i : Nat) (v : Word) (s : State) : Out :=
  .next (
    if i = 0 then
      (if bits v 63 1 ≠ 0 || (!v.getLsbD 0 && (dom = 0 || s.domainUsed p dom)) then s
       else s.modDomain p dom fun x => { x with valid := v.getLsbD 0 })
    else if i = 1 then
      (if bits v 11 0 ≠ 0 || v.toNat ≥ hbmSize then s else s.modDomain p dom fun x => { x with root := v })
    else if i = 2 then s.modDomain p dom fun x => { x with secret := setBits x.secret 63 0 v.toNat }
    else if i = 3 then s.modDomain p dom fun x => { x with secret := setBits x.secret 127 64 v.toNat }
    else if i = 4 then s.modDomain p dom fun x => { x with supep := v }
    else if i = 5 then s.modDomain p dom fun x => { x with pager := v }
    else s)

/-! ## Host endpoints (R360) -/

def Package.hostEp (x : Package) (j : Nat) : HostEp := x.hostEps.get j HostEp.atReset

def State.modHostEp (s : State) (p j : Nat) (f : HostEp → HostEp) : State :=
  s.modPkg p fun x => { x with hostEps := x.hostEps.put j (f (x.hostEp j)) }

/-- The endpoint of a bound entry. -/
def HostEp.ep (x : HostEp) : EpId := epOfHandle x.handle

/-- Clearing VALID has the effect of CHFREE on the peer (R291, R360). -/
def State.unbindHost (s : State) (e : EpId) : State :=
  if (s.ep e).mode = 3 && (s.ep e).state ≥ 2 then
    (s.cutPeer e 4).modEp e fun x => { x with rlen := 0 }
  else s

/-- A granule of a host ring read into the scratchpad ring of its endpoint: a read request goes to the host, whose
completion brings the data, a free value, and flushes the writes the port posted before it (R178, R187, R360; log 9). -/
def State.readRing (s : State) (j : HostEp) (e : EpId) (i : Nat) : State :=
  let x := s.ep e
  let c := coreOfEp e
  let o := 64 * (x.rbase + i)
  let port := if j.port then 1 else 0
  let key := portKey (pkgOf c) port
  let t := (s.settlePort c port).request (pkgOf c) port (.read (j.granule i) 64)
  let bs := (upTo 8).flatMap fun k => leBytes (Config.freeWord (t.draws + k)).toNat 8
  let u := (State.flushPort { t with draws := t.draws + 8 } key (t.postedOn key))
  if o + 64 ≤ ctxBase (u.core c) then u.writeAt none (some c) (locSpad c o) bs none else u

/-- The n of a HOSTIDX write taken at the endpoint (R256, R360): a RETURN at a sending end; at a receiving end a COMMIT
whose granules are read from the host into the scratchpad ring. -/
def State.takeIndex (s : State) (e : EpId) (n : Nat) : State :=
  let x := s.ep e
  if x.dir then s.takeReturn e ((x.head.toNat + n) % 2 ^ 16) n
  else if n > x.rlen - x.committed then s.failCheck e (badWord (x.tail.toNat + n) n false)
  else
    let t := match s.hostEpOf e with
      | some j => (upTo n).foldl (fun (t : State) i => t.readRing j e ((x.tail.toNat + i) % x.rlen)) s
      | none => s
    (t.modEp e fun y => { y with tail := y.tail + BitVec.ofNat 16 n }).wakeEp e

/-- HOSTIDX_WRITE (R360). -/
def execHostidxWrite (p j : Nat) (v : Word) (s : State) : Out :=
  .next (
    let x := (s.pkg p).hostEp j
    if bits v 63 16 ≠ 0 then s
    else
      let new := BitVec.ofNat 16 v.toNat
      let t := s.modHostEp p j fun x => { x with hostidx := new }
      if x.valid && (s.hostEpOf x.ep).isSome && (s.ep x.ep).state = 2 then t.takeIndex x.ep (new - x.hostidx).toNat
      else t)

/-- Whether a write that sets VALID names an endpoint that may be bound: accepted by R46, in STATE 1 of MODE 3. -/
def State.bindable (s : State) (h : Word) : Bool :=
  let x := s.ep (epOfHandle h)
  s.accepts h x.domain && x.state = 1 && x.mode = 3

/-- HOST_ENDPOINT_WRITE (R360): word `i` of entry `j`. A write that sets VALID is discarded whole unless HANDLE names an
endpoint in STATE 1 of MODE 3; an accepted one binds it and wakes what waited for that. -/
def execHostEndpointWrite (p j i : Nat) (v : Word) (s : State) : Out :=
  let x := (s.pkg p).hostEp j
  if i = 0 then .next (s.modHostEp p j fun x => { x with handle := v })
  else if i = 1 then
    .next (if bits v 63 48 ≠ 0 || bits v 5 0 ≠ 0 then s else s.modHostEp p j fun x => { x with ring := v })
  else if i = 2 then
    .next (
      let set := fun (t : State) =>
        t.modHostEp p j fun x => { x with valid := v.getLsbD 0, port := v.getLsbD 1, rlen := bits v 13 2 }
      if bits v 63 14 ≠ 0 then s
      else if v.getLsbD 0 then
        (if s.bindable x.handle then
           ((set s).modEp x.ep fun y =>
             { y with state := 2, rlen := bits v 13 2 + 1, head := 0, tail := 0, linkReason := none, linkWords := [] }).wakeEp
             x.ep
         else s.shown x.handle (s.ep (epOfHandle x.handle)).domain)
      else set (if x.valid && (s.hostEpOf x.ep).isSome then s.unbindHost x.ep else s))
  else if i = 3 then execHostidxWrite p j v s
  else .next s

/-! ## The shared register map (R356) -/

/-- Bytes of a port's mailbox that a write reaches; none where the map has no writable bytes there (R363). -/
def Port.mailWrite (x : Port) (off : Nat) (v : Word) : Option Port :=
  if off < 0x030 then some { x with nonce := setBits x.nonce (8 * off + 63) (8 * off) v.toNat }
  else if off = 0x040 then some { x with arg := v }
  else if 0x300 ≤ off && off < 0x380 then
    some { x with config := setBits x.config (8 * (off - 0x300) + 63) (8 * (off - 0x300)) v.toNat }
  else if 0x400 ≤ off && off < 0x500 then
    some { x with block := setBits x.block (8 * (off - 0x400) + 63) (8 * (off - 0x400)) v.toNat }
  else none

/-- A write to PSTS of a port (R357): the counts are set. -/
def Port.writePsts (x : Port) (v : Word) : Port :=
  if bits v 15 1 ≠ 0 || bits v 63 56 ≠ 0 then x
  else { x with wrerr := bits v 31 16, badacc := bits v 47 32, semerr := bits v 55 48 }

/-- A write to QERR: ones clear (R321). -/
def HostQueue.writeQerr (h : HostQueue) (v : Word) : HostQueue :=
  if bits v 15 4 ≠ 0 then h
  else { h with depunder := h.depunder && !v.getLsbD 0, badmsg := h.badmsg && !v.getLsbD 1,
                full := h.full && !v.getLsbD 2, badport := h.badport && !v.getLsbD 3 }

/-- A write to a register of a host queue, at an offset in its 128 bytes. -/
def State.writeQueue (s : State) (p port q o : Nat) (v : Word) : State :=
  if o < 0x40 then s.after (execLaunchWindowWrite p port q false (v.zeroExtend 512) s)
  else if o = 0x40 then s.after (execQctlWrite p port q v s)
  else if o = 0x48 then s
  else if o = 0x50 then s.modQueue p q fun h => h.writeQerr v
  else if o = 0x58 then s.after (execDepdecWrite p port q v s)
  else if o = 0x60 then s.after (execCancelWrite p port q v s)
  else s.badAccess p port

/-- A write of 8 bytes at an offset of BAR0 (R356), PKGEVT and the mailbox COMMAND apart (R23, R363). -/
def State.writeMap (s : State) (p port off : Nat) (v : Word) : State :=
  if off % 8 ≠ 0 then s.badAccess p port
  else if off = 0 || off = 8 || off = 0x5030 then s
  else if off = 0x1000 then s.after (execStepctlWrite p v s)
  else if off = 0x1008 then s.after (execStepovfWrite p v s)
  else if off = 0x1010 then s.modPkg p fun x => { x with hostdrop := BitVec.ofNat 16 (bits v 47 32) }
  else if off = 0x1018 then s.modPkg p fun x => { x with podsupv := v }
  else if 0x2000 ≤ off && off < 0x2200 then s.after (execSemWrite p port ((off - 0x2000) / 8) v s)
  else if 0x3000 ≤ off && off < 0x3400 then s
  else if off = 0x4000 then s.modPort p 0 fun x => x.writePsts v
  else if off = 0x4040 then s.modPort p 1 fun x => x.writePsts v
  else if 0x5000 ≤ off && off < 0x6000 then
    match ((s.pkg p).port port).mailWrite (off - 0x5000) v with
    | some x => s.modPort p port fun _ => x
    | none => s.badAccess p port
  else if 0x10000 ≤ off && off < 0x14000 then s.after (execCdomWrite (p * 2048 + (off - 0x10000) / 8) v s)
  else if 0x14000 ≤ off && off < 0x14400 then
    s.after (execWindowWrite p ((off - 0x14000) / 128) ((off - 0x14000) % 128 / 8) v s)
  else if 0x20000 ≤ off && off < 0x60000 then
    s.after (execDescriptorWrite p ((off - 0x20000) / 64) ((off - 0x20000) % 64 / 8) v s)
  else if 0x80000 ≤ off && off < 0x88000 then
    s.after (execHostEndpointWrite p ((off - 0x80000) / 32) ((off - 0x80000) % 32 / 8) v s)
  else if 0x100000 ≤ off && off < 0x500000 then
    s.writeQueue p port ((off - 0x100000) / 128) ((off - 0x100000) % 128) v
  else s.badAccess p port

/-- A word of a mailbox as it reads (R363). -/
def Port.mailRead (x : Port) (off : Nat) : Word :=
  if off = 0x038 then x.status
  else if 0x100 ≤ off && off < 0x258 then BitVec.ofNat 64 (bits x.report (8 * (off - 0x100) + 63) (8 * (off - 0x100)))
  else 0

/-- A word of a domain descriptor as it reads: SECRET is write only (R336). -/
def Domain.word (x : Domain) (i : Nat) : Word :=
  if i = 0 then BitVec.ofNat 64 x.valid.toNat else if i = 1 then x.root else if i = 4 then x.supep
  else if i = 5 then x.pager else if i = 6 then x.chrefuse.zeroExtend 64 else 0

/-- A word of a host endpoint entry as it reads. -/
def HostEp.word (x : HostEp) (i : Nat) : Word :=
  if i = 0 then x.handle else if i = 1 then x.ring
  else if i = 2 then BitVec.ofNat 64 (x.valid.toNat + x.port.toNat * 2 + x.rlen * 4)
  else x.hostidx.zeroExtend 64

/-- A word of a host queue as it reads. -/
def HostQueue.word (h : HostQueue) (o : Nat) : Word :=
  if o = 0x40 then h.qctl else if o = 0x48 then h.qstat else if o = 0x50 then h.qerr else 0

/-- Whether a read of 8 bytes at an offset of BAR0 reaches a readable register (R356, R363). -/
def mapReads (off : Nat) : Bool :=
  let queue := fun (o : Nat) => decide (o ≤ 0x60)
  off % 8 = 0 && (off = 0 || off = 8 || (0x1000 ≤ off && off < 0x1020) || (0x2000 ≤ off && off < 0x2200) ||
    (0x3000 ≤ off && off < 0x3400) || off = 0x4000 || off = 0x4040 || (0x5000 ≤ off && off < 0x6000) ||
    (0x10000 ≤ off && off < 0x14000) || (0x14000 ≤ off && off < 0x14400) || (0x20000 ≤ off && off < 0x60000) ||
    (0x80000 ≤ off && off < 0x88000) || (0x100000 ≤ off && off < 0x500000 && queue ((off - 0x100000) % 128)))

/-- What 8 bytes at a defined offset of BAR0 read, the semaphores apart (R356). -/
def State.readMap (s : State) (p port off : Nat) : Word :=
  let x := s.pkg p
  let psts := fun (y : Port) =>
    (BitVec.ofNat 64 (y.linkup.toNat + y.wrerr * 2 ^ 16 + y.badacc * 2 ^ 32 + y.semerr * 2 ^ 48) : Word)
  if off = 0 then BitVec.ofNat 64 (Config.partNumber + Config.revision * 2 ^ 16 + p * 2 ^ 32 + x.master * 2 ^ 41)
  else if off = 8 then BitVec.ofNat 64 x.thermtrip.toNat
  else if off = 0x1000 then x.stepctl
  else if off = 0x1008 then x.stepovf
  else if off = 0x1010 then s.stepstat p
  else if off = 0x1018 then x.podsupv
  else if 0x2000 ≤ off && off < 0x2200 then BitVec.ofNat 64 (x.sem ((off - 0x2000) / 8))
  else if 0x3000 ≤ off && off < 0x3400 then
    let y := s.cluster (p * 128 + (off - 0x3000) / 8)
    BitVec.ofNat 64 (y.temp % 256 + y.throttled.toNat * 256)
  else if off = 0x4000 then psts x.port0
  else if off = 0x4040 then psts x.port1
  else if 0x5000 ≤ off && off < 0x6000 then (x.port port).mailRead (off - 0x5000)
  else if 0x10000 ≤ off && off < 0x14000 then
    let y := s.core (p * 2048 + (off - 0x10000) / 8)
    BitVec.ofNat 64 (y.cdom.toNat + y.busy.toNat * 2 ^ 12)
  else if 0x14000 ≤ off && off < 0x14400 then
    ((s.die (p * 8 + (off - 0x14000) / 128)).window ((off - 0x14000) % 128 / 8)).word
  else if 0x20000 ≤ off && off < 0x60000 then (x.domain ((off - 0x20000) / 64)).word ((off - 0x20000) % 64 / 8)
  else if 0x80000 ≤ off && off < 0x88000 then (x.hostEp ((off - 0x80000) / 32)).word ((off - 0x80000) % 32 / 8)
  else if 0x100000 ≤ off && off < 0x500000 then (x.queue ((off - 0x100000) / 128)).word ((off - 0x100000) % 128)
  else 0

/-- A read of `n` bytes at an offset of BAR0 (R356): of a semaphore as R358 says; of anything else that is not 8 aligned
bytes of a defined register zero, counted in BADACC. -/
def State.readHost (s : State) (p port off n : Nat) : State :=
  if n ≠ 8 || !mapReads off then (s.badAccess p port).answerPort p port (List.replicate n 0)
  else if 0x2000 ≤ off && off < 0x2200 then s.after (execSemRead p port ((off - 0x2000) / 8) s)
  else s.answerPort p port (leBytes (s.readMap p port off).toNat 8)

/-! ## Package memory from a host (R187, R196, R209, R381) -/

/-- Whether a host access reaches memory that exists and still works. -/
def State.hostReaches (s : State) (p loc n : Nat) : Bool :=
  pkgOfLoc loc = p && pkgOfLoc (loc + n - 1) = p && n ≥ 1 && n ≤ 8 && !(s.pkg p).heldInReset &&
    match kindOf loc with
    | .hbm => paOf loc + n ≤ hbmSize && (s.base (baseOfHbm loc)).fenced.isNone
    | .common => dieOfCommon loc < p * 8 + 8 && s.dieUp (dieOfCommon loc)
    | .spad => coreOfSpad loc < p * 2048 + 2048 && spadOff loc + n ≤ spadSize && s.dieUp (dieOfCore (coreOfSpad loc))

/-- HOST_MEMORY_WRITE (R187, R196, R209): performed at its home; writes to STEP (mode 1) and ATOMIC (mode 2) pages are
dropped and counted. -/
def execHostMemoryWrite (p port loc n mode key : Nat) (v : Word) (s : State) : Out :=
  .next (
    if !s.hostReaches p loc n then s.badAccess p port
    else if mode ≠ 0 then
      s.modPkg p fun x =>
        { x with hostdrop := if x.hostdrop = BitVec.allOnes 16 then x.hostdrop else x.hostdrop + 1 }
    else s.writeAt none none loc (leBytes v.toNat n) (if kindOf loc = .hbm then some key else none))

/-- HOST_MEMORY_READ (R187, R196, R195): a STEP page answers from its image, once its home no longer applies a calends.
The bytes of a poisoned granule are free values (log 9). -/
def execHostMemoryRead (p port loc n mode key : Nat) (s : State) : Out :=
  .next (
    if !s.hostReaches p loc n then (s.badAccess p port).answerPort p port (List.replicate n 0)
    else if mode = 1 && (s.pkg p).applying then s
    else
      let (bs, bad, t) := s.readAt loc n (if kindOf loc = .hbm then some key else none)
      if bad then
        let u := t.answerPort p port (leBytes (Config.freeWord t.draws).toNat n)
        { u with draws := u.draws + 1 }
      else t.answerPort p port bs)

end Sys2Proof.Machine
end

