-- ==== Sys2Proof/Machine/Bringup.lean ====
section
/-! DEFINITION. Reset, bring-up, configuration, firmware and attestation (R48, R330, R361 to R363, R385, R386, R414). -/

namespace Sys2Proof.Machine

/-! ## Reset (R48) -/

/-- Whether an agent belongs to a package. -/
def Agent.inPkg (p : Nat) (a : Agent) : Bool := a.pkg = p

/-- Every core, cluster, die, slot, endpoint and volatile memory of a package as at reset; HBM keeps what it holds, dirty
cache lines are lost. -/
def State.wipe (s : State) (p : Nat) : State :=
  let lost := (s.dirty.filter fun d => pkgOfLoc (64 * d.1) = p).map (·.1)
  let s1 := lost.foldl (fun (t : State) l => t.dropLine l) s
  let s2 := s1.clearBytes (p * pkgSpan + commonBase) ((p + 1) * pkgSpan)
  let mine := fun (k : Slot) => decide (pkgOf (coreOf k) = p)
  { s2 with
    cur := if mine s2.self then Proc.empty else s2.cur
    procs := s2.procs.filter fun e => !mine e.1
    cores := s2.cores.filter fun e => pkgOf e.1 ≠ p
    eps := s2.eps.filter fun e => pkgOf (coreOfEp e.1) ≠ p
    clusters := s2.clusters.filter fun e => e.1 / 128 ≠ p
    dies := s2.dies.filter fun e => e.1 / 8 ≠ p
    bases := s2.bases.filter fun e => e.1 / 4 ≠ p
    ordadds := s2.ordadds.filter fun o => pkgOfLoc (8 * o.gran) ≠ p
    armed := s2.armed.filter fun a => !mine a.2
    barriers := s2.barriers.filter fun a => !mine a.2
    msgs := s2.msgs.filter fun m => m.src.pkg ≠ p && m.dst.pkg ≠ p }

/-- The pod ends: no package is a member of it, and one that has been reset since it withdrew may join the next. -/
def State.endPod (s : State) : State :=
  { s with
    podFormed := false
    pkgs := s.pkgs.map fun e =>
      (e.1, { e.2 with inPod := false, withdrawn := e.2.withdrawn && decide (7 ≤ e.2.bringup) }) }

/-- A package as power-on or reset leaves it: out of the pod it was in, at the first phase of bring-up, with the stored
firmware image kept (R48, R362, R385). While the pod lasts, it stays one that has been a member and has withdrawn, however
often it is reset (R192, R212). The last member's reset ends the pod. -/
def State.resetPkg (s : State) (p : Nat) : State :=
  let x := s.pkg p
  let was := x.inPod && s.podFormed
  let s1 := if was then s.withdrawPkg p else s
  let kept := was && !s1.members.isEmpty
  let s2 := (s1.wipe p).modPkg p fun _ =>
    { Package.atReset with present := x.present, part := x.part, image := x.image, inPod := kept, withdrawn := kept,
                           phase := if kept then 3 else 0 }
  if was && !kept then s2.endPod else s2

/-- PACKAGE_RESET (R48, R385). -/
def execPackageReset (p : Nat) (s : State) : Out := .next (s.resetPkg p)

/-- PKGEVT_CLEAR (R23, R356): clearing THERMTRIP lets the package leave its thermal reset. -/
def execPkgevtClear (p : Nat) (v : Word) (s : State) : Out :=
  .next (if bits v 63 1 = 0 && v.getLsbD 0 && (s.pkg p).thermtrip then s.resetPkg p else s)

/-! ## The mailbox (R363) -/

/-- STATUS when a command finishes: DONE, REFUSED, DETAIL. A refused command has finished too. -/
def statusWord (detail : Nat) : Word := BitVec.ofNat 64 (1 + (if detail = 0 then 0 else 2) + detail * 2 ^ 8)

/-- The command of a port's mailbox finishes. -/
def State.finishCommand (s : State) (p port detail : Nat) : State :=
  s.modPort p port fun x => { x with command := none, status := statusWord detail }

/-- A write to COMMAND: discarded and counted while a command is in progress, else STATUS is cleared and it runs. A package
held in reset takes none (R23). -/
def State.command (s : State) (p port n : Nat) (f : State → State) : State :=
  if (s.pkg p).heldInReset then s
  else if ((s.pkg p).port port).command.isSome then s.badAccess p port
  else f (s.modPort p port fun x => { x with command := some n, status := 0 })

/-- The bytes of a number, the first the most significant. -/
def beBytes (v n : Nat) : List Nat := (upTo n).map fun i => v / 2 ^ (8 * (n - 1 - i)) % 256

/-- The number whose little-endian bytes are given. -/
def numOfBytes (bs : List Nat) : Nat := bs.foldr (fun b v => b + 256 * v) 0

/-- The little-endian bytes of a number. -/
def byteNums (v n : Nat) : List Nat := (upTo n).map fun i => v / 2 ^ (8 * i) % 256

/-- The bytes of a report that are signed: version, nonce, M0, M1, public key (R361). -/
def State.reportBody (s : State) (p port : Nat) : List Nat :=
  let x := s.pkg p
  byteNums 1 8 ++ byteNums (x.port port).nonce.toNat 48 ++ beBytes x.m0.toNat 48 ++ beBytes x.m1.toNat 48 ++
    beBytes (Config.publicKey x.part).toNat 96

/-- ATTESTATION (R361): the request starts. -/
def execAttestation (p port : Nat) (s : State) : Out := .next (s.command p port 1 fun t => t)

/-- ATTESTATION_COMPLETE (R361): the signed report can be read, DONE is set. -/
def execAttestationComplete (p port : Nat) (s : State) : Out :=
  .next (
    if ((s.pkg p).port port).command ≠ some 1 then s
    else
      let body := s.reportBody p port
      let sig := Config.signature (s.pkg p).part (Aes.sha384 body)
      let all := body ++ beBytes sig.toNat 96
      (s.modPort p port fun x => { x with report := BitVec.ofNat 2752 (numOfBytes all) }).finishCommand p port 0)

/-! ## Configuration (R386) -/

/-- A field of a configuration: `n` bytes from byte `at_`. -/
def cfgField (c : BitVec 1024) (at_ n : Nat) : Nat := bits c (8 * (at_ + n) - 1) (8 * at_)

/-- Whether a configuration keeps R386's limits. -/
def goodConfig (c : BitVec 1024) : Bool :=
  cfgField c 0 2 = 1 && cfgField c 2 2 < 512 && cfgField c 4 2 < 512 && cfgField c 6 1 % 2 = 0 && cfgField c 7 1 = 0 &&
    cfgField c 8 8 / 2 ^ 58 = 0 && cfgField c 8 8 / 2 ^ 40 ≤ 131072 && c.getLsbD (128 + cfgField c 2 2) &&
    cfgField c 0x50 48 = 0

/-- A number that counts `span` to a package, with packages `p` and `q` exchanged. -/
def swapAt (p q span n : Nat) : Nat :=
  (if n / span = p then q else if n / span = q then p else n / span) * span + n % span

/-- A map whose keys count `span` to a package, with packages `p` and `q` exchanged. -/
def swapKeys {α : Type} (p q span : Nat) (m : Map α) : Map α :=
  m.foldl (fun (r : Map α) e => Map.put r (swapAt p q span e.1) e.2) []

/-- The names of two packages that have run nothing yet are exchanged: all that State keeps under a package's number
(R386; log 11). -/
def State.swapPkgs (s : State) (p q : Nat) : State :=
  { s with
    self := swapAt p q (2048 * 2048) s.self
    procs := swapKeys p q (2048 * 2048) s.procs
    cores := swapKeys p q 2048 s.cores
    eps := swapKeys p q (2048 * 1024) s.eps
    clusters := swapKeys p q 128 s.clusters
    dies := swapKeys p q 8 s.dies
    bases := swapKeys p q 4 s.bases
    pkgs := swapKeys p q 1 s.pkgs
    mem := s.mem.foldl (fun (m : Mem) c => m.set (swapAt p q pkgSpan c.1) c.2) []
    poison := s.poison.foldl (fun l g => natInsert l (swapAt p q (pkgSpan / 8) g)) []
    dirty := swapKeys p q (pkgSpan / 64) s.dirty
    seals := swapKeys p q (pkgSpan / 64) s.seals }

/-- What a configuration gives its package (R386). -/
def Package.configured (x : Package) (c : BitVec 1024) : Package :=
  { x with
    config := some c, member := true, root := cfgField c 4 2, ovfBase := cfgField c 8 8 % 2 ^ 40, report := []
    ovfSize := cfgField c 8 8 / 2 ^ 40, m1 := Aes.sha384 (byteNums c.toNat 128)
    bringup := if x.bringup = 5 then 6 else x.bringup }

/-- CONFIGURATION (R386): the first one that keeps the limits is taken and stands until reset. It gives the package its
number: where that is not the one State names it by, the names are exchanged; the number of a package that has been
configured is refused as malformed (log 11). -/
def execConfiguration (p port : Nat) (s : State) : Out :=
  .next (s.command p port 2 fun t =>
    let c := ((t.pkg p).port port).config
    let n := cfgField c 2 2
    if (t.pkg p).config.isSome then t.finishCommand p port 9
    else if !goodConfig c || (n ≠ p && (t.pkg n).config.isSome) then t.finishCommand p port 8
    else
      let u := if n = p then t else t.swapPkgs p n
      (u.modPkg n fun x => x.configured c).finishCommand n port 0)

/-! ## Firmware (R362, R363) -/

/-- BEGIN_IMAGE (R363). -/
def execBeginImage (p port : Nat) (s : State) : Out :=
  .next (s.command p port 3 fun t =>
    let x := t.pkg p
    let n := (x.port port).arg.toNat
    if !x.recovery then t.finishCommand p port 5
    else if n % 256 ≠ 0 || n < 256 || n > 2 ^ 24 then t.finishCommand p port 6
    else
      match x.upload with
      | some up =>
        if up.port ≠ port then t.finishCommand p port 1
        else (t.modPkg p fun x => { x with upload := some { port := port, length := n, blocks := [] } }).finishCommand p
          port 0
      | none => (t.modPkg p fun x => { x with upload := some { port := port, length := n, blocks := [] } }).finishCommand
          p port 0)

/-- IMAGE_BLOCK (R363). -/
def execImageBlock (p port : Nat) (s : State) : Out :=
  .next (s.command p port 4 fun t =>
    let x := t.pkg p
    let y := x.port port
    match x.upload with
    | none => t.finishCommand p port 1
    | some up =>
      if up.port ≠ port then t.finishCommand p port 1
      else if y.arg.toNat ≠ up.blocks.length || 256 * up.blocks.length ≥ up.length then t.finishCommand p port 2
      else (t.modPkg p fun x => { x with upload := some { up with blocks := up.blocks ++ [y.block] } }).finishCommand p
        port 0)

/-- END_IMAGE (R363): verification of a complete image starts. -/
def execEndImage (p port : Nat) (s : State) : Out :=
  .next (s.command p port 5 fun t =>
    match (t.pkg p).upload with
    | none => t.finishCommand p port 1
    | some up =>
      if up.port ≠ port then t.finishCommand p port 1
      else if 256 * up.blocks.length ≠ up.length then t.finishCommand p port 3
      else t.modPkg p fun x => { x with verifying := some (port, up.blocks.flatMap fun b => leBytes b.toNat 256) })

/-- The measured image lets bring-up go on with phase 5, and past it when the configuration has been taken. -/
def State.measured (s : State) (p : Nat) (img : List Byte) : State :=
  s.modPkg p fun x => { x with
    image := img, m0 := Aes.sha384 (img.map BitVec.toNat), recovery := false, verifying := none, upload := none
    bringup := if x.config.isSome then 6 else 5 }

/-- IMAGE_VERIFY_COMPLETE (R362, R363). -/
def execImageVerifyComplete (p : Nat) (s : State) : Out :=
  .next (
    match (s.pkg p).verifying with
    | none => s
    | some (port, img) =>
      if Config.imageVerifies img then (s.measured p img).finishCommand p port 0
      else (s.modPkg p fun x => { x with verifying := none, upload := none }).finishCommand p port 4)

/-- UNKNOWN_COMMAND (R363): any number but 1 to 5 is refused with detail 7. -/
def execUnknownCommand (p port : Nat) (v : Word) (s : State) : Out :=
  .next (
    if 1 ≤ v.toNat && v.toNat ≤ 5 then s
    else s.command p port v.toNat fun t => t.finishCommand p port 7)

/-- REGISTER_WRITE (R356): a host write of 8 bytes at an offset of BAR0. -/
def execRegisterWrite (p port off : Nat) (v : Word) (s : State) : Out :=
  if off = 8 then execPkgevtClear p v s
  else if off = 0x5030 then
    (if v = 1 then execAttestation p port s
     else if v = 2 then execConfiguration p port s
     else if v = 3 then execBeginImage p port s
     else if v = 4 then execImageBlock p port s
     else if v = 5 then execEndImage p port s
     else execUnknownCommand p port v s)
  else .next (s.writeMap p port off v)

/-- The queue whose launch window a write of `n` bytes at an offset of BAR0 touches (R322, R356). -/
def windowTouched (off n : Nat) : Option Nat :=
  let a := off - 0x100000
  if off < 0x100000 || 0x500000 ≤ off then none
  else if a % 128 < 64 then some (a / 128)
  else if 128 < a % 128 + n && a / 128 + 1 < 32768 then some (a / 128 + 1)
  else none

/-- A host's access of `n` bytes at an offset of BAR0 (R356): 8 aligned bytes of a register, or a write to a launch window,
which its queue rejects unless it is one of 64 aligned bytes (R322); any other is refused and counted. -/
def State.hostAccess (s : State) (p port off n : Nat) (v : Option (BitVec 512)) : State :=
  match v with
  | none => s.readHost p port off n
  | some w =>
    if n = 8 && off % 8 = 0 then s.after (execRegisterWrite p port off (w.truncate 64) s)
    else
      match windowTouched off n with
      | some q => s.after (execLaunchWindowWrite p port q (n = 64 && off % 128 = 0) w s)
      | none => s.badAccess p port

/-! ## Bring-up (R385) -/

/-- The distributors once a base die has failed in bring-up (R330): the lowest-numbered surviving one is master. -/
def State.firstMaster (s : State) (p : Nat) : State :=
  let b := s.nextBase p 3
  s.modPkg p fun x => { x with master := b, mirrorAt := s.nextBase p b }

/-- A base die fenced during bring-up, before anything runs (R385, R383): its compute dies are fenced with reason 4. -/
def State.fenceEarly (s : State) (p b reason : Nat) : State :=
  let t := s.modBase (p * 4 + b) fun x => { x with fenced := some reason }
  let f := fun (t : State) (e : Nat) => t.modDie e fun x => { x with fenced := some 4 }
  (f (f t (p * 8 + 2 * b)) (p * 8 + 2 * b + 1)).firstMaster p

/-- Failed attempts after which a unit of a phase counts as lost: 3 for HBM stacks, Delan ports (2 to 25) and die-to-die
links, 1 for the host ports (0 and 1 of phase 3). -/
def attemptsOf (phase unit : Nat) : Nat := if phase = 3 && unit < 2 then 1 else 3

/-- A unit of the phase in progress fails an attempt (R385); a compute die whose last die-to-die link goes is fenced with
reason 2 (R373). -/
def State.attemptFails (s : State) (p unit : Nat) : State :=
  let x := s.pkg p
  let n := x.attempts.get unit 0 + 1
  let t := s.modPkg p fun x => { x with attempts := x.attempts.put unit n }
  if n < attemptsOf x.bringup unit then t
  else if x.bringup = 2 then t.fenceEarly p (unit / 3 % 4) 5
  else if unit < 2 then t.modPort p unit fun y => { y with linkup := false }
  else
    let u := t.modPkg p fun x => { x with links := x.links.put (unit - 2) 2 }
    (upTo 8).foldl (fun (t : State) e =>
      if (u.pkg p).isolated e then t.modDie (p * 8 + e) fun x => { x with fenced := some 2 } else t) u

/-- The package monitor starts (R414): its endpoint on core 255, then the process, full, of domain 0, with SUPV. Its PC is
a multiple of 4 (R51). -/
def State.startMonitor (s : State) (p : Nat) : State :=
  let c := p * 2048 + 255
  let (b, n) := Config.monitorRing p
  let e : Endpoint := { Endpoint.empty with
    state := 1, mode := 2, cls := 1, shape := 192, rbase := b % 3000, rlen := 3 * (n % 512 + 1) }
  let e := { e with called := BitVec.ofNat 32 e.slotCount }
  let t := s.setEp (monitorEp p) e
  let child := Proc.created (Config.monitorEntry p &&& ~~~3#64) (Vector.replicate 32 0) false true 0 0 0
  match t.create c child with
  | some (k, u) => u.modPkg p fun x => { x with monitorPid := some (u.proc k).pid }
  | none => t

/-- Phase 6 (R13, R48, R414): the clearing, the release of service cores that the configuration asks for, the monitor. -/
def State.endPhase6 (s : State) (p : Nat) : State :=
  let release := match (s.pkg p).config with | some c => cfgField c 6 1 | none => 0
  let s1 := (upTo 8).foldl (fun (t : State) i =>
    if release / 2 ^ i % 2 = 1 then t.modCore (p * 2048 + 256 * i + 255) fun x => { x with reserved := false } else t) s
  let s2 := s1.clearBytes (p * pkgSpan + commonBase) ((p + 1) * pkgSpan)
  (s2.modPkg p fun x => { x with bringup := 7 }).startMonitor p

/-- BRINGUP_PHASE_COMPLETE (R385): a phase's work ends, or a unit of it fails an attempt. -/
def execBringupPhaseComplete (p unit : Nat) (ok : Bool) (s : State) : Out :=
  .next (
    let x := s.pkg p
    let go := fun (n : Nat) => s.modPkg p fun x => { x with bringup := n, attempts := [] }
    if x.thermtrip || x.recovery then s
    else if x.bringup = 1 then go (if ok then 2 else 0)
    else if x.bringup = 2 || x.bringup = 3 then (if ok then go (x.bringup + 1) else s.attemptFails p unit)
    else if x.bringup = 4 then
      (if Config.imageVerifies x.image then s.measured p x.image
       else s.modPkg p fun x => { x with recovery := true })
    else if x.bringup = 5 then (if x.config.isSome then go 6 else s)
    else if x.bringup = 6 then s.endPhase6 p
    else s)

/-- BRINGUP_PHASE_TIMEOUT (R385): a phase that exceeds its bound counts as failed. -/
def execBringupPhaseTimeout (p unit : Nat) (s : State) : Out :=
  .next (
    let x := s.pkg p
    if x.thermtrip || x.recovery then s
    else if x.bringup = 1 then s.modPkg p fun x => { x with bringup := 0 }
    else if x.bringup = 2 || x.bringup = 3 then s.attemptFails p unit
    else if x.bringup = 4 then s.modPkg p fun x => { x with recovery := true }
    else s)

end Sys2Proof.Machine
end

