-- ==== Sys2Proof/Machine/Immediate.lean ====
section
/-! DEFINITION. Immediates and moves (R56, R115), compare and predicate logic (R116, R117). -/

namespace Sys2Proof.Machine

/-- ADDI (R115): imm16 sign-extended. -/
def execAddi (d a : Reg) (i : BitVec 16) (s : State) : Out := .next (s.alu1 d a fun x => x + i.signExtend 64)

/-- ANDI (R115): imm16 zero-extended. -/
def execAndi (d a : Reg) (i : BitVec 16) (s : State) : Out := .next (s.alu1 d a fun x => x &&& i.setWidth 64)

/-- ORI (R115). -/
def execOri (d a : Reg) (i : BitVec 16) (s : State) : Out := .next (s.alu1 d a fun x => x ||| i.setWidth 64)

/-- XORI (R115). -/
def execXori (d a : Reg) (i : BitVec 16) (s : State) : Out := .next (s.alu1 d a fun x => x ^^^ i.setWidth 64)

/-- SHLI (R115). -/
def execShli (d a : Reg) (n : BitVec 6) (s : State) : Out := .next (s.alu1 d a fun x => shlW x n.toNat)

/-- SHRI (R115). -/
def execShri (d a : Reg) (n : BitVec 6) (s : State) : Out := .next (s.alu1 d a fun x => shrW x n.toNat)

/-- SARI (R115). -/
def execSari (d a : Reg) (n : BitVec 6) (s : State) : Out := .next (s.alu1 d a fun x => sarW x n.toNat)

/-- ROTI (R115). -/
def execRoti (d a : Reg) (n : BitVec 6) (s : State) : Out := .next (s.alu1 d a fun x => rotW x n.toNat)

/-- The word with the halfword at bit 16·sh replaced (R115). -/
def movkW (old : Word) (sh : BitVec 2) (i : BitVec 16) : Word :=
  (old &&& ~~~((0xFFFF : Word) <<< (16 * sh.toNat))) ||| (i.setWidth 64 <<< (16 * sh.toNat))

/-- MOVZ (R115): imm·2^sh. -/
def execMovz (d : Reg) (h : BitVec 2) (i : BitVec 16) (s : State) : Out :=
  let sh : Shape := { dst := some d }
  .next (s.issue sh fun _ s => s.doneWith sh (i.setWidth 64 <<< (16 * h.toNat)))

/-- MOVK (R115): the old destination is read at the start; a mapped port there traps (R108). -/
def execMovk (d : Reg) (h : BitVec 2) (i : BitVec 16) (s : State) : Out :=
  let sh : Shape := { dst := some d, dsrc := some d }
  .next (s.issue sh fun _ s => s.doneWith sh (movkW (s.cur.reg d) h i))

/-- CMP (R116). -/
def execCmp (d : PReg) (a b : Reg) (c : BitVec 4) (s : State) : Out :=
  let sh : Shape := { srcs := [a, b] }
  .next (s.issue sh fun vals s => s.doneWithPred sh d (condHolds c.toNat (op vals 0) (op vals 1)))

/-- CMPI (R116): imm15 sign-extended to 64 bits. -/
def execCmpi (p : PReg) (c : BitVec 3) (a : Reg) (i : BitVec 15) (s : State) : Out :=
  let sh : Shape := { srcs := [a] }
  .next (s.issue sh fun vals s => s.doneWithPred sh p (condHolds c.toNat (op vals 0) (i.signExtend 64)))

/-- A predicate operation (R117). -/
def State.plog (s : State) (d a b : PReg) (f : Bool → Bool → Bool) : State :=
  s.issue {} fun _ s => s.doneWithPred {} d (f (s.cur.predicate a) (s.cur.predicate b))

/-- PAND (R117). -/
def execPand (d a b : PReg) (s : State) : Out := .next (s.plog d a b fun x y => x && y)

/-- POR (R117). -/
def execPor (d a b : PReg) (s : State) : Out := .next (s.plog d a b fun x y => x || y)

/-- PXOR (R117). -/
def execPxor (d a b : PReg) (s : State) : Out := .next (s.plog d a b fun x y => x != y)

/-- PANDN (R117). -/
def execPandn (d a b : PReg) (s : State) : Out := .next (s.plog d a b fun x y => x && !y)

/-- PNOR (R117). -/
def execPnor (d a b : PReg) (s : State) : Out := .next (s.plog d a b fun x y => !(x || y))

end Sys2Proof.Machine
end

