-- ==== Sys2Proof/Machine/Control.lean ====
section
/-! DEFINITION. Control transfers (R53, R118). -/

namespace Sys2Proof.Machine

/-- The target of a branch: PC + 4·disp, modulo 2^56 (R53, R111). -/
def branchTarget (pc : Word) (disp : Int) : Word := BitVec.ofNat 64 (wrapInt 56 (pc.toNat + 4 * disp))

/-- BR (R118): taken when p[p] XOR neg = 1. -/
def execBr (p : PReg) (n : BitVec 1) (d : BitVec 22) (s : State) : Out :=
  .next (s.issue {} fun _ s =>
    if s.cur.predicate p != (n = 1) then s.finishAt (branchTarget s.cur.pc d.toInt) else s.retire)

/-- J (R118). -/
def execJ (d : BitVec 26) (s : State) : Out :=
  .next (s.issue {} fun _ s => s.finishAt (branchTarget s.cur.pc d.toInt))

/-- JAL (R118): the link goes to g31; outside the light repertoire (R27). -/
def execJal (d : BitVec 26) (s : State) : Out :=
  .next (s.issue { full := true } fun _ s =>
    ({ s with cur := s.cur.setReg 31 (nextPc s.cur.pc) } : State).finishAt (branchTarget s.cur.pc d.toInt))

/-- JALR (R118): the target is read before the link is written; a target that is not a multiple of 4 traps and writes
no link. -/
def execJalr (d a : Reg) (s : State) : Out :=
  let sh : Shape := { srcs := [a], dst := some d }
  .next (s.issue sh fun vals s =>
    let t := op vals 0
    if bits t 1 0 ≠ 0 then s.trap 0x03 [t]
    else ((s.takePorts sh.srcs).putDst d (nextPc s.cur.pc)).finishAt (BitVec.ofNat 64 (t.toNat % 2 ^ 56)))

end Sys2Proof.Machine
end

