-- ==== Sys2Proof/Machine/CopyExec.lean ====
section
/-! DEFINITION. The copy commands (R160, R161). Each event runs the first command of a core's copy queue that may run,
when it is the one the event names, to its end. -/

namespace Sys2Proof.Machine

/-- A run of bytes of a copy that lie together at both ends: the places of its first byte at the destination and at the
source, its source address, its length. A byte has one place, whatever address it is reached by (log 6). -/
structure CopyRun where
  dst : Nat
  src : Nat
  from_ : Nat
  n : Nat
  deriving DecidableEq, Repr

/-- What a copy moves. -/
abbrev Moves := List CopyRun

/-- The bytes of one restart unit as a copy command names them: destination address, source address, number. -/
abbrev Span := Nat × Nat × Nat

/-- The parts of a span that lie in one 64-byte line at both ends; `fuel` bounds their number. -/
def runsOf (dst src : Nat) : Nat → Nat → List Span
  | 0, _ => []
  | fuel + 1, n =>
    if n = 0 then []
    else
      let k := min n (min (64 - dst % 64) (64 - src % 64))
      (dst % 2 ^ 56, src % 2 ^ 56, k) :: runsOf (dst + k) (src + k) fuel (n - k)

/-- The place behind a spot: a location of package memory, or an address behind a host port. -/
def Spot.place : Spot → Nat
  | .port pt addr _ => 2 ^ 64 * (pt + 1) + addr
  | sp => sp.base

/-- The place of a piece, where it can be located. -/
def State.placeOf (s : State) (c : CoreId) (q : Cmd) (a n : Nat) (need : Need) : Option Nat :=
  match s.engLocate c q a n need with
  | .ok sp _ => some sp.place
  | _ => none

/-- The runs of a span whose two ends can be located. -/
def State.movesOf (s : State) (c : CoreId) (q : Cmd) (x : Span) : Moves :=
  (runsOf x.1 x.2.1 (x.2.2 / 32 + 3) x.2.2).filterMap fun (d, a, n) =>
    match s.placeOf c q d n .write, s.placeOf c q a n .read with
    | some dst, some src => some { dst := dst, src := src, from_ := a, n := n }
    | _, _ => none

/-- The place that the byte a copy writes at a place comes from: by the last unit that writes there. -/
def Moves.source (m : Moves) (a : Nat) : Option Nat :=
  m.foldl (fun r x => if x.dst ≤ a && a < x.dst + x.n then some (x.src + (a - x.dst)) else r) none

/-- Whether the source and the destination of a copy overlap. -/
def Moves.overlaps (m : Moves) : Bool :=
  m.any fun x => m.any fun y => y.dst < x.src + x.n && x.src < y.dst + y.n

/-- A source byte as it was before the command began. -/
def Cmd.was (q : Cmd) (a : Nat) : Option (Byte × Bool) := (q.before.find? fun b => b.1 = a).map (·.2)

/-- The byte a copy leaves at a place that it writes (R160): its source byte as it was before the command began or,
where the command writes that byte too, as it is after that write; the choice is a free value for each granule of the
destination (log 6). `fuel` bounds the chain of such bytes. -/
def Cmd.leaves (q : Cmd) (m : Moves) : Nat → Nat → Option (Byte × Bool)
  | 0, a => q.was a
  | fuel + 1, a =>
    match m.source a with
    | none => q.was a
    | some src =>
      if (m.source src).isNone || Config.overlapOld q.draw (a / 8) then q.was src else q.leaves m fuel src

/-- The byte a unit moves from one place to another: the one its source holds, but for a byte that the command itself
writes, where each granule of the destination takes the byte as it was or as the command leaves it (R160). -/
def Cmd.movedByte (q : Cmd) (m : Moves) (dst src : Nat) (b : Byte × Bool) : Byte × Bool :=
  if (m.source src).isNone then b
  else if Config.overlapOld q.draw (dst / 8) then (q.was src).getD b
  else (q.leaves m q.before.length src).getD b

/-- The bytes a unit moves along its runs, when all of it can be located. -/
def Cmd.moved (q : Cmd) (m : Moves) (runs : Moves) (now : List (Byte × Bool)) : List (Byte × Bool) :=
  let places := runs.flatMap fun x => (upTo x.n).map fun i => (x.dst + i, x.src + i)
  (now.zip (upTo now.length)).map fun (b, i) =>
    match places[i]? with
    | some (d, a) => q.movedByte m d a b
    | none => b

/-- Moves a span as one restart unit. -/
def State.copyUnit (s : State) (c : CoreId) (q : Cmd) (m : Moves) (x : Span) : Eng (List EWrite) :=
  (s.engRead c q x.2.1 x.2.2).bind fun now t =>
    t.engWrite c q [(x.1, if m.overlaps then q.moved m (s.movesOf c q x) now else now)]

/-- The barrier a copy credits, checked before it moves anything (R161): its location, or none. -/
def State.creditTarget (s : State) (c : CoreId) (q : Cmd) : Eng (Option Nat) :=
  let a := cAddrS q.word
  if a = 0 then .ok none s
  else if a % 32 ≠ 0 then .err 0x03 (BitVec.ofNat 64 a)
  else if a / 2 ^ 52 < 12 then .err 0x05 (BitVec.ofNat 64 a)
  else
    (s.engLocate c q a 32 .both).bind fun sp t =>
      match sp with
      | .mem loc _ => if kindOf loc = .hbm then .err 0x05 (BitVec.ofNat 64 a) else .ok (some loc) t
      | _ => .err 0x05 (BitVec.ofNat 64 a)

/-- What a copy whose source and destination overlap keeps from its start: its source bytes, where they can be read, and
the counter of its choices (R160, log 6). -/
def State.keepBefore (s : State) (c : CoreId) (q : Cmd) (m : Moves) : Cmd × State :=
  let places := m.flatMap fun x => (upTo x.n).map fun i => (x.src + i, x.from_ + i)
  let new := if m.overlaps then places.filter fun x => (q.was x.1).isNone else []
  if new.isEmpty then (q, s)
  else
    let old := new.filterMap fun x =>
      match s.engRead c q x.2 1 with
      | .ok [b] _ => some (x.1, b.1, b.2)
      | _ => none
    let f := fun (x : Cmd) =>
      { x with before := q.before ++ old, draw := if q.before.isEmpty then s.draws else q.draw }
    (f q, State.modCmd { s with draws := s.draws + 1 } c q f)

/-- The plan of a copy of `total` bytes: its barrier is checked before it moves anything and credited at the end
(R161). -/
def State.copyPlan (s : State) (c : CoreId) (q : Cmd) (m : Moves) (count total : Nat) (unit : Cmd → Units) : Plan × State :=
  match s.creditTarget c q with
  | .ok bar t =>
    let (q1, u) := t.keepBefore c q m
    ({ count := count, unit := unit q1,
       finish := fun u => match bar with | some loc => u.credit c loc total | none => u }, u)
  | r => (.stopped r, s)

/-- The spans of CPL and CP2D, one for each restart unit (R160, R162). -/
def copySpans (w : BitVec 256) : List Span :=
  if cOp w = 0x40 then
    let n := 65536 * cSlay w + cK w
    (upTo ((n + 63) / 64)).map fun i => (cAddrA w + 64 * i, cAddrB w + 64 * i, min 64 (n - 64 * i))
  else (upTo (cSlay w + 1)).map fun r => (cAddrA w + 16 * cSta w * r, cAddrB w + 16 * cStb w * r, cK w)

/-- The moves of CPL and CP2D. -/
def State.copyMoves (s : State) (c : CoreId) (q : Cmd) : Moves := (copySpans q.word).flatMap (s.movesOf c q)

/-- The units of CPL and CP2D. -/
def State.moveUnit (c : CoreId) (m : Moves) (q : Cmd) (i : Nat) (s : State) : Eng (List EWrite) :=
  s.copyUnit c q m ((copySpans q.word).getD i (0, 0, 0))

/-- CPL (R160): 64 bytes of destination to a unit. -/
def cplPlan (c : CoreId) (q : Cmd) (s : State) : Plan × State :=
  let m := s.copyMoves c q
  s.copyPlan c q m (copySpans q.word).length (65536 * cSlay q.word + cK q.word) (State.moveUnit c m)

/-- CP2D (R160): a row to a unit. -/
def cp2dPlan (c : CoreId) (q : Cmd) (s : State) : Plan × State :=
  let m := s.copyMoves c q
  s.copyPlan c q m (copySpans q.word).length ((cSlay q.word + 1) * cK q.word) (State.moveUnit c m)

/-- The source of record `r` of a CPG, read from its descriptor as that stands when the record's unit begins: a base pointer
and an index (R160; DESIGN CHOICE, log 127). Poison in the descriptor is not looked at: the rule gives it no effect
(log 102). -/
def State.cpgSource (s : State) (c : CoreId) (q : Cmd) (r : Nat) : Eng Nat :=
  let w := q.word
  (s.engRead c q (cAddrB w) 8).bind fun b t =>
    (t.engRead c q (cAddrB w + 8 + 4 * r) 4).bind fun x t =>
      .ok (leVal (b.map (·.1)) % 2 ^ 56 + 16 * cStb w * leVal (x.map (·.1))) t

/-- The moves of CPG, as far as its descriptor can be read. -/
def State.cpgMoves (s : State) (c : CoreId) (q : Cmd) : Moves :=
  (upTo (cK q.word)).flatMap fun r =>
    match s.cpgSource c q r with
    | .ok a _ => s.movesOf c q (cAddrA q.word + 16 * cSta q.word * r, a, 16 * cStb q.word)
    | _ => []

/-- CPG (R160): a record to a unit. -/
def cpgPlan (c : CoreId) (q : Cmd) (s : State) : Plan × State :=
  let w := q.word
  let n := 16 * cStb w
  let m := s.cpgMoves c q
  s.copyPlan c q m (cK w) (n * cK w) fun q1 r t =>
    (t.cpgSource c q r).bind fun a u => u.copyUnit c q1 m (cAddrA w + 16 * cSta w * r, a, n)

/-- The plan of a copy command (R71). -/
def cpPlan (c : CoreId) (q : Cmd) (s : State) : Plan × State :=
  if cOp q.word = 0x40 then cplPlan c q s else if cOp q.word = 0x41 then cp2dPlan c q s else cpgPlan c q s

/-- CPL (R160). -/
def execCpl (c : CoreId) (s : State) : Out := .next (s.runCopy c 0x40 (cplPlan c))

/-- CP2D (R160). -/
def execCp2d (c : CoreId) (s : State) : Out := .next (s.runCopy c 0x41 (cp2dPlan c))

/-- CPG (R160). -/
def execCpg (c : CoreId) (s : State) : Out := .next (s.runCopy c 0x42 (cpgPlan c))

end Sys2Proof.Machine
end

