-- ==== Sys2Proof/Machine/Fpu.lean ====
section
/-! DEFINITION. The scalar floating-point instructions (R119 to R122). -/

namespace Sys2Proof.Machine

/-- The code of type F in a register value: its low bits (R59). -/
def codeOf (F : FFmt) (v : Word) : Nat := v.toNat % 2 ^ F.width

/-- Ends an FPU instruction with a result and its flags (R119). -/
def State.doneFp (s : State) (sh : Shape) (r : Nat × FFlags) : State :=
  (s.raise r.2).doneWith sh (BitVec.ofNat 64 r.1)

/-- FADD, FSUB, FMUL and FDIV (R119). -/
def State.fpu2 (s : State) (mem : FMember) (d a b : Reg) (t : BitVec 2) : State :=
  let F := FFmt.ofType t.toNat
  let sh : Shape := { srcs := [a, b], dst := some d, full := true }
  s.issue sh fun vals s =>
    s.doneFp sh (farith mem F s.cur.rm false (codeOf F (op vals 0)) (codeOf F (op vals 1)) 0)

/-- FADD (R119). -/
def execFadd (d a b : Reg) (t : BitVec 2) (s : State) : Out := .next (s.fpu2 .add d a b t)

/-- FSUB (R119). -/
def execFsub (d a b : Reg) (t : BitVec 2) (s : State) : Out := .next (s.fpu2 .sub d a b t)

/-- FMUL (R119). -/
def execFmul (d a b : Reg) (t : BitVec 2) (s : State) : Out := .next (s.fpu2 .mul d a b t)

/-- FDIV (R119). -/
def execFdiv (d a b : Reg) (t : BitVec 2) (s : State) : Out := .next (s.fpu2 .div d a b t)

/-- FMA (R119): one rounding; the d field is also a source, where a mapped port traps (R108). -/
def execFma (d a b : Reg) (t : BitVec 2) (s : State) : Out :=
  let F := FFmt.ofType t.toNat
  let sh : Shape := { srcs := [a, b], dst := some d, dsrc := some d, full := true }
  .next (s.issue sh fun vals s =>
    s.doneFp sh (farith .fma F s.cur.rm false (codeOf F (op vals 0)) (codeOf F (op vals 1)) (codeOf F (s.cur.reg d))))

/-- FSQRT (R119). -/
def execFsqrt (d a : Reg) (t : BitVec 2) (s : State) : Out :=
  let F := FFmt.ofType t.toNat
  let sh : Shape := { srcs := [a], dst := some d, full := true }
  .next (s.issue sh fun vals s => s.doneFp sh (farith .sqrt F s.cur.rm false (codeOf F (op vals 0)) 0 0))

/-- FMIN and FMAX (R120). -/
def State.fpuMinmax (s : State) (isMax : Bool) (d a b : Reg) (t : BitVec 2) : State :=
  let F := FFmt.ofType t.toNat
  let sh : Shape := { srcs := [a, b], dst := some d, full := true }
  s.issue sh fun vals s => s.doneFp sh (fminmax isMax F false (codeOf F (op vals 0)) (codeOf F (op vals 1)))

/-- FMIN (R120). -/
def execFmin (d a b : Reg) (t : BitVec 2) (s : State) : Out := .next (s.fpuMinmax false d a b t)

/-- FMAX (R120). -/
def execFmax (d a b : Reg) (t : BitVec 2) (s : State) : Out := .next (s.fpuMinmax true d a b t)

/-- FCMP (R121). -/
def execFcmp (d : PReg) (a b : Reg) (c t : BitVec 2) (s : State) : Out :=
  let F := FFmt.ofType t.toNat
  let sh : Shape := { srcs := [a, b], full := true }
  .next (s.issue sh fun vals s =>
    let r := fcmpVal c.toNat (F.decode (codeOf F (op vals 0))) (F.decode (codeOf F (op vals 1)))
    (s.raise r.2).doneWithPred sh d r.1)

/-- FCLASS (R121): sets no flag. -/
def execFclass (d a : Reg) (t : BitVec 2) (s : State) : Out :=
  let F := FFmt.ofType t.toNat
  let sh : Shape := { srcs := [a], dst := some d, full := true }
  .next (s.issue sh fun vals s => s.doneWith sh (BitVec.ofNat 64 (fclassOf F (codeOf F (op vals 0)))))

/-- FCVT of kind 0 and 1: to a 64-bit integer with rm (R95, R122). -/
def State.fcvtTo (s : State) (signed : Bool) (d a : Reg) (t : BitVec 2) : State :=
  let F := FFmt.ofType t.toNat
  let sh : Shape := { srcs := [a], dst := some d, full := true }
  s.issue sh fun vals s => s.doneFp sh (toIntType 64 signed s.cur.rm (F.decode (codeOf F (op vals 0))))

/-- FCVT to a signed 64-bit integer (R122). -/
def execFcvtToS64 (d a : Reg) (t : BitVec 2) (s : State) : Out := .next (s.fcvtTo true d a t)

/-- FCVT to an unsigned 64-bit integer (R122). -/
def execFcvtToZ64 (d a : Reg) (t : BitVec 2) (s : State) : Out := .next (s.fcvtTo false d a t)

/-- FCVT of kind 2 and 3: from a 64-bit integer with rm (R96, R122). -/
def State.fcvtFrom (s : State) (val : Word → Int) (d a : Reg) (t : BitVec 2) : State :=
  let F := FFmt.ofType t.toNat
  let sh : Shape := { srcs := [a], dst := some d, full := true }
  s.issue sh fun vals s => s.doneFp sh (round F s.cur.rm false (.ofInt (val (op vals 0))))

/-- FCVT from a signed 64-bit integer (R122). -/
def execFcvtFromS64 (d a : Reg) (t : BitVec 2) (s : State) : Out := .next (s.fcvtFrom BitVec.toInt d a t)

/-- FCVT from an unsigned 64-bit integer (R122). -/
def execFcvtFromZ64 (d a : Reg) (t : BitVec 2) (s : State) : Out := .next (s.fcvtFrom (fun v => (v.toNat : Int)) d a t)

/-- FCVT of kind 4: from format G to format F with rm (R94, R122). -/
def execFcvtFloat (d a : Reg) (g t : BitVec 2) (s : State) : Out :=
  let F := FFmt.ofType t.toNat
  let G := FFmt.ofType g.toNat
  let sh : Shape := { srcs := [a], dst := some d, full := true }
  .next (s.issue sh fun vals s => s.doneFp sh (round F s.cur.rm false (G.decode (codeOf G (op vals 0)))))

end Sys2Proof.Machine
end

