-- ==== Sys2Proof/Machine/Recovery.lean ====
section
/-! DEFINITION. Errors, links and fenced dies (R22, R23, R211, R212, R328, R368 to R384): thermal events, link retraining,
memory errors and scrubbing, and what fencing a die does to everything else. -/

namespace Sys2Proof.Machine

/-! ## Errors in memory (R368, R369, R374) -/

/-- The address a location is reported under: the HBM physical address, or the class 0xE or 0xD address. -/
def addrOf (loc : Nat) : Word :=
  match kindOf loc with
  | .hbm => BitVec.ofNat 64 (paOf loc)
  | .common => BitVec.ofNat 64 (14 * 2 ^ 52 + dieOfCommon loc % 8 * 2 ^ 49 + commonOff loc)
  | .spad => BitVec.ofNat 64 (13 * 2 ^ 52 + coreOfSpad loc % 2048 * 2 ^ 41 + spadOff loc)

/-- A corrected error (R368, R374): it is counted, and one event per unit per 10 ms goes to the monitor. -/
def State.corrected (s : State) (p unit : Nat) (loc : Word) : State :=
  let x := s.pkg p
  let n := min (2 ^ 64 - 1) (x.corrected.get unit 0 + 1)
  let t := s.modPkg p fun x => { x with corrected := x.corrected.put unit n }
  let due := match x.lastCorrected.find? unit with
    | none => true
    | some at_ => decide (x.time ≥ at_ + 10000 * cyclesPerUs)
  if due then
    (t.modPkg p fun x => { x with lastCorrected := x.lastCorrected.put unit x.time }).report p none 0 4
      [1, loc, BitVec.ofNat 64 unit, BitVec.ofNat 64 n]
  else t

/-- CORRECTED_ERROR (R368). -/
def execCorrectedError (p unit : Nat) (loc : Word) (s : State) : Out := .next (s.corrected p unit loc)

/-- PATROL_SCRUB (R369): nothing a program sees but poison. -/
def execPatrolScrub (p unit loc : Nat) (bad : ScrubFinding) (s : State) : Out :=
  .next (
    match bad with
    | .clean => s
    | .corrected => s.corrected p unit (addrOf loc)
    | .uncorrectable => (s.poisonAt loc).report p none 0 4 [2, addrOf (loc / 8 * 8), BitVec.ofNat 64 unit, 0])

/-! ## What a fenced die takes with it (R381, R382, R375) -/

/-- A die as the details of DIEFENCED name it: its package-local number and the reason. -/
structure Lost where
  unit : Nat
  reason : Nat
  deriving DecidableEq, Repr

/-- A process elsewhere that waits on something of the die is stopped with DIEFENCED (R381). -/
def State.stopWaiter (s : State) (k : Slot) (w : Word) (l : Lost) : State :=
  s.trapOf k 0x19 [w, BitVec.ofNat 64 l.unit, BitVec.ofNat 64 l.reason]

/-- The first operand values a waiting process holds. -/
def Proc.held0 (p : Proc) : Word := match p.phase with | .after (v :: _) _ _ => v | _ => 0
def Proc.held1 (p : Proc) : Word := match p.phase with | .after (_ :: v :: _) _ _ => v | _ => 0

/-- The word that names what a process has asked another core for: the placement word of a spawn, the peer handle of a
bind, else the first operand (R365). A TKT asks at its endpoint's peer, whose loss stops it with CHLINK (R375). -/
def Proc.asked (p : Proc) : Option Word :=
  match p.inflight with
  | some (.tkt _ _, _) => none
  | some (.spawn _ _ _, _) => some p.held1
  | some (.chbind _ _ _, _) => some p.held1
  | _ => some p.held0

/-- The process a message's answer is for. -/
def Body.askedBy : Body → Option (Slot × Word)
  | .remote _ k pid => some (k, pid)
  | .increment _ _ k pid _ _ => some (k, pid)
  | .reply _ k pid _ => some (k, pid)
  | .bind k pid _ _ => some (k, pid)
  | .bindReply k pid _ => some (k, pid)
  | .device _ k pid _ _ => some (k, pid)
  | _ => none

/-- The process that waits for a message's answer, and the word that names what it asked for. -/
def Body.asker (s : State) (b : Body) : Option (Slot × Word) :=
  b.askedBy.bind fun x => if (s.proc x.1).pid = x.2 then (s.proc x.1).asked.map fun w => (x.1, w) else none

/-- The core that counts a spawn or migration message of a job as sent and not answered, for the message or its answer
(R334). -/
def Body.counted : Body → Option (CoreId × Nat)
  | .remote (.spawn x) k _ => some (coreOf k, x.jobKey)
  | .increment _ h k _ _ job => some (coreOf k, if job = 0 then 0 else pkgOf h * 2 ^ 48 + job.toNat)
  | .reply _ k _ job => some (coreOf k, job)
  | .migrate p src => some (coreOf src, p.jobKey)
  | .accept k _ job => some (coreOf k, job)
  | .refuse k _ _ job => some (coreOf k, job)
  | _ => none

/-- A message is lost: nothing of its job is awaited for it, and no answer to it (R328, R334). -/
def State.lostMessage (s : State) (m : Msg) : State :=
  match m.body.counted with
  | some (c, job) => (s.settleJob c job).payOwed c
  | none => s

/-- Stops every parked process that awaits an answer by a message from or to agents that are gone, then drops those
messages. -/
def State.dropAgents (s : State) (gone : Agent → Bool) (l : Lost) : State :=
  let hit := s.msgs.filter fun m => gone m.src || gone m.dst
  let t := hit.foldl (fun (t : State) m =>
    match m.body.asker t with
    | some (k, w) => if (t.proc k).state = .parked && !gone (.core (coreOf k)) then t.stopWaiter k w l else t
    | none => t) s
  hit.foldl State.lostMessage { t with msgs := t.msgs.filter fun m => !(gone m.src || gone m.dst) }

/-- The processes elsewhere that wait on memory of a range, or for a migration to a lost core (R381). -/
def State.stopWaits (s : State) (lostLoc : Nat → Bool) (lostCore : CoreId → Bool) (l : Lost) : State :=
  (s.live.filter fun k => !lostCore (coreOf k)).foldl (fun (t : State) k =>
    let p := t.proc k
    match p.wait with
    | .line n => if lostLoc (64 * n) then t.stopWaiter k p.held0 l else t
    | .barrier loc => if lostLoc loc then t.stopWaiter k p.held0 l else t
    | .migration c => if lostCore c then t.stopWaiter k p.held0 l else t
    | _ => t) s

/-- The called tickets of the sending ends of a lost die, held or in a COMMIT on its way, are released at the receiving ends
elsewhere (R291, R375). -/
def State.loseTickets (s : State) (lostCore : CoreId → Bool) : State :=
  let held := s.eps.filterMap fun e =>
    if lostCore (coreOfEp e.1) && e.2.dir then e.2.ticket.map fun t => (coreOfEp e.1, epOfHandle e.2.peer, t) else none
  let sent := s.msgs.filterMap fun m => match m.src, m.body with
    | .core c, .commit r _ _ _ (some t) => if lostCore c then some (c, r, t) else none
    | _, _ => none
  ((held ++ sent).filter fun x => !lostCore (coreOfEp x.2.1)).foldl (fun (t : State) x => t.zeroTicket x.1 x.2.1 x.2.2) s

/-- The peers elsewhere of the endpoints of a lost die become unreachable with reason 2 (R375). -/
def State.loseEndpoints (s : State) (lostCore : CoreId → Bool) : State :=
  let mine := (s.eps.filter fun e => lostCore (coreOfEp e.1)).map (·.1)
  let peers := (mine.flatMap s.boundTo).filter fun f => !lostCore (coreOfEp f)
  let t := peers.foldl (fun (t : State) f => t.peerLost f 2) (s.loseTickets lostCore)
  let u := mine.foldl (fun (t : State) e => t.dropTickets e) t
  { u with eps := u.eps.filter fun e => !lostCore (coreOfEp e.1) }

/-- The commands elsewhere that have begun a write of memory that is lost stop with an engine error DIEFENCED that names its
address; the writes of the units before are performed (R163, R381, R383; log 131). -/
def State.losePending (s : State) (lostLoc : Nat → Bool) (lostCore : CoreId → Bool) : State :=
  let hit := fun (w : EWrite) => match w.target with | .mem loc => lostLoc loc | _ => false
  (s.cores.filter fun x => !lostCore x.1).foldl (fun (t : State) (c, x) =>
    (x.tileQ ++ x.copyQ).foldl (fun (t : State) q =>
      match (if (t.core c).tileQ.contains q || (t.core c).copyQ.contains q then q.pending.find? hit else none) with
      | none => t
      | some w => (t.engPutAll c q (q.pending.filter fun v => v.unit < w.unit)).engineError c q w.unit 0x19 w.va) t) s

/-- The domains of a list of processes, each once. -/
def State.domainsOf (s : State) (ks : List Slot) : List Nat := ks.foldl (fun l k => natInsert l (s.proc k).domain.toNat) []

/-- What is left of a core whose die is fenced: the registers that the map still shows, and the records not yet sent, of
which none is ever lost (R367; log 80). -/
def Core.lostAt (x : Core) : Core :=
  { Core.atReset with cdom := x.cdom, fulln := x.fulln, lightn := x.lightn, extn := x.extn, reserved := x.reserved,
                      records := x.records }

/-- A base die's waiters without those of lost slots. -/
def Base.forget (x : Base) (on : Slot → Bool) : Base :=
  let fs := x.faults.map fun (e : Nat × FaultEntry) =>
    (e.1, { e.2 with waiters := e.2.waiters.filter fun w => !on w.slot })
  { x with faults := fs, waiting := x.waiting.filter fun (_, _, _, _, _, w) => !on w.slot }

/-- Every process of a die is lost: each domain receives a record of KIND 3 (R365, R381), enrolled ones count as ended
(R211), and what the processes held or waited for elsewhere forgets them. -/
def State.loseProcesses (s : State) (e : Nat) (l : Lost) : State :=
  let p := e / 8
  let mine := s.live.filter fun k => dieOfCore (coreOf k) = e
  let s1 := (s.domainsOf mine).foldl (fun (t : State) d =>
    let n := (mine.filter fun k => (s.proc k).domain.toNat = d).length
    t.report p (some d) 0x19 3 [BitVec.ofNat 64 l.unit, BitVec.ofNat 64 n, BitVec.ofNat 64 l.reason, 0]) s
  let arrived := mine.any fun k => (s.proc k).enrolled && (s.proc k).arrivedIn ≠ some (s.pkg p).openStep
  let s2 := mine.foldl (fun (t : State) k => t.setProc k Proc.empty) s1
  let on := fun (k : Slot) => decide (dieOfCore (coreOf k) = e)
  let s3 := { s2 with
    armed := s2.armed.filter fun a => !on a.2
    barriers := s2.barriers.filter fun a => !on a.2
    eps := s2.eps.map fun (x : Nat × Endpoint) => (x.1, { x.2 with callers := x.2.callers.filter fun a => !on a.2 })
    cores := s2.cores.map fun (x : Nat × Core) =>
      (x.1, if dieOfCore x.1 = e then x.2.lostAt else { x.2 with refusals := x.2.refusals.filter fun k => !on k })
    bases := s2.bases.map fun (x : Nat × Base) => (x.1, x.2.forget on) }
  if arrived then s3.arrival p else s3.tryClose p

/-- Every HBM line that a die's clusters held dirty is poisoned by the memory servers (R381). -/
def State.poisonDirty (s : State) (e : Nat) : State :=
  ((s.dirty.filter fun d => d.2.cluster / 16 = e).map (·.1)).foldl (fun (t : State) n =>
    (granules (64 * n) 64).foldl (fun (t : State) g => t.poisonAt (8 * g)) (t.dropLine n)) s

/-! ## The audit (R328, R331) -/

/-- The live processes of a chunk, a context in transit counted where its slot is. -/
def State.chunkProcs (s : State) (home : CoreId) (i : Nat) (id : Word) : List Slot :=
  s.live.filter fun k =>
    let p := s.proc k
    p.chv && p.chunkHome = home && p.chidx.toNat = i && p.job.zeroExtend 64 = id && !s.leftFor k

/-- Increments and decrements on their way to a chunk's entry, or owed to it. -/
def State.countsOnWay (s : State) (home : CoreId) (i : Nat) (id : Word) : Nat × Nat :=
  let inc := s.msgs.filter fun m => match m.body with
    | .increment j h _ _ _ job => j = i && h = home && job.zeroExtend 64 = id
    | _ => false
  let dec := s.msgs.filter fun m => match m.body with
    | .decrement j h job => j = i && h = home && job.zeroExtend 64 = id
    | _ => false
  let owed := s.cores.flatMap fun x => x.2.owed.filter fun (_, h, j, g) => h = home && j = i && g.zeroExtend 64 = id
  (inc.length, dec.length + owed.length)

/-- The entry of a sent chunk at its home. -/
def State.chunkEntry (s : State) (id : Word) (e : SentChunk) : Option (Nat × ChunkEntry) :=
  List.find? (fun (x : Nat × ChunkEntry) => x.2.launch = id && x.2.first = e.first) (s.core e.core).chunks

/-- Whether a message asks for a process of a chunk, or counts one (R328). -/
def Body.ofChunk (home : CoreId) (i : Nat → Bool) (id : Word) : Body → Bool
  | .remote (.spawn x) _ _ => x.chv && x.chunkHome = home && i x.chidx.toNat && x.job.zeroExtend 64 = id
  | .increment j h _ _ _ job => h = home && i j && job.zeroExtend 64 = id
  | .decrement j h job => h = home && i j && job.zeroExtend 64 = id
  | _ => false

/-- The messages that ask for processes of a lost chunk or count them come to nothing (log 108). -/
def State.dropChunk (s : State) (home : CoreId) (i : Nat → Bool) (id : Word) : State :=
  let hit := s.msgs.filter fun m => m.body.ofChunk home i id
  let kept := fun (x : Core) =>
    { x with owed := x.owed.filter fun (_, h, j, g) => !(h = home && i j && g.zeroExtend 64 = id) }
  hit.foldl State.lostMessage { s with
    msgs := s.msgs.filter fun m => !m.body.ofChunk home i id
    cores := s.cores.map fun x => (x.1, kept x.2) }

/-- A lost chunk: its surviving processes are killed, its entry freed, and it is reissued with the same indices. One that
has only been written to the mirror was never sent, and is sent elsewhere for the first time. -/
def State.loseChunk (s : State) (p : Nat) (id : Word) (e : SentChunk) (i : Option Nat) : State :=
  let unsent := match (s.pkg p).toSend with
    | some (j, first, _, c) => j = id && first = e.first && c = e.core
    | none => false
  let ks := match i with
    | some i => s.chunkProcs e.core i id
    | none => s.live.filter fun k =>
        let q := s.proc k
        q.chv && q.chunkHome = e.core && q.job.zeroExtend 64 = id && !s.leftFor k
  let s1 := ks.foldl (fun (t : State) k => (t.modProc k fun q => { q with chv := false }).killProc k) s
  let s2 := match i with
    | some i => (s1.modCore e.core fun x => { x with chunks := Map.del x.chunks i }).dropChunk e.core (fun j => j = i) id
    | none => s1.dropChunk e.core (fun _ => true) id
  s2.modLaunch p id fun l => { l with
    sent := l.sent.filter fun x => !(x.first = e.first && x.core = e.core)
    again := if l.stage = 0 then (e.first, e.size) :: l.again else l.again
    reissued := if l.stage = 0 && !unsent then l.reissued + 1 else l.reissued }

/-- The audit of one sent chunk after die `die` is gone (R328): lost when its home was there or a process of it was. -/
def State.auditChunk (s : State) (p : Nat) (id : Word) (e : SentChunk) (die : Nat) : State :=
  if dieOfCore e.core = die then s.loseChunk p id e none
  else
    match s.chunkEntry id e with
    | none => s
    | some (i, y) =>
      let n := (s.chunkProcs e.core i id).length
      let (inc, dec) := s.countsOnWay e.core i id
      if n + dec < y.live + inc then s.loseChunk p id e (some i)
      else s.modCore e.core fun x => { x with chunks := Map.put x.chunks i { y with live := n + dec - inc } }

/-- The audit of every unreported chunk (R328), and the cancellations that awaited a lost core. -/
def State.audit (s : State) (p die : Nat) : State :=
  let s1 := s.pkgs.foldl (fun (t : State) (q, x) => x.launches.foldl (fun (t : State) l =>
    l.sent.foldl (fun (t : State) e => t.auditChunk q l.id e die) t) t) s
  let s2 := (s1.pkgs.map (·.1)).foldl (fun (t : State) q => t.setLaunches q fun ls => ls.map fun l =>
    let left := fun (cs : List CoreId) => cs.filter fun c => dieOfCore c ≠ die
    { l with cores := left l.cores, awaiting := left l.awaiting, held := left l.held }) s1
  let s3 := s2.modPkg p fun x => { x with
    report := x.report.filter fun r => dieOfCore r.1 ≠ die
    toSend := match x.toSend with | some (_, _, _, c) => if dieOfCore c = die then none else x.toSend | none => none }
  (s3.pkgs.foldl (fun (t : State) (q, x) => x.launches.foldl (fun (t : State) l => t.cancelOn q l.id) t) s3).sendHeld

/-! ## Fencing (R380 to R383) -/

/-- Compute die `e` of the pod is fenced (R381): processes, engines, endpoints, dirty lines, open-step entries, chunks,
memory, and what waits on it. -/
def State.fenceDie (s : State) (e reason : Nat) : State :=
  if (s.die e).fenced.isSome then s
  else
    let p := e / 8
    let l : Lost := { unit := e % 8, reason := reason }
    let lostCore := fun (c : CoreId) => decide (dieOfCore c = e)
    let lostLoc := fun (n : Nat) => match kindOf n with
      | .hbm => false
      | .common => decide (dieOfCommon n = e)
      | .spad => lostCore (coreOfSpad n)
    let gone := fun (a : Agent) => match a with | .core c => lostCore c | _ => false
    let s1 := (s.modDie e fun x => { x with fenced := some reason, clearing := none, windowQ := [] }).poisonDirty e
    let s2 := s1.modPkg p fun x => { x with entries := x.entries.filter fun n => !(n.die = e && n.step = x.openStep) }
    let s3 := (((s2.losePending lostLoc lostCore).stopWaits lostLoc lostCore l).loseEndpoints lostCore).dropAgents gone l
    let s4 := s3.loseProcesses e l
    let s5 := { s4 with
      ordadds := s4.ordadds.filter fun o => !lostLoc (8 * o.gran)
      clusters := s4.clusters.map fun (x : Nat × Cluster) =>
        (x.1, if x.1 / 16 = e then { x.2 with tcache := [], tapes := [] } else x.2) }
    let s6 := (s5.clearBytes (locCommon p (e % 8) 0) (locCommon p (e % 8 + 1) 0)).clearBytes (locSpad (e * 256) 0)
      (locSpad (e * 256 + 255) spadSize)
    s6.audit p e

/-- Whether a compute die's state bears out a reason to fence it (R380): an uncorrectable error and a power or clock fault
are what the event itself detects. -/
def State.dieCause (s : State) (p die reason : Nat) : Bool :=
  reason = 1 || reason = 3 || (reason = 2 && (s.pkg p).isolated die) ||
    (reason = 4 && (s.base (p * 4 + die / 2)).fenced.isSome)

/-- DIE_FENCE (R380, R381): for a cause of R380 alone. -/
def execDieFence (p die reason : Nat) (s : State) : Out :=
  .next (if die < 8 && s.dieCause p die reason then s.fenceDie (p * 8 + die) reason else s)

/-- The distributor of a base die stops (R329, R331): the master's going starts the 10 µs, a mirror's going moves the
mirror. -/
def State.loseDistributor (s : State) (p b : Nat) : State :=
  let x := s.pkg p
  if x.failover.isSome then s
  else if x.master = b then s.modPkg p fun x => { x with failover := some x.time }
  else if x.mirrorAt = b then
    let t := s.modPkg p fun x => { x with mirrorAt := s.nextBase p x.master, mirror := x.launches }
    match x.toSend with
    | some (id, _, _, _) => t.askMirror p id
    | none => t
  else s

/-- Base die `b` of a package is fenced (R383): its compute dies with reason 4, its stacks, distributor, walker, step unit
and host port; the package leaves the calends (R212). The six Delan ports it carries (R19) stay as they are: R383 names
only the host port (DESIGN CHOICE, log 121). -/
def State.fenceBase (s : State) (p b reason : Nat) : State :=
  let n := p * 4 + b
  if (s.base n).fenced.isSome then s
  else
    let l : Lost := { unit := 8 + b, reason := reason }
    let s1 := s.modBase n fun x => { x with fenced := some reason, faults := [], waiting := [], tables := [] }
    let s2 := (s1.fenceDie (p * 8 + 2 * b) 4).fenceDie (p * 8 + 2 * b + 1) 4
    let lostLoc := fun (m : Nat) => match kindOf m with | .hbm => decide (baseOfHbm m = n) | _ => false
    let s3 := (s2.losePending lostLoc fun _ => false).stopWaits lostLoc (fun _ => false) l
    let s4 := s3.dropAgents (fun a => a = .dist p b) l
    let s5 := if b = 0 then s4.after (execPcieLinkDown p 0 s4) else if b = 2 then s4.after (execPcieLinkDown p 1 s4) else s4
    let s6 := s5.loseDistributor p b
    if (s6.pkg p).member then s6.withdrawPkg p else s6

/-- BASE_DIE_FENCE (R380, R383): a base die's causes are an uncorrectable error, a power or clock fault, and an HBM stack. -/
def execBaseDieFence (p base reason : Nat) (s : State) : Out :=
  .next (if base < 4 && (reason = 1 || reason = 3 || reason = 5) then s.fenceBase p base reason else s)

/-- PACKAGE_UNREACHABLE (R373, R212). -/
def execPackageUnreachable (p : Nat) (s : State) : Out :=
  .next (if (s.pkg p).inPod && s.podFormed && (s.pkg p).root ≠ p then s.withdrawPkg p else s)

/-! ## Thermal events (R22, R23) -/

/-- THERMAL_TRIP (R23): all issue stops, vector 0 is raised on both ports, and the package is held in reset until a host
clears the event; to the rest of the pod it is a fenced package. HBM keeps what it holds, so no line of it is poisoned.
Its semaphores and the registers of its host ports stay as they are until the clear resets them (DESIGN CHOICE, log 120). -/
def execThermalTrip (cl temp : Nat) (s : State) : Out :=
  .next (
    let p := cl / 128
    if temp < 110 then s
    else
      let s0 := ((s.dirty.filter fun d => pkgOfLoc (64 * d.1) = p).map (·.1)).foldl State.dropLine s
      let s1 := (upTo 8).foldl (fun (t : State) e => t.fenceDie (p * 8 + e) 3) s0
      let x := s1.pkg p
      let s2 := (s1.resetPkg p).modPkg p fun y => { y with
        thermtrip := true, bringup := 0, port0 := x.port0, port1 := x.port1, sems := x.sems }
      (s2.interruptBoth p 0).modCluster cl fun y => { y with temp := temp })

/-- A reading of a cluster's sensor (R21, R22, R23): it is the register's value from then on. Above 95 °C the cluster's tile
units run at half rate until a reading of 90 °C or below, and no result changes; one of 110 °C or more trips. -/
def State.sensor (s : State) (cl temp : Nat) : State :=
  if temp ≥ 110 then s.after (execThermalTrip cl temp s)
  else s.modCluster cl fun x =>
    { x with temp := temp, throttled := if temp > 95 then true else if temp ≤ 90 then false else x.throttled }

/-- THERMAL_THROTTLE (R22, R23): a reading of a sensor that rises. -/
def execThermalThrottle (cl temp : Nat) (s : State) : Out := .next (s.sensor cl temp)

/-- THERMAL_UNTHROTTLE (R22): a reading of a sensor that falls. -/
def execThermalUnthrottle (cl temp : Nat) (s : State) : Out := .next (s.sensor cl temp)

/-- HBM_REFRESH_POWER_LOSS (R23): HBM contents are lost while the package is held in its thermal reset. R23 does not say
what HBM then reads; every byte reads as one that nothing has written, unsealed and unpoisoned (DESIGN CHOICE, log 1). -/
def execHbmRefreshPowerLoss (p : Nat) (s : State) : Out :=
  .next (
    if (s.pkg p).thermtrip then
      let t := s.clearBytes (locHbm p 0) (locHbm p hbmSize)
      { t with seals := t.seals.filter fun e => pkgOfLoc (64 * e.1) ≠ p }
    else s)

/-! ## Uncorrectable errors (R368, R377, R280, R281) -/

/-- A context that cannot be read: its process ends as by KILL, with a MEMERR record that names the granule, by its offset
in the scratchpad (R368). -/
def State.loseContext (s : State) (k : Slot) (o : Nat) : State :=
  if (s.proc k).state = .free then s
  else (s.stopProc k 0 0x08 0 [addrOf (locSpad (coreOf k) (o / 8 * 8)), 2]).killProc k

/-- Whether a core's replay streams or drains at an entry of a tape (R277). -/
def Core.readsEntry (x : Core) (i entry : Nat) : Bool :=
  (x.replay.state = .stream || x.replay.state = .drain) && x.replay.index = i && x.replay.pos = entry

/-- An error in an almanac entry (R280, R281): a valid tape becomes invalid and the entry stays bad. A replay that stands at
the entry ends with REPLAYFAULT at once, one that has yet to read it when it does (log 79). -/
def State.tapeError (s : State) (cl i entry : Nat) : State :=
  let t := s.modCluster cl fun x =>
    match x.tapes.find? i with
    | some tp => { x with tapes := x.tapes.put i { tp with bad := entry :: tp.bad } }
    | none => x
  ((fromTo (cl * 16) 16).filter fun c => (s.core c).readsEntry i entry).foldl (fun (t : State) c => t.badEntry c entry)
    (t.invalidate cl i)

/-- UNCORRECTABLE_ERROR (R368): the outcome of its place. -/
def execUncorrectableError (p : Nat) (place : ErrPlace) (s : State) : Out :=
  .next (
    match place with
    | .memory loc => s.poisonAt loc
    | .cacheLine loc =>
      if (s.dirty.find? (loc / 64)).isSome then (s.writeBack (loc / 64)).poisonAt loc else s.corrected p 3 (addrOf loc)
    | .context k o => s.loseContext k ((s.core (coreOf k)).recordOffset k + o)
    | .extension k o =>
      match (s.proc k).vext with
      | some v => s.loseContext k ((s.core (coreOf k)).extOffset v.slot + o)
      | none => s
    | .endpoint e counts =>
      if (s.ep e).state = 0 then s else if counts then s.failCheck e 0 else s.freeEp e 4
    | .stepEntry n =>
      s.modPkg p fun x => { x with entries :=
        match x.entries[n]? with
        | some e => setAt x.entries n { e with poisoned := true }
        | none => x.entries }
    | .almanac cl i entry => s.tapeError cl i entry
    | .dieState die => if die < 8 then s.fenceDie (p * 8 + die) 1 else s)

/-! ## Links (R370 to R373) -/

/-- The link-state event (R374): 0 retraining, 1 retrained, 2 down. -/
def State.linkEvent (s : State) (p link what us : Nat) : State :=
  let id := if link < 24 then link + 2 ^ 16 else (link - 24) / 2
  s.report p none 0 4 [3, BitVec.ofNat 64 id, BitVec.ofNat 64 what, BitVec.ofNat 64 us]

/-- A link that is up begins to retrain (R372). -/
def State.startRetrain (s : State) (p link : Nat) : State :=
  if (s.pkg p).links.get link 0 ≠ 0 then s
  else
    (s.modPkg p fun x => { x with links := x.links.put link 1, linkReplays := x.linkReplays.del link }).linkEvent p link 0 0

/-- A replay on a link: the fourth within a span of cycles makes it retrain (R372). -/
def State.linkReplay (s : State) (p link span : Nat) : State :=
  let x := s.pkg p
  let recent := (x.linkReplays.get link []).filter fun t => x.time < t + span
  let now := recent ++ [x.time]
  if now.length ≥ 4 then s.startRetrain p link
  else s.modPkg p fun x => { x with linkReplays := x.linkReplays.put link now }

/-- LINK_CRC_FAIL (R370): a die-to-die link replays. -/
def execLinkCrcFail (p link : Nat) (s : State) : Out := .next (if link ≥ 24 then s.linkReplay p link 1024 else s)

/-- DELAN_FRAME (R371): a frame that the parity cannot correct is replayed. -/
def execDelanFrame (p link : Nat) (bad : Bool) (s : State) : Out :=
  .next (if link < 24 && bad then s.linkReplay p link (100 * cyclesPerUs) else s)

/-- LINK_RETRAIN (R372): a link loses lock. -/
def execLinkRetrain (p link : Nat) (s : State) : Out := .next (s.startRetrain p link)

/-- A compute die with every die-to-die link down is fenced with reason 2 (R373). -/
def State.fenceIsolated (s : State) (p : Nat) : State :=
  (upTo 8).foldl (fun (t : State) e =>
    if (t.pkg p).isolated e then t.fenceDie (p * 8 + e) 2 else t) s

/-- RETRAIN_COMPLETE (R372, R373): the link is up again; the third failure in a row takes it down. -/
def execRetrainComplete (p link : Nat) (ok : Bool) (us : Nat) (s : State) : Out :=
  .next (
    let x := s.pkg p
    if x.links.get link 0 ≠ 1 then s
    else if ok then
      (s.modPkg p fun x => { x with links := x.links.del link, linkFails := x.linkFails.del link }).linkEvent p link 1 us
    else
      let n := x.linkFails.get link 0 + 1
      if n < 3 then (s.modPkg p fun x => { x with linkFails := x.linkFails.put link n }).linkEvent p link 0 us
      else
        ((s.modPkg p fun x => { x with links := x.links.put link 2, linkFails := x.linkFails.del link }).linkEvent p link
          2 us).fenceIsolated p)

end Sys2Proof.Machine
end

