-- ==== Sys2Proof/Machine/Vconv.lean ====
section
/-! DEFINITION. Vector conversions: VCONV (R133 to R138) and SETLUT (R139). -/

namespace Sys2Proof.Machine

/-- Packed(v, N, i): element `i` of an image of `w`-bit elements (R86, R133). -/
def packed (v : BitVec 512) (w i : Nat) : Nat := v.toNat / 2 ^ (w * i) % 2 ^ w

/-- The packed image of codes of `w` bits (R86, R133). -/
def image (w : Nat) (codes : List Nat) : Nat := joinLanes w codes

/-- The image with a scale byte at byte 48 (R136, R137). -/
def withScale (img c : Nat) : BitVec 512 := BitVec.ofNat 512 (img + c % 256 * 2 ^ 384)

/-- The scale byte: byte 48 of a register. -/
def scaleByte (v : BitVec 512) : Nat := v.toNat / 2 ^ 384 % 256

/-- The conversion of VCVT of one element into W (R135). -/
def vcvtLane (N : Fmt) (W : FFmt) (rm : Rm) (e : Nat) : Nat × FFlags := round W rm false (N.val (fun _ => 0) e)

/-- VCVT (R135). -/
def execVcvt (d a : VReg) (n : BitVec 5) (t m : BitVec 4) (s : State) : Out :=
  let w := laneBits t.toNat
  .next (s.issue .vector fun _ s =>
    let va := s.cur.vec a
    let N := (Fmt.ofCode n.toNat).getD .raw
    s.vmasked .vector d w m fun i =>
      vcvtLane N (FFmt.ofType t.toNat) s.cur.rm (packed va (widthOfCode n.toNat) i))

/-- The narrow format of an MX conversion, codes 5 to 9 (R134). -/
def mxFmt (n : BitVec 5) : FFmt :=
  match Fmt.ofCode n.toNat with
  | some (.float F) => F
  | _ => .e4m3

/-- VQMX (R136). -/
def execVqmx (d a : VReg) (n : BitVec 5) (t : BitVec 4) (s : State) : Out :=
  let w := laneBits t.toNat
  .next (s.issue .vector fun _ s =>
    let va := s.cur.vec a
    let r := mxQuant (mxFmt n) s.cur.sat ((upTo (512 / w)).map fun i => (FFmt.ofType t.toNat).decode (lane va w i))
    s.doneVec .vector d (withScale (image (widthOfCode n.toNat) r.2.1) r.1) r.2.2)

/-- VDQMX (R136). -/
def execVdqmx (d a : VReg) (n : BitVec 5) (t m : BitVec 4) (s : State) : Out :=
  let w := laneBits t.toNat
  .next (s.issue .vector fun _ s =>
    let va := s.cur.vec a
    s.vmasked .vector d w m fun i =>
      mxDequant (mxFmt n) (FFmt.ofType t.toNat) (packed va (widthOfCode n.toNat) i) (scaleByte va) s.cur.rm)

/-- One lane of VSEXP (R137). -/
def vsexpLane (N : Fmt) (W : FFmt) (rm : Rm) (sat : Bool) (c x : Nat) : Nat × FFlags :=
  if c = 255 then (0, .nv) else N.enc (fun _ => 0) rm sat ((W.decode x).scale (127 - (c : Int)))

/-- VSEXP (R137): the scale comes from byte 48 of the old vd. -/
def execVsexp (d a : VReg) (n : BitVec 5) (t : BitVec 4) (s : State) : Out :=
  let w := laneBits t.toNat
  let wn := widthOfCode n.toNat
  .next (s.issue .vector fun _ s =>
    let va := s.cur.vec a
    let c := scaleByte (s.cur.vec d)
    let N := (Fmt.ofCode n.toNat).getD .raw
    let rs := (upTo (512 / w)).map fun i => vsexpLane N (FFmt.ofType t.toNat) s.cur.rm s.cur.sat c (lane va w i)
    let img := image wn (rs.map (·.1))
    s.doneVec .vector d (if 512 / w * wn ≤ 384 then withScale img c else BitVec.ofNat 512 img) (orFlags rs))

/-- VLUT (R138): no flag is set. -/
def execVlut (d a : VReg) (k : BitVec 2) (t m : BitVec 4) (s : State) : Out :=
  let w := laneBits t.toNat
  .next (s.issue .vector fun _ s =>
    let va := s.cur.vec a
    s.vmasked .vector d w m fun i =>
      ((round (FFmt.ofType t.toNat) s.cur.rm false (lutVal (s.lutTable s.here k.toNat (packed va 8 i)))).1, .none))

/-- VENC (R138): unmasked; bytes past the codes are zero. -/
def execVenc (d a : VReg) (k : BitVec 2) (t : BitVec 4) (s : State) : Out :=
  let w := laneBits t.toNat
  .next (s.issue .vector fun _ s =>
    let va := s.cur.vec a
    let rs := (upTo (512 / w)).map fun i =>
      lutEncode (s.lutTable s.here k.toNat) ((FFmt.ofType t.toNat).decode (lane va w i))
    s.doneVec .vector d (BitVec.ofNat 512 (image 8 (rs.map (·.1)))) (orFlags rs))

/-- The entries of a table from 1,024 bytes: bits [31:13] of each word (R139). -/
def lutEntries : List Byte → List (BitVec 19)
  | a :: b :: c :: e :: r => BitVec.ofNat 19 (leVal [a, b, c, e] / 2 ^ 13) :: lutEntries r
  | _ => []

/-- The table replaced whole (R139). -/
def Core.setLut (x : Core) (t : Nat) (es : List (BitVec 19)) : Core :=
  { x with lut := (es.zip (upTo 256)).foldl (fun m (e, i) => if e = 0 then m else m.put (256 * t + i) e)
                    (x.lut.delRange (256 * t) (256 * t + 256)) }

/-- A granule of SETLUT's source that has been loaded ahead of the others: its two entries and its number in one word. -/
def lutLoaded (e0 e1 : BitVec 19) (i : Nat) : Word := BitVec.ofNat 64 (e0.toNat + e1.toNat * 2 ^ 19 + i * 2 ^ 38)

/-- Whether a granule is among those loaded ahead. -/
def lutHas (got : List Word) (i : Nat) : Bool := got.any fun w => bits w 44 38 = i

/-- The entries of a table with those of the granules loaded ahead. -/
def lutWith (got : List Word) (es : List (BitVec 19)) : List (BitVec 19) :=
  got.foldl (fun es w =>
    setAt (setAt es (2 * bits w 44 38) (BitVec.ofNat 19 (bits w 18 0))) (2 * bits w 44 38 + 1)
      (BitVec.ofNat 19 (bits w 37 19))) es

/-- Reads the 128 granules of SETLUT's source as plain loads (R139), but for those loaded ahead: the bytes, the first granule
that is poisoned, or none when a granule must wait for stores still in the queue (R173). -/
def State.lutSource (s : State) (loc : Nat) (got : List Word) : List Nat → List Byte → Option (Sum (List Byte) Nat)
  | [], acc => some (.inl acc)
  | i :: r, acc =>
    if lutHas got i then s.lutSource loc got r (acc ++ List.replicate 8 0)
    else
    match s.forward (loc + 8 * i) 8 with
    | .whole bs => s.lutSource loc got r (acc ++ bs)
    | .partly => none
    | .clear =>
      if s.poisoned (loc + 8 * i) 8 then some (.inr i) else s.lutSource loc got r (acc ++ s.mem.read (loc + 8 * i) 8)

/-- SETLUT (R139). -/
def execSetlut (a : Reg) (t : BitVec 2) (s : State) : Out :=
  let sh : Shape := { srcs := [a], full := true }
  .next (s.issue sh fun vals s =>
    let ea := op vals 0
    State.checked (s.classifyOnly ea 1024) s .read fun sp _ =>
      match sp with
      | .mem loc _ =>
        if kindOf loc ≠ .spad || coreOfSpad loc ≠ s.here then s.trap 0x05 [ea]
        else if bits ea 5 0 ≠ 0 then s.trap 0x03 [ea]
        else if spadOff loc + 1024 > spadSize then s.trap 0x05 [ea]
        else
          let u := s.settle s.here (homesOf loc 1024)
          match u.lutSource loc (vals.drop 1) (upTo 128) [] with
          | some (.inl bs) => (u.modCore u.here fun x => x.setLut t.toNat (lutWith (vals.drop 1) (lutEntries bs))).done sh
          | some (.inr i) => s.trap 0x08 [addAddr ea (8 * (i : Int)), 0]
          | none => s.hold .storeQueue s.cur.phase
      | _ => s.trap 0x05 [ea])

end Sys2Proof.Machine
end

