-- ==== Sys2Proof/Machine/Vflt.lean ====
section
/-! DEFINITION. Floating-point lanes: VFLT (R132). -/

namespace Sys2Proof.Machine

/-- A VFLT member on lanes: operand codes a and b, and lane i of the old vd as c. -/
def State.vflt (s : State) (d a b : VReg) (t m : BitVec 4) (f : FFmt → Rm → Bool → Nat → Nat → Nat → Nat × FFlags) :
    State :=
  let w := laneBits t.toNat
  s.issue .vector fun _ s =>
    let va := s.cur.vec a
    let vb := s.cur.vec b
    let old := s.cur.vec d
    s.vmasked .vector d w m fun i =>
      f (FFmt.ofType t.toNat) s.cur.rm s.cur.ftz (lane va w i) (lane vb w i) (lane old w i)

/-- The lane function of the arithmetic members (R119, R132). -/
def laneArith (mem : FMember) (F : FFmt) (rm : Rm) (ftz : Bool) (x y z : Nat) : Nat × FFlags := farith mem F rm ftz x y z

/-- The lane function of VFMIN and VFMAX (R120, R132). -/
def laneFminmax (isMax : Bool) (F : FFmt) (_ : Rm) (ftz : Bool) (x y _ : Nat) : Nat × FFlags := fminmax isMax F ftz x y

/-- VFADD (R132). -/
def execVfadd (d a b : VReg) (t m : BitVec 4) (s : State) : Out := .next (s.vflt d a b t m (laneArith .add))

/-- VFSUB (R132). -/
def execVfsub (d a b : VReg) (t m : BitVec 4) (s : State) : Out := .next (s.vflt d a b t m (laneArith .sub))

/-- VFMUL (R132). -/
def execVfmul (d a b : VReg) (t m : BitVec 4) (s : State) : Out := .next (s.vflt d a b t m (laneArith .mul))

/-- VFMA (R132): C is lane i of the old vd. -/
def execVfma (d a b : VReg) (t m : BitVec 4) (s : State) : Out := .next (s.vflt d a b t m (laneArith .fma))

/-- VFMIN (R132). -/
def execVfmin (d a b : VReg) (t m : BitVec 4) (s : State) : Out := .next (s.vflt d a b t m (laneFminmax false))

/-- VFMAX (R132). -/
def execVfmax (d a b : VReg) (t m : BitVec 4) (s : State) : Out := .next (s.vflt d a b t m (laneFminmax true))

/-- VFDIV (R132). -/
def execVfdiv (d a b : VReg) (t m : BitVec 4) (s : State) : Out := .next (s.vflt d a b t m (laneArith .div))

/-- VFSQRT (R132). -/
def execVfsqrt (d a : VReg) (t m : BitVec 4) (s : State) : Out := .next (s.vflt d a 0 t m (laneArith .sqrt))

end Sys2Proof.Machine
end

