-- ==== Sys2Proof/Machine/Vint.lean ====
section
/-! DEFINITION. Integer lanes: VINT (R131). -/

namespace Sys2Proof.Machine

/-- A VINT member: a lane function of signedness, width and the two lanes; no flag (R103, R131). -/
def State.vint (s : State) (d a b : VReg) (t m : BitVec 4) (f : Bool → Nat → Nat → Nat → Nat) : State :=
  let w := laneBits t.toNat
  s.issue .vector fun _ s =>
    let va := s.cur.vec a
    let vb := s.cur.vec b
    s.vmasked .vector d w m fun i => (f (signedType t) w (lane va w i) (lane vb w i) % 2 ^ w, .none)

/-- VADD. -/
def laneAdd (_ : Bool) (_ x y : Nat) : Nat := x + y

/-- VSUB. -/
def laneSub (_ : Bool) (w x y : Nat) : Nat := x + 2 ^ w - y

/-- VMUL. -/
def laneMul (_ : Bool) (_ x y : Nat) : Nat := x * y

/-- VMULH. -/
def laneMulh (signed : Bool) (w x y : Nat) : Nat :=
  if signed then wrapInt w (signedOf w x * signedOf w y / (2 ^ w : Nat)) else x * y / 2 ^ w

/-- VMIN and VMAX. -/
def laneMin (signed : Bool) (w x y : Nat) : Nat := if laneLess signed w x y then x else y

def laneMax (signed : Bool) (w x y : Nat) : Nat := if laneLess signed w x y then y else x

/-- VSHL. -/
def laneShl (_ : Bool) (w x y : Nat) : Nat := x * 2 ^ (y % w)

/-- VSHR. -/
def laneShr (signed : Bool) (w x y : Nat) : Nat :=
  if signed then wrapInt w (signedOf w x / (2 ^ (y % w) : Nat)) else x / 2 ^ (y % w)

/-- VADD (R131). -/
def execVadd (d a b : VReg) (t m : BitVec 4) (s : State) : Out := .next (s.vint d a b t m laneAdd)

/-- VSUB (R131). -/
def execVsub (d a b : VReg) (t m : BitVec 4) (s : State) : Out := .next (s.vint d a b t m laneSub)

/-- VMUL (R131). -/
def execVmul (d a b : VReg) (t m : BitVec 4) (s : State) : Out := .next (s.vint d a b t m laneMul)

/-- VMULH (R131). -/
def execVmulh (d a b : VReg) (t m : BitVec 4) (s : State) : Out := .next (s.vint d a b t m laneMulh)

/-- VMIN (R131). -/
def execVmin (d a b : VReg) (t m : BitVec 4) (s : State) : Out := .next (s.vint d a b t m laneMin)

/-- VMAX (R131). -/
def execVmax (d a b : VReg) (t m : BitVec 4) (s : State) : Out := .next (s.vint d a b t m laneMax)

/-- VSHL (R131). -/
def execVshl (d a b : VReg) (t m : BitVec 4) (s : State) : Out := .next (s.vint d a b t m laneShl)

/-- VSHR (R131). -/
def execVshr (d a b : VReg) (t m : BitVec 4) (s : State) : Out := .next (s.vint d a b t m laneShr)

end Sys2Proof.Machine
end

