-- ==== Sys2Proof/Machine/Vmask.lean ====
section
/-! DEFINITION. Vector compares and logic: VMASK (R144, R145). -/

namespace Sys2Proof.Machine

/-- The comparison of two lanes under EQ, NE, LT or LE (R144). -/
def vcmpLane (t : BitVec 4) (c x y : Nat) : Bool × FFlags :=
  if 8 ≤ t.toNat then
    let w := laneBits t.toNat
    match c with
    | 0 => (x = y, .none)
    | 1 => (x ≠ y, .none)
    | 2 => (laneLess (signedType t) w x y, .none)
    | _ => (!laneLess (signedType t) w y x, .none)
  else
    let F := vrFloat t
    let u := F.decode x
    let v := F.decode y
    match c with
    | 0 => fcmpVal 0 u v
    | 1 => let r := fcmpVal 0 u v; (!r.1, r.2)
    | 2 => fcmpVal 1 u v
    | _ => fcmpVal 2 u v

/-- The destination mask's bits of each lane (R144). -/
def vcmpBits (w : Nat) (active zero : Nat → Bool) (res : Nat → Bool) (old : Word) : Word :=
  BitVec.ofNat 64 (joinLanes (w / 8) ((upTo (512 / w)).map fun i =>
    if active i then (if res i then 2 ^ (w / 8) - 1 else 0)
    else if zero i then 0 else old.toNat / 2 ^ (w / 8 * i) % 2 ^ (w / 8)))

/-- VCMP (R144). -/
def execVcmp (d : PReg) (a b : VReg) (t m : BitVec 4) (c : BitVec 2) (s : State) : Out :=
  let w := laneBits t.toNat
  .next (s.issue .vector fun _ s =>
    let va := s.cur.vec a
    let vb := s.cur.vec b
    let M := s.cur.mask (maskReg m)
    let r := fun (i : Nat) => vcmpLane t c.toNat (lane va w i) (lane vb w i)
    let fl := (upTo (512 / w)).foldl (fun f i => if activeLane M w i then f ||| (r i).2 else f) FFlags.none
    let v := vcmpBits w (activeLane M w) (fun _ => m.getLsbD 3) (fun i => (r i).1) (s.cur.mask d)
    let u := s.raise fl
    ({ u with cur := u.cur.setMask d v } : State).done .vector)

/-- VLOG (R145): masked by bytes. -/
def State.vlog (s : State) (d a b : VReg) (m : BitVec 4) (f : Nat → Nat → Nat) : State :=
  s.issue .vector fun _ s =>
    let va := s.cur.vec a
    let vb := s.cur.vec b
    s.vmasked .vector d 8 m fun i => (f (lane va 8 i) (lane vb 8 i), .none)

/-- VAND (R145). -/
def execVand (d a b : VReg) (m : BitVec 4) (s : State) : Out := .next (s.vlog d a b m fun x y => x &&& y)

/-- VOR (R145). -/
def execVor (d a b : VReg) (m : BitVec 4) (s : State) : Out := .next (s.vlog d a b m fun x y => x ||| y)

/-- VXOR (R145). -/
def execVxor (d a b : VReg) (m : BitVec 4) (s : State) : Out := .next (s.vlog d a b m fun x y => x ^^^ y)

/-- VANDN (R145). -/
def execVandn (d a b : VReg) (m : BitVec 4) (s : State) : Out := .next (s.vlog d a b m fun x y => x &&& (255 - y))

/-- MLOG (R145): unmasked, on mask registers; m0 reads all ones. -/
def State.mlog (s : State) (d a b : PReg) (f : Word → Word → Word) : State :=
  let sh : Shape := { full := true, vec := d ≠ 0 || a ≠ 0 || b ≠ 0 }
  s.issue sh fun _ s => State.done { s with cur := s.cur.setMask d (f (s.cur.mask a) (s.cur.mask b)) } sh

/-- MAND (R145). -/
def execMand (d a b : PReg) (s : State) : Out := .next (s.mlog d a b fun x y => x &&& y)

/-- MOR (R145). -/
def execMor (d a b : PReg) (s : State) : Out := .next (s.mlog d a b fun x y => x ||| y)

/-- MXOR (R145). -/
def execMxor (d a b : PReg) (s : State) : Out := .next (s.mlog d a b fun x y => x ^^^ y)

/-- MANDN (R145). -/
def execMandn (d a b : PReg) (s : State) : Out := .next (s.mlog d a b fun x y => x &&& ~~~y)

end Sys2Proof.Machine
end

