-- ==== Sys2Proof/Machine/Vmem.lean ====
section
/-! DEFINITION. Vector memory instructions: VMEM (R228 to R232). -/

namespace Sys2Proof.Machine

/-- The active lanes of `w` bits under a mask value, in increasing order (R229). -/
def activeLanes (M : Word) (w : Nat) : List Nat := (upTo (512 / w)).filter fun i => activeLane M w i

/-- The bytes each active lane received, placed in a register; the others zero or old (R128, R230). -/
def gathered (w : Nat) (lanes : List Nat) (vals : List Nat) (zero : Bool) (old : BitVec 512) : BitVec 512 :=
  ofLanes w ((upTo (512 / w)).map fun i =>
    match indexOf (fun j => j = i) lanes 0 with
    | some k => vals.getD k 0
    | none => if zero then 0 else lane old w i)

/-- A vector load: every active lane located, read, then vd written (R229, R230). -/
def State.vload (s : State) (sh : Shape) (vals : List Word) (d : VReg) (t m : BitVec 4) (addr : Nat → Word) : State :=
  let w := laneBits t.toNat
  let lanes := activeLanes (s.cur.mask (maskReg m)) w
  s.load sh vals (w / 8) (lanes.map fun i => (addr i, w / 8)) (fun a => a.ea) fun _ got u =>
    u.doneVec sh d (gathered w lanes (got.map leVal) (m.getLsbD 3) (s.cur.vec d)) .none

/-- A vector store: every active lane located, entries reserved, then the queue in lane order (R229, R230). Its
contributions to STEP pages are unsigned integers of a granule (R196). -/
def State.vstore (s : State) (sh : Shape) (w : Nat) (lanes : List Nat) (addr : Nat → Word) (val : Nat → Nat)
    (f : State → State) : State :=
  s.locateAll .store (w / 8) (lanes.map fun i => (addr i, w / 8)) [] (fun accs t =>
    s.storeAll accs (lanes.map fun i => leBytes (val i) (w / 8)) (.unsigned 8) (fun u => (f u).done sh) t) s

/-- Lane i at g[a] + wb·i (R228). -/
def unitAddr (base : Word) (w : Nat) (i : Nat) : Word := addAddr base (w / 8 * i : Nat)

/-- Lane i at g[a] + i·Signed(g[b]) (R228). -/
def strideAddr (base stride : Word) (i : Nat) : Word := addAddr base ((i : Int) * stride.toInt)

/-- Lane i at g[a] + wb·idx(i) (R228). -/
def indexAddr (base : Word) (t : BitVec 4) (ix : BitVec 512) (i : Nat) : Word :=
  let w := laneBits t.toNat
  let x := lane ix w i
  addAddr base ((w / 8 : Nat) * (if signedType t then signedOf w x else (x : Int)))

/-- VLD (R228). -/
def execVld (d : VReg) (a : Reg) (t m : BitVec 4) (s : State) : Out :=
  let sh : Shape := { srcs := [a], full := true, vec := true }
  .next (s.issue sh fun vals s => s.vload sh vals d t m (unitAddr (op vals 0) (laneBits t.toNat)))

/-- VST (R228). -/
def execVst (d : VReg) (a : Reg) (t : BitVec 4) (m : BitVec 3) (s : State) : Out :=
  let w := laneBits t.toNat
  let sh : Shape := { srcs := [a], full := true, vec := true }
  .next (s.issue sh fun vals s =>
    s.vstore sh w (activeLanes (s.cur.mask m) w) (unitAddr (op vals 0) w) (lane (s.cur.vec d) w) id)

/-- VLDS (R228). -/
def execVlds (d : VReg) (a b : Reg) (t m : BitVec 4) (s : State) : Out :=
  let sh : Shape := { srcs := [a, b], full := true, vec := true }
  .next (s.issue sh fun vals s => s.vload sh vals d t m (strideAddr (op vals 0) (op vals 1)))

/-- VSTS (R228). -/
def execVsts (d : VReg) (a b : Reg) (t : BitVec 4) (m : BitVec 3) (s : State) : Out :=
  let w := laneBits t.toNat
  let sh : Shape := { srcs := [a, b], full := true, vec := true }
  .next (s.issue sh fun vals s =>
    s.vstore sh w (activeLanes (s.cur.mask m) w) (strideAddr (op vals 0) (op vals 1)) (lane (s.cur.vec d) w) id)

/-- VGATH (R228). -/
def execVgath (d : VReg) (a : Reg) (b : VReg) (t m : BitVec 4) (s : State) : Out :=
  let sh : Shape := { srcs := [a], full := true, vec := true }
  .next (s.issue sh fun vals s => s.vload sh vals d t m (indexAddr (op vals 0) t (s.cur.vec b)))

/-- The lanes VSCAT and VAMO still have to perform: those VPROG does not mark (R232). -/
def notDone (vprog : Word) (lanes : List Nat) : List Nat := lanes.filter fun i => !vprog.getLsbD i

/-- VSCAT (R228, R232): lanes marked in VPROG are skipped, and VPROG becomes zero when it completes. -/
def execVscat (d : VReg) (a : Reg) (b : VReg) (t : BitVec 4) (m : BitVec 3) (s : State) : Out :=
  let w := laneBits t.toNat
  let sh : Shape := { srcs := [a], full := true, vec := true }
  .next (s.issue sh fun vals s =>
    s.vstore sh w (notDone s.cur.vprog (activeLanes (s.cur.mask m) w)) (indexAddr (op vals 0) t (s.cur.vec b))
      (lane (s.cur.vec d) w) fun u => { u with cur := u.cur.setVprog 0 })

/-! ## Typed vector accesses (R231) -/

/-- Elem of each active lane in order, up to the first that fails (R123, R231). -/
def elemsFrom (ptr : Word) : List Nat → List Elem → List Elem × Option (Nat × List Word)
  | [], acc => (acc.reverse, none)
  | i :: r, acc =>
    match elem ptr i with
    | .ok e => elemsFrom ptr r (e :: acc)
    | .trap cause ds => (acc.reverse, some (cause, ds))
    | .miss _ _ _ => (acc.reverse, none)

/-- The element whose bytes an access belongs to: the address its trap names. -/
def tagOf (es : List Elem) (a : Acc) : Word :=
  match es.find? fun e => bits (a.ea - e.addr) 55 0 < e.nb with
  | some e => e.addr
  | none => a.ea

/-- The value of an element's bytes, taken from its parts in order. -/
def regroup : List Elem → List (List Byte) → List Nat
  | [], _ => []
  | e :: r, got =>
    let k := (parts e.addr e.nb).length
    leVal (got.take k).flatten :: regroup r (got.drop k)

/-- Whether a format code is an integer format (R82, R231). -/
def intFmt (f : Nat) : Bool := f = 10 || f = 11 || f = 14 || f = 15 || f = 16

/-- The integer an integer format's code holds (R82). -/
def intOf (f c : Nat) : Int :=
  match Fmt.ofCode f with
  | some (.int w true) => signedOf w c
  | _ => (c : Int)

/-- VLDT's conversion of an element code into a lane (R231). -/
def State.toLane (s : State) (e : Elem) (t : BitVec 4) (c : Nat) : Nat × FFlags :=
  let w := laneBits t.toNat
  if e.f = 0 then (c % 256, .none)
  else if t.toNat ≤ 7 then round (vrFloat t) s.cur.rm s.cur.sat (s.elemVal e c)
  else if intFmt e.f then (intToInt w (signedType t) s.cur.sat (intOf e.f c), .none)
  else toIntType w (signedType t) s.cur.rm (s.elemVal e c)

/-- VLDT (R231). -/
def execVldt (d : VReg) (a : Reg) (t m : BitVec 4) (s : State) : Out :=
  let w := laneBits t.toNat
  let sh : Shape := { srcs := [a], full := true, vec := true }
  .next (s.issue sh fun vals s =>
    let lanes := activeLanes (s.cur.mask (maskReg m)) w
    let (es, bad) := elemsFrom (op vals 0) lanes []
    let as := es.flatMap fun e => parts e.addr e.nb
    match bad with
    | some (cause, ds) => s.locateAll .load 1 as [] (fun _ _ => s.trap cause ds) s
    | none =>
      s.load sh vals 1 as (tagOf es) fun _ got u =>
        let rs := (es.zip (regroup es got)).map fun (e, v) => s.toLane e t (v / 2 ^ e.sh % 2 ^ e.w)
        u.doneVec sh d (gathered w lanes (rs.map (·.1)) (m.getLsbD 3) (s.cur.vec d)) (orFlags rs))

/-- VSTT's conversion of a lane into an element code (R231). -/
def State.fromLane (s : State) (e : Elem) (t : BitVec 4) (x : Nat) : Nat × FFlags :=
  let w := laneBits t.toNat
  let i : Int := if signedType t then signedOf w x else (x : Int)
  if e.f = 0 then (x % 256, .none)
  else
    match Fmt.ofCode e.f with
    | none => (0, .none)
    | some G =>
      match G, decide (8 ≤ t.toNat) with
      | .int wf sg, true => (intToInt wf sg s.cur.sat i, .none)
      | G, true => G.enc (s.lutTable s.here (e.k % 4)) s.cur.rm s.cur.sat (.ofInt i)
      | G, false => G.enc (s.lutTable s.here (e.k % 4)) s.cur.rm s.cur.sat ((vrFloat t).decode x)

/-- A code put into the bytes of its element. -/
def Elem.insert (e : Elem) (old c : Nat) : Nat :=
  old - old / 2 ^ e.sh % 2 ^ e.w * 2 ^ e.sh + c % 2 ^ e.w * 2 ^ e.sh

/-- The whole bytes a 4-bit or 6-bit VSTT stores: elements that share bytes are put into them together (R231). -/
def packStores : List (Elem × Nat × Nat) → List (Elem × Nat) → List (Elem × Nat)
  | [], acc => acc.reverse
  | (e, c, old) :: r, [] => packStores r [(e, e.insert old c)]
  | (e, c, old) :: r, (e2, v) :: acc =>
    if e2.addr = e.addr then packStores r ((e2, e.insert v c) :: acc)
    else packStores r ((e, e.insert old c) :: (e2, v) :: acc)

/-- Stores values into the bytes of their elements (R231). -/
def State.putElems (s0 : State) (sh : Shape) (f : Nat) (vs : List (Elem × Nat)) (fl : FFlags) (s : State) : State :=
  let as := vs.flatMap fun x => parts x.1.addr x.1.nb
  let bs := vs.flatMap fun x =>
    let n0 := ((parts x.1.addr x.1.nb).headD (0, 0)).2
    if (parts x.1.addr x.1.nb).length = 1 then [leBytes x.2 x.1.nb]
    else [(leBytes x.2 x.1.nb).take n0, (leBytes x.2 x.1.nb).drop n0]
  s0.locateAll .store 1 as [] (fun accs t =>
    s0.storeAll accs bs (elemDesc f ((vs.map fun x => x.1.nb).headD 1))
      (fun u => (u.raise fl).done sh) t) s

/-- VSTT (R231): a 4-bit or 6-bit element is a read and a write of its bytes. -/
def execVstt (d : VReg) (a : Reg) (t : BitVec 4) (m : BitVec 3) (s : State) : Out :=
  let w := laneBits t.toNat
  let sh : Shape := { srcs := [a], full := true, vec := true }
  .next (s.issue sh fun vals s =>
    let lanes := activeLanes (s.cur.mask m) w
    let ptr := op vals 0
    let f := bits ptr 63 59
    let (es, bad) := elemsFrom ptr lanes []
    let as := es.flatMap fun e => parts e.addr e.nb
    s.locateAll .store 1 as [] (fun accs u =>
      match bad, accs.find? fun x => stepRefuses x.spot f (elemWidth f) with
      | _, some x => s.trap 0x05 [tagOf es x]
      | some (cause, ds), none => s.trap cause ds
      | none, none =>
        let rs := (es.zip lanes).map fun (e, i) => s.fromLane e t (lane (s.cur.vec d) w i)
        let fl := orFlags rs
        if elemWidth f < 8 then
          s.load sh vals 1 as (tagOf es) fun _ got v =>
            let olds := regroup es got
            let vs := packStores ((es.zip ((rs.map (·.1)).zip olds)).map fun (e, c, o) => (e, c, o)) []
            s.putElems sh f vs fl v
        else s.putElems sh f ((es.zip rs).map fun (e, r) => (e, r.1)) fl u) s)

/-! ## VAMO -/

/-- Lane i of VAMO at g[a] + 8·idx(i) (R228). -/
def amoAddr (base : Word) (ix : BitVec 512) (i : Nat) : Word := addAddr base ((8 * lane ix 64 i : Nat) : Int)

/-- VPROG with the lanes of a list marked (R232). -/
def markLanes (v : Word) (lanes : List Nat) : Word := lanes.foldl (fun v i => v ||| (1 <<< i)) v

/-- Performs the lanes of VAMO in order (R230, R235, R232). `got` are the old values of the lanes performed, with their
lanes in `done`; a lane on a HOST page waits for its completion (R225). -/
def State.vamoLanes (m : Amo) (vals : List Word) (x : Nat → Nat) (f : List Nat → State → State) :
    List (Nat × Acc) → List (Nat × Nat) → List Word → State → State
  | [], got, _, s => f (got.map (·.2)) s
  | (i, a) :: r, got, replies, s =>
    match replies with
    | v :: rest => State.vamoLanes m vals x f r (got ++ [(i, v.toNat)]) rest s
    | [] =>
      match a.spot with
      | .port port addr _ => s.awaitPort port (m.request addr 8 (x i)) vals (got.map fun g => BitVec.ofNat 64 g.2)
      | sp =>
        let fix := fun (t : State) =>
          ({ t with cur := t.cur.setVprog (markLanes t.cur.vprog (got.map (·.1))) } : State)
        let wait := fun (t : State) => t.hold .step (.after (vals ++ got.map fun g => BitVec.ofNat 64 g.2) 0 0)
        s.atomicAt fix wait a.ea 8 sp (fun old => some (m.apply 8 old (x i))) (m.desc 8) (x i)
          (fun old t => State.vamoLanes m vals x f r (got ++ [(i, old)]) [] t)

/-- VAMO (R228, R230, R232). -/
def execVamo (d : VReg) (a : Reg) (b : VReg) (o : BitVec 4) (m : BitVec 4) (s : State) : Out :=
  let mem := Amo.ofCode o.toNat
  let sh : Shape := { srcs := [a], full := true, vec := true }
  .next (s.issue sh fun vals s =>
    let all := if s.cur.mark = 1 then vals ++ [s.cur.answer] else vals
    let ops := all.take 1
    let replies := all.drop 1
    let M := s.cur.mask (maskReg m)
    let active := activeLanes M 64
    let lanes := notDone s.cur.vprog active
    let addr := amoAddr (op vals 0) (s.cur.vec b)
    let x := lane (s.cur.vec d) 64
    if s.cur.mark = 2 then
      State.trap { s with cur := s.cur.setVprog (markLanes s.cur.vprog (lanes.take replies.length)) } 0x05
        [addr (lanes.getD replies.length 0)]
    else
      s.locateAll (.amo mem.code) 8 (lanes.map fun i => (addr i, 8)) [] (fun accs t =>
        t.afterDrain .stores fun t =>
          s.reserveEach accs (fun t =>
            State.vamoLanes mem ops x (fun old u =>
                let keep := active.filter fun i => !lanes.contains i
                let v := gathered 64 (lanes ++ keep) (old ++ keep.map x) (m.getLsbD 3) (s.cur.vec d)
                let w := { u with cur := u.cur.setVprog 0 }
                w.doneVec sh d v .none)
              (lanes.zip accs) [] replies t) t) s)

end Sys2Proof.Machine
end

