-- ==== Sys2Proof/Machine/Dispatch.lean ====
section
/-! DEFINITION. Sys2Proof/Machine/Dispatch.lean: one arm per constructor of Instr, in the order of the opcode table. -/

namespace Sys2Proof.Machine

/-- The effect of an instruction, or of an event of the opcode table, on the machine. -/
def exec (i : Instr) (s : State) : Host.Outcome State Fault Refusal :=
  match i with
  | .add d a b => Sys2Proof.Machine.execAdd d a b s
  | .sub d a b => Sys2Proof.Machine.execSub d a b s
  | .mul d a b => Sys2Proof.Machine.execMul d a b s
  | .mulh d a b => Sys2Proof.Machine.execMulh d a b s
  | .mulhz d a b => Sys2Proof.Machine.execMulhz d a b s
  | .div d a b => Sys2Proof.Machine.execDiv d a b s
  | .divz d a b => Sys2Proof.Machine.execDivz d a b s
  | .rem d a b => Sys2Proof.Machine.execRem d a b s
  | .remz d a b => Sys2Proof.Machine.execRemz d a b s
  | .andR d a b => Sys2Proof.Machine.execAndR d a b s
  | .orR d a b => Sys2Proof.Machine.execOrR d a b s
  | .xorR d a b => Sys2Proof.Machine.execXorR d a b s
  | .andn d a b => Sys2Proof.Machine.execAndn d a b s
  | .shl d a b => Sys2Proof.Machine.execShl d a b s
  | .shr d a b => Sys2Proof.Machine.execShr d a b s
  | .sar d a b => Sys2Proof.Machine.execSar d a b s
  | .rot d a b => Sys2Proof.Machine.execRot d a b s
  | .minS d a b => Sys2Proof.Machine.execMinS d a b s
  | .maxS d a b => Sys2Proof.Machine.execMaxS d a b s
  | .minZ d a b => Sys2Proof.Machine.execMinZ d a b s
  | .maxZ d a b => Sys2Proof.Machine.execMaxZ d a b s
  | .clz d a => Sys2Proof.Machine.execClz d a s
  | .ctz d a => Sys2Proof.Machine.execCtz d a s
  | .popc d a => Sys2Proof.Machine.execPopc d a s
  | .sext d a w => Sys2Proof.Machine.execSext d a w s
  | .zext d a w => Sys2Proof.Machine.execZext d a w s
  | .bfx d a b => Sys2Proof.Machine.execBfx d a b s
  | .bfi d a b => Sys2Proof.Machine.execBfi d a b s
  | .sel d a b p => Sys2Proof.Machine.execSel d a b p s
  | .adda d a b => Sys2Proof.Machine.execAdda d a b s
  | .tags d a b => Sys2Proof.Machine.execTags d a b s
  | .tagg d a => Sys2Proof.Machine.execTagg d a s
  | .addi d a n => Sys2Proof.Machine.execAddi d a n s
  | .andi d a n => Sys2Proof.Machine.execAndi d a n s
  | .ori d a n => Sys2Proof.Machine.execOri d a n s
  | .xori d a n => Sys2Proof.Machine.execXori d a n s
  | .shli d a n => Sys2Proof.Machine.execShli d a n s
  | .shri d a n => Sys2Proof.Machine.execShri d a n s
  | .sari d a n => Sys2Proof.Machine.execSari d a n s
  | .roti d a n => Sys2Proof.Machine.execRoti d a n s
  | .movz d u n => Sys2Proof.Machine.execMovz d u n s
  | .movk d u n => Sys2Proof.Machine.execMovk d u n s
  | .cmp d a b c => Sys2Proof.Machine.execCmp d a b c s
  | .cmpi p c a n => Sys2Proof.Machine.execCmpi p c a n s
  | .pand d a b => Sys2Proof.Machine.execPand d a b s
  | .por d a b => Sys2Proof.Machine.execPor d a b s
  | .pxor d a b => Sys2Proof.Machine.execPxor d a b s
  | .pandn d a b => Sys2Proof.Machine.execPandn d a b s
  | .pnor d a b => Sys2Proof.Machine.execPnor d a b s
  | .br p n d => Sys2Proof.Machine.execBr p n d s
  | .j d => Sys2Proof.Machine.execJ d s
  | .jal d => Sys2Proof.Machine.execJal d s
  | .jalr d a => Sys2Proof.Machine.execJalr d a s
  | .fadd d a b t => Sys2Proof.Machine.execFadd d a b t s
  | .fsub d a b t => Sys2Proof.Machine.execFsub d a b t s
  | .fmul d a b t => Sys2Proof.Machine.execFmul d a b t s
  | .fma d a b t => Sys2Proof.Machine.execFma d a b t s
  | .fdiv d a b t => Sys2Proof.Machine.execFdiv d a b t s
  | .fsqrt d a t => Sys2Proof.Machine.execFsqrt d a t s
  | .fmin d a b t => Sys2Proof.Machine.execFmin d a b t s
  | .fmax d a b t => Sys2Proof.Machine.execFmax d a b t s
  | .fcmp d a b c t => Sys2Proof.Machine.execFcmp d a b c t s
  | .fcvtToS64 d a t => Sys2Proof.Machine.execFcvtToS64 d a t s
  | .fcvtToZ64 d a t => Sys2Proof.Machine.execFcvtToZ64 d a t s
  | .fcvtFromS64 d a t => Sys2Proof.Machine.execFcvtFromS64 d a t s
  | .fcvtFromZ64 d a t => Sys2Proof.Machine.execFcvtFromZ64 d a t s
  | .fcvtFloat d a g t => Sys2Proof.Machine.execFcvtFloat d a g t s
  | .fclass d a t => Sys2Proof.Machine.execFclass d a t s
  | .ldt d a b t => Sys2Proof.Machine.execLdt d a b t s
  | .stt d a b t => Sys2Proof.Machine.execStt d a b t s
  | .ld d a z u o => Sys2Proof.Machine.execLd d a z u o s
  | .st d a z o => Sys2Proof.Machine.execSt d a z o s
  | .lda d a z c o => Sys2Proof.Machine.execLda d a z c o s
  | .stl d a z c o => Sys2Proof.Machine.execStl d a z c o s
  | .amoAdd d a b z c o => Sys2Proof.Machine.execAmoAdd d a b z c o s
  | .amoAnd d a b z c o => Sys2Proof.Machine.execAmoAnd d a b z c o s
  | .amoOr d a b z c o => Sys2Proof.Machine.execAmoOr d a b z c o s
  | .amoXor d a b z c o => Sys2Proof.Machine.execAmoXor d a b z c o s
  | .amoMin d a b z c o => Sys2Proof.Machine.execAmoMin d a b z c o s
  | .amoMax d a b z c o => Sys2Proof.Machine.execAmoMax d a b z c o s
  | .amoMinz d a b z c o => Sys2Proof.Machine.execAmoMinz d a b z c o s
  | .amoMaxz d a b z c o => Sys2Proof.Machine.execAmoMaxz d a b z c o s
  | .amoSwap d a b z c o => Sys2Proof.Machine.execAmoSwap d a b z c o s
  | .amoFadd d a b z c o => Sys2Proof.Machine.execAmoFadd d a b z c o s
  | .ordadd d a b z c o => Sys2Proof.Machine.execOrdadd d a b z c o s
  | .cas d a b z c o => Sys2Proof.Machine.execCas d a b z c o s
  | .fence c o => Sys2Proof.Machine.execFence c o s
  | .fencesc => Sys2Proof.Machine.execFencesc s
  | .waita d a b => Sys2Proof.Machine.execWaita d a b s
  | .vadd d a b t m => Sys2Proof.Machine.execVadd d a b t m s
  | .vsub d a b t m => Sys2Proof.Machine.execVsub d a b t m s
  | .vmul d a b t m => Sys2Proof.Machine.execVmul d a b t m s
  | .vmulh d a b t m => Sys2Proof.Machine.execVmulh d a b t m s
  | .vmin d a b t m => Sys2Proof.Machine.execVmin d a b t m s
  | .vmax d a b t m => Sys2Proof.Machine.execVmax d a b t m s
  | .vshl d a b t m => Sys2Proof.Machine.execVshl d a b t m s
  | .vshr d a b t m => Sys2Proof.Machine.execVshr d a b t m s
  | .vfadd d a b t m => Sys2Proof.Machine.execVfadd d a b t m s
  | .vfsub d a b t m => Sys2Proof.Machine.execVfsub d a b t m s
  | .vfmul d a b t m => Sys2Proof.Machine.execVfmul d a b t m s
  | .vfma d a b t m => Sys2Proof.Machine.execVfma d a b t m s
  | .vfmin d a b t m => Sys2Proof.Machine.execVfmin d a b t m s
  | .vfmax d a b t m => Sys2Proof.Machine.execVfmax d a b t m s
  | .vfdiv d a b t m => Sys2Proof.Machine.execVfdiv d a b t m s
  | .vfsqrt d a t m => Sys2Proof.Machine.execVfsqrt d a t m s
  | .vld d a t m => Sys2Proof.Machine.execVld d a t m s
  | .vst d a t m => Sys2Proof.Machine.execVst d a t m s
  | .vlds d a b t m => Sys2Proof.Machine.execVlds d a b t m s
  | .vsts d a b t m => Sys2Proof.Machine.execVsts d a b t m s
  | .vgath d a b t m => Sys2Proof.Machine.execVgath d a b t m s
  | .vscat d a b t m => Sys2Proof.Machine.execVscat d a b t m s
  | .vldt d a t m => Sys2Proof.Machine.execVldt d a t m s
  | .vstt d a t m => Sys2Proof.Machine.execVstt d a t m s
  | .vamo d a b o m => Sys2Proof.Machine.execVamo d a b o m s
  | .vcvt d a n t m => Sys2Proof.Machine.execVcvt d a n t m s
  | .vqmx d a n t => Sys2Proof.Machine.execVqmx d a n t s
  | .vdqmx d a n t m => Sys2Proof.Machine.execVdqmx d a n t m s
  | .vsexp d a n t => Sys2Proof.Machine.execVsexp d a n t s
  | .vlut d a k t m => Sys2Proof.Machine.execVlut d a k t m s
  | .venc d a k t => Sys2Proof.Machine.execVenc d a k t s
  | .vsfu d a f t m => Sys2Proof.Machine.execVsfu d a f t m s
  | .vred d a o t m => Sys2Proof.Machine.execVred d a o t m s
  | .vperm d a b t m => Sys2Proof.Machine.execVperm d a b t m s
  | .vbcast d a t m => Sys2Proof.Machine.execVbcast d a t m s
  | .vext d a b t => Sys2Proof.Machine.execVext d a b t s
  | .vins d a b t => Sys2Proof.Machine.execVins d a b t s
  | .vhash d a b t m => Sys2Proof.Machine.execVhash d a b t m s
  | .vpopc d a t m => Sys2Proof.Machine.execVpopc d a t m s
  | .vcmp d a b t m c => Sys2Proof.Machine.execVcmp d a b t m c s
  | .vand d a b m => Sys2Proof.Machine.execVand d a b m s
  | .vor d a b m => Sys2Proof.Machine.execVor d a b m s
  | .vxor d a b m => Sys2Proof.Machine.execVxor d a b m s
  | .vandn d a b m => Sys2Proof.Machine.execVandn d a b m s
  | .mand d a b => Sys2Proof.Machine.execMand d a b s
  | .mor d a b => Sys2Proof.Machine.execMor d a b s
  | .mxor d a b => Sys2Proof.Machine.execMxor d a b s
  | .mandn d a b => Sys2Proof.Machine.execMandn d a b s
  | .tis d a b n => Sys2Proof.Machine.execTis d a b n s
  | .twait m => Sys2Proof.Machine.execTwait m s
  | .tstat d => Sys2Proof.Machine.execTstat d s
  | .setlut a t => Sys2Proof.Machine.execSetlut a t s
  | .outWord a b => Sys2Proof.Machine.execOutWord a b s
  | .inWord d a => Sys2Proof.Machine.execInWord d a s
  | .outBlock d a b => Sys2Proof.Machine.execOutBlock d a b s
  | .inBlock d a b => Sys2Proof.Machine.execInBlock d a b s
  | .chnew d a b => Sys2Proof.Machine.execChnew d a b s
  | .chbind d a b => Sys2Proof.Machine.execChbind d a b s
  | .chfree a => Sys2Proof.Machine.execChfree a s
  | .chstat d a b => Sys2Proof.Machine.execChstat d a b s
  | .chsync d a => Sys2Proof.Machine.execChsync d a s
  | .tkt d a => Sys2Proof.Machine.execTkt d a s
  | .tktw a b => Sys2Proof.Machine.execTktw a b s
  | .alts a => Sys2Proof.Machine.execAlts a s
  | .altg a b => Sys2Proof.Machine.execAltg a b s
  | .altt a b => Sys2Proof.Machine.execAltt a b s
  | .altw d a => Sys2Proof.Machine.execAltw d a s
  | .altwF d a b => Sys2Proof.Machine.execAltwF d a b s
  | .claim d a b p => Sys2Proof.Machine.execClaim d a b p s
  | .claimNb d a b p => Sys2Proof.Machine.execClaimNb d a b p s
  | .commit d a b => Sys2Proof.Machine.execCommit d a b s
  | .await d a b p => Sys2Proof.Machine.execAwait d a b p s
  | .awaitNb d a b p => Sys2Proof.Machine.execAwaitNb d a b p s
  | .retire a b => Sys2Proof.Machine.execRetire a b s
  | .spawn d a b => Sys2Proof.Machine.execSpawn d a b s
  | .stop => Sys2Proof.Machine.execStop s
  | .yield => Sys2Proof.Machine.execYield s
  | .setpri a b => Sys2Proof.Machine.execSetpri a b s
  | .sleep a => Sys2Proof.Machine.execSleep a s
  | .time d => Sys2Proof.Machine.execTime d s
  | .migr a => Sys2Proof.Machine.execMigr a s
  | .migb => Sys2Proof.Machine.execMigb s
  | .qmapPush a n => Sys2Proof.Machine.execQmapPush a n s
  | .qmapPop a n => Sys2Proof.Machine.execQmapPop a n s
  | .qmapOff n => Sys2Proof.Machine.execQmapOff n s
  | .resume d a b => Sys2Proof.Machine.execResume d a b s
  | .peekc d a b => Sys2Proof.Machine.execPeekc d a b s
  | .pokec d a b => Sys2Proof.Machine.execPokec d a b s
  | .kill d a => Sys2Proof.Machine.execKill d a s
  | .trap n => Sys2Proof.Machine.execTrap n s
  | .step d => Sys2Proof.Machine.execStep d s
  | .stepn d => Sys2Proof.Machine.execStepn d s
  | .bari a b => Sys2Proof.Machine.execBari a b s
  | .bara d a => Sys2Proof.Machine.execBara d a s
  | .barx a b => Sys2Proof.Machine.execBarx a b s
  | .barw a b => Sys2Proof.Machine.execBarw a b s
  | .depdec d a => Sys2Proof.Machine.execDepdec d a s
  | .almrec a => Sys2Proof.Machine.execAlmrec a s
  | .almslot a b u => Sys2Proof.Machine.execAlmslot a b u s
  | .almgrd a => Sys2Proof.Machine.execAlmgrd a s
  | .almend d => Sys2Proof.Machine.execAlmend d s
  | .almplay d a b => Sys2Proof.Machine.execAlmplay d a b s
  | .alminv a => Sys2Proof.Machine.execAlminv a s
  | .almq d a => Sys2Proof.Machine.execAlmq d a s
  | .gets d n => Sys2Proof.Machine.execGets d n s
  | .sets a n => Sys2Proof.Machine.execSets a n s
  | .tlbinv d a r u => Sys2Proof.Machine.execTlbinv d a r u s
  | .keyset d a => Sys2Proof.Machine.execKeyset d a s
  | .keysetClr d => Sys2Proof.Machine.execKeysetClr d s
  | .cflush a r => Sys2Proof.Machine.execCflush a r s
  | .cinv a r => Sys2Proof.Machine.execCinv a r s
  | .nop => Sys2Proof.Machine.execNop s
  | .break => Sys2Proof.Machine.execBreak s
  | .unassignedEncoding word => Sys2Proof.Machine.execUnassignedEncoding word s
  | .fetchFault cause => Sys2Proof.Machine.execFetchFault cause s
  | .tnop c => Sys2Proof.Machine.execTnop c s
  | .tz c => Sys2Proof.Machine.execTz c s
  | .tmma c => Sys2Proof.Machine.execTmma c s
  | .tsmma c => Sys2Proof.Machine.execTsmma c s
  | .tldacc c => Sys2Proof.Machine.execTldacc c s
  | .tst c => Sys2Proof.Machine.execTst c s
  | .tew c => Sys2Proof.Machine.execTew c s
  | .tred c => Sys2Proof.Machine.execTred c s
  | .tmov c => Sys2Proof.Machine.execTmov c s
  | .cpl c => Sys2Proof.Machine.execCpl c s
  | .cp2d c => Sys2Proof.Machine.execCp2d c s
  | .cpg c => Sys2Proof.Machine.execCpg c s
  | .storePerform c n passOnly => Sys2Proof.Machine.execStorePerform c n passOnly s
  | .memoryReply k v err => Sys2Proof.Machine.execMemoryReply k v err s
  | .memoryWaitPark c => Sys2Proof.Machine.execMemoryWaitPark c s
  | .dispatch c => Sys2Proof.Machine.execDispatch c s
  | .preempt c => Sys2Proof.Machine.execPreempt c s
  | .sliceExpiry c => Sys2Proof.Machine.execSliceExpiry c s
  | .budgetExhausted c => Sys2Proof.Machine.execBudgetExhausted c s
  | .contextSpill c => Sys2Proof.Machine.execContextSpill c s
  | .contextFill c => Sys2Proof.Machine.execContextFill c s
  | .arrivalWrite c => Sys2Proof.Machine.execArrivalWrite c s
  | .migrationArrival n => Sys2Proof.Machine.execMigrationArrival n s
  | .accept n => Sys2Proof.Machine.execAccept n s
  | .refuse n => Sys2Proof.Machine.execRefuse n s
  | .space n => Sys2Proof.Machine.execSpace n s
  | .migrationResend k => Sys2Proof.Machine.execMigrationResend k s
  | .loadregRefresh cl => Sys2Proof.Machine.execLoadregRefresh cl s
  | .heartbeatTick p => Sys2Proof.Machine.execHeartbeatTick p s
  | .deadlineReached k => Sys2Proof.Machine.execDeadlineReached k s
  | .offer n => Sys2Proof.Machine.execOffer n s
  | .ack n => Sys2Proof.Machine.execAck n s
  | .blockTransferDone n => Sys2Proof.Machine.execBlockTransferDone n s
  | .withdraw n => Sys2Proof.Machine.execWithdraw n s
  | .bind n => Sys2Proof.Machine.execBind n s
  | .bindReply n => Sys2Proof.Machine.execBindReply n s
  | .commitMessage n => Sys2Proof.Machine.execCommitMessage n s
  | .returnMessage n => Sys2Proof.Machine.execReturnMessage n s
  | .desync n => Sys2Proof.Machine.execDesync n s
  | .chsyncArrival n => Sys2Proof.Machine.execChsyncArrival n s
  | .timeout k => Sys2Proof.Machine.execTimeout k s
  | .peerUnreachable e reason => Sys2Proof.Machine.execPeerUnreachable e reason s
  | .probeOriginate k => Sys2Proof.Machine.execProbeOriginate k s
  | .probe n => Sys2Proof.Machine.execProbe n s
  | .echo n => Sys2Proof.Machine.execEcho n s
  | .engagementExpiry k => Sys2Proof.Machine.execEngagementExpiry k s
  | .hangReport cl => Sys2Proof.Machine.execHangReport cl s
  | .trapRecord c => Sys2Proof.Machine.execTrapRecord c s
  | .translationWalk c dom va => Sys2Proof.Machine.execTranslationWalk c dom va s
  | .faultEntrySend p base n => Sys2Proof.Machine.execFaultEntrySend p base n s
  | .replayCheck c => Sys2Proof.Machine.execReplayCheck c s
  | .replayStream c => Sys2Proof.Machine.execReplayStream c s
  | .replayDrainEnd c => Sys2Proof.Machine.execReplayDrainEnd c s
  | .stepSeal p => Sys2Proof.Machine.execStepSeal p s
  | .arrive n => Sys2Proof.Machine.execArrive n s
  | .call n => Sys2Proof.Machine.execCall n s
  | .steplimExpiry p => Sys2Proof.Machine.execSteplimExpiry p s
  | .entryStream n => Sys2Proof.Machine.execEntryStream n s
  | .streamDone n => Sys2Proof.Machine.execStreamDone n s
  | .applied n => Sys2Proof.Machine.execApplied n s
  | .release n => Sys2Proof.Machine.execRelease n s
  | .launchWindowWrite p port q aligned img => Sys2Proof.Machine.execLaunchWindowWrite p port q aligned img s
  | .depdecWrite p port q v => Sys2Proof.Machine.execDepdecWrite p port q v s
  | .cancelWrite p port q v => Sys2Proof.Machine.execCancelWrite p port q v s
  | .qctlWrite p port q v => Sys2Proof.Machine.execQctlWrite p port q v s
  | .slotReport p base => Sys2Proof.Machine.execSlotReport p base s
  | .slotReportForward n => Sys2Proof.Machine.execSlotReportForward n s
  | .mirrorWrite p => Sys2Proof.Machine.execMirrorWrite p s
  | .mirrorAck n => Sys2Proof.Machine.execMirrorAck n s
  | .chunk n => Sys2Proof.Machine.execChunk n s
  | .chunkRefused n => Sys2Proof.Machine.execChunkRefused n s
  | .chunkReport n => Sys2Proof.Machine.execChunkReport n s
  | .chunkReportResend c n => Sys2Proof.Machine.execChunkReportResend c n s
  | .countIncrement n => Sys2Proof.Machine.execCountIncrement n s
  | .countDecrement n => Sys2Proof.Machine.execCountDecrement n s
  | .completionSend p => Sys2Proof.Machine.execCompletionSend p s
  | .masterFailover p => Sys2Proof.Machine.execMasterFailover p s
  | .jobCancel n => Sys2Proof.Machine.execJobCancel n s
  | .cancelAck n => Sys2Proof.Machine.execCancelAck n s
  | .drain n => Sys2Proof.Machine.execDrain n s
  | .drained n => Sys2Proof.Machine.execDrained n s
  | .semRead p who n => Sys2Proof.Machine.execSemRead p who n s
  | .semWrite p who n v => Sys2Proof.Machine.execSemWrite p who n v s
  | .cdomWrite c v => Sys2Proof.Machine.execCdomWrite c v s
  | .cdomClearDone c => Sys2Proof.Machine.execCdomClearDone c s
  | .windowWrite p die w v => Sys2Proof.Machine.execWindowWrite p die w v s
  | .descriptorWrite p dom n v => Sys2Proof.Machine.execDescriptorWrite p dom n v s
  | .hostEndpointWrite p j n v => Sys2Proof.Machine.execHostEndpointWrite p j n v s
  | .hostidxWrite p j v => Sys2Proof.Machine.execHostidxWrite p j v s
  | .pkgevtClear p v => Sys2Proof.Machine.execPkgevtClear p v s
  | .stepctlWrite p v => Sys2Proof.Machine.execStepctlWrite p v s
  | .stepovfWrite p v => Sys2Proof.Machine.execStepovfWrite p v s
  | .registerWrite p port off v => Sys2Proof.Machine.execRegisterWrite p port off v s
  | .attestation p port => Sys2Proof.Machine.execAttestation p port s
  | .attestationComplete p port => Sys2Proof.Machine.execAttestationComplete p port s
  | .configuration p port => Sys2Proof.Machine.execConfiguration p port s
  | .beginImage p port => Sys2Proof.Machine.execBeginImage p port s
  | .imageBlock p port => Sys2Proof.Machine.execImageBlock p port s
  | .endImage p port => Sys2Proof.Machine.execEndImage p port s
  | .imageVerifyComplete p => Sys2Proof.Machine.execImageVerifyComplete p s
  | .unknownCommand p port v => Sys2Proof.Machine.execUnknownCommand p port v s
  | .hostMemoryWrite p port loc n mode key v => Sys2Proof.Machine.execHostMemoryWrite p port loc n mode key v s
  | .hostMemoryRead p port loc n mode key => Sys2Proof.Machine.execHostMemoryRead p port loc n mode key s
  | .pcieLinkDown p port => Sys2Proof.Machine.execPcieLinkDown p port s
  | .packageReset p => Sys2Proof.Machine.execPackageReset p s
  | .bringupPhaseTimeout p unit => Sys2Proof.Machine.execBringupPhaseTimeout p unit s
  | .podFormation => Sys2Proof.Machine.execPodFormation s
  | .thermalThrottle cl temp => Sys2Proof.Machine.execThermalThrottle cl temp s
  | .thermalUnthrottle cl temp => Sys2Proof.Machine.execThermalUnthrottle cl temp s
  | .thermalTrip cl temp => Sys2Proof.Machine.execThermalTrip cl temp s
  | .linkCrcFail p link => Sys2Proof.Machine.execLinkCrcFail p link s
  | .delanFrame p link bad => Sys2Proof.Machine.execDelanFrame p link bad s
  | .linkRetrain p link => Sys2Proof.Machine.execLinkRetrain p link s
  | .retrainComplete p link ok us => Sys2Proof.Machine.execRetrainComplete p link ok us s
  | .packageUnreachable p => Sys2Proof.Machine.execPackageUnreachable p s
  | .correctedError p unit loc => Sys2Proof.Machine.execCorrectedError p unit loc s
  | .uncorrectableError p place => Sys2Proof.Machine.execUncorrectableError p place s
  | .patrolScrub p unit loc bad => Sys2Proof.Machine.execPatrolScrub p unit loc bad s
  | .dieFence p die reason => Sys2Proof.Machine.execDieFence p die reason s
  | .baseDieFence p base reason => Sys2Proof.Machine.execBaseDieFence p base reason s
  | .remoteOperation n => Sys2Proof.Machine.execRemoteOperation n s
  | .remoteOperationReply n => Sys2Proof.Machine.execRemoteOperationReply n s
  | .maintenanceComplete k => Sys2Proof.Machine.execMaintenanceComplete k s
  | .deviceLaunch n => Sys2Proof.Machine.execDeviceLaunch n s
  | .bringupPhaseComplete p unit ok => Sys2Proof.Machine.execBringupPhaseComplete p unit ok s
  | .windowClearDone p die => Sys2Proof.Machine.execWindowClearDone p die s
  | .pcieLinkUp p port => Sys2Proof.Machine.execPcieLinkUp p port s
  | .postedWriteFailure p port => Sys2Proof.Machine.execPostedWriteFailure p port s
  | .hbmRefreshPowerLoss p => Sys2Proof.Machine.execHbmRefreshPowerLoss p s

end Sys2Proof.Machine
end

