-- ==== Sys2Proof/Machine/Run.lean ====
section
/-! DEFINITION. How the machine moves on: the passing of cycles, the fetch (R111), an instruction boundary (R162, R163,
R241 to R243), the issue of one instruction, and the events that come about by themselves (log 4, log 8). -/

namespace Sys2Proof.Machine

/-! ## Cycles (log 8) -/

/-- One cycle charged to a process that holds the issue slot: USED, and the slice it was given, or the overrun, at levels 2
and 3 (R242, R243). -/
def Proc.charge (p : Proc) : Proc :=
  let q := { p with used := p.used + 1 }
  match p.slice with
  | none => q
  | some n =>
    if p.prio.toNat < 2 then q
    else if n = 0 then { q with overrun := p.overrun + 1 } else { q with slice := some (n - 1) }

/-- What a package does of itself when its time base reaches a value: the refresh of LOADREG (R40), slot reports (R326)
and the vigils (R262). -/
def State.onTime (s : State) (p : Nat) : State :=
  let t := (s.pkg p).time
  let s1 := if t % 64 = 0 then (fromTo (p * 128) 128).foldl (fun (u : State) cl => u.after (execLoadregRefresh cl u)) s else s
  let s2 := if t % 256 = 0 && 7 ≤ (s.pkg p).bringup then
      (upTo 4).foldl (fun (u : State) b => u.after (execSlotReport p b u)) s1
    else s1
  let cls := if t % 2 ^ 24 = 0 then fromTo (p * 128) 128 else (s.clusters.map (·.1)).filter fun cl => cl / 128 = p
  cls.foldl (fun (u : State) cl => u.after (execHangReport cl u)) s2

/-- One cycle of a package passes. -/
def State.advance (s : State) (p : Nat) : State := (s.modPkg p fun x => { x with time := x.time + 1 }).onTime p

/-- One cycle passes on every core of every package, and every running process is charged. -/
def State.idle (s : State) : State :=
  let run := s.live.filter fun k => (s.proc k).state = .running
  (s.pkgs.map (·.1)).foldl State.advance (run.foldl (fun (u : State) k => u.modProc k Proc.charge) s)

/-- Cycles pass. -/
def State.idles (s : State) : Nat → State
  | 0 => s
  | n + 1 => s.idle.idles n

/-! ## The boundary between two instructions -/

/-- The address at which a stopped command of a process misses its translation. -/
def State.missOf (s : State) (k : Slot) : Word :=
  let mine := fun (w : FaultWaiter) => w.slot = k && w.engine
  ((s.bases.flatMap fun b => b.2.faults.flatMap fun f => f.2.waiters.filter mine).head?.map FaultWaiter.va).getD 0

/-- What the running process of a core owes at its boundary before its next instruction: an engine error (R163), the
trap of a FENCE (R382), the park for an engine's fault (R162), its budget (R243), its slice (R242), a pre-emption (R241). -/
def State.boundary (s : State) (c : CoreId) : Option State :=
  let p := s.cur
  if !p.atBoundary then none
  else
    match p.engineErr, p.fenceErr, p.engineFault with
    | some e, _, _ => some (s.engineStop s.self e)
    | none, some e, _ => some (State.engineStop { s with cur := { p with fenceErr := none } } s.self e)
    | none, none, _ :: _ =>
      some (State.park { s with cur := { p with rowprog := p.faultRow, engineFault := [] } } 9
        (.fault (s.missOf s.self)) .fresh none)
    | none, none, [] =>
      if p.overBudget then some (s.after (execBudgetExhausted c s))
      else if p.sliceOver then some (s.after (execSliceExpiry c s))
      else if s.outranked c then some (s.after (execPreempt c s))
      else none

/-! ## The fetch (R111) -/

/-- What a fetch comes to: a word, a trap, or a wait. -/
inductive Fetched where
  | word (w : IWord) (s : State)
  | trap (cause : Nat)
  | wait (s : State)

/-- The instruction a word is: its decoding, or the trap of an unassigned encoding (R67). -/
def instrOf (w : IWord) : Instr :=
  match decodeWord w with
  | .ok i => i
  | .error _ => .unassignedEncoding w

/-- The fetch at the PC of the current process (R111): class 0x0 through Translate with execute access; a missing
translation parks with WAITK 9, a poisoned word traps MEMERR. -/
def State.fetch (s : State) : Fetched :=
  let pc := s.cur.pc
  if bits pc 63 52 ≠ 0 then .trap 0x05
  else
    match s.translate s.here s.cur.domain.toNat pc .exec with
    | (.trap cause _, _) => .trap cause
    | (.miss va level bad, t) =>
      .wait ((t.addFault t.here t.cur.domain.toNat va level bad false true
        { slot := t.self, pid := t.cur.pid, va := va, engine := false, copy := false }).park 9 (.fault va) .fresh none)
    | (.ok sp, t) =>
      match t.engFetch t.here sp 4 with
      | .ok bs u => if bs.any (·.2) then .trap 0x08 else .word (BitVec.ofNat 32 (leVal (bs.map (·.1)))) u
      | _ => .wait (s.hold .step .fresh)

/-! ## One issue -/

/-- The state after an outcome has been carried on; a fault or a refusal stays. -/
def thenDo (o : Out) (f : State → State) : Out :=
  match o with
  | .next s => .next (f s)
  | o => o

/-- An instruction is in progress for the current process. -/
def State.begin (s : State) (i : Instr) (w : IWord) : State := { s with cur := { s.cur with inflight := some (i, w) } }

/-- The current process is charged one cycle. -/
def State.charge (s : State) : State := { s with cur := s.cur.charge }

/-- An instruction runs in one cycle of its package. -/
def State.runs (s : State) (i : Instr) : Out := thenDo (exec i s.charge) fun t => t.advance (pkgOf s.here)

/-- The current process issues: the instruction in progress goes on, or the next one is fetched and decoded. -/
def State.issueSelf (s : State) : Out :=
  match s.cur.inflight with
  | some (i, _) => s.runs i
  | none =>
    match s.fetch with
    | .word w t => (t.begin (instrOf w) w).runs (instrOf w)
    | .trap cause => s.runs (.fetchFault cause)
    | .wait t => .next (t.charge.advance (pkgOf s.here))

/-- The pipeline of a core takes its turn. A core without a process to issue for lets a cycle of its package pass. -/
def State.issueOn (s : State) (c : CoreId) : Out :=
  match (s.core c).running with
  | none => .next (s.advance (pkgOf c))
  | some k =>
    let t := s.focus k
    if !t.coreUp c || t.cur.held.isSome then .next (t.charge.advance (pkgOf c))
    else
      match t.boundary c with
      | some u => .next u
      | none => t.issueSelf

/-! ## Events of the agenda -/

/-- Whether the machine has a package. -/
def State.hasPkg (s : State) (p : Nat) : Bool := decide (p < 512) && (s.pkg p).present

/-- Whether an instruction of the table is an event the agenda may name, and the units it names exist. The traps of the
fetch come about in a fetch only. -/
def Instr.named (s : State) : Instr → Bool
  | .tnop c | .tz c | .tmma c | .tsmma c | .tldacc c | .tst c | .tew c | .tred c | .tmov c | .cpl c
  | .cp2d c | .cpg c | .storePerform c _ _ | .memoryWaitPark c | .dispatch c | .preempt c | .sliceExpiry c
  | .budgetExhausted c | .contextSpill c | .contextFill c | .arrivalWrite c | .trapRecord c | .replayCheck c
  | .replayStream c | .replayDrainEnd c | .chunkReportResend c _ | .cdomWrite c _ | .cdomClearDone c => s.hasPkg (pkgOf c)
  | .memoryReply k _ _ | .migrationResend k | .deadlineReached k | .timeout k | .probeOriginate k
  | .engagementExpiry k | .maintenanceComplete k => s.hasPkg (pkgOf (coreOf k))
  | .migrationArrival _ | .accept _ | .refuse _ | .space _ | .offer _ | .ack _ | .blockTransferDone _
  | .withdraw _ | .bind _ | .bindReply _ | .commitMessage _ | .returnMessage _ | .desync _
  | .chsyncArrival _ | .probe _ | .echo _ | .arrive _ | .call _ | .entryStream _ | .streamDone _
  | .applied _ | .release _ | .slotReportForward _ | .mirrorAck _ | .chunk _ | .chunkRefused _
  | .chunkReport _ | .countIncrement _ | .countDecrement _ | .jobCancel _ | .cancelAck _ | .drain _
  | .drained _ | .podFormation | .remoteOperation _ | .remoteOperationReply _ | .deviceLaunch _ => true
  | .loadregRefresh cl | .hangReport cl | .thermalThrottle cl _ | .thermalUnthrottle cl _
  | .thermalTrip cl _ => s.hasPkg (cl / 128)
  | .heartbeatTick p | .stepSeal p | .steplimExpiry p | .mirrorWrite p | .completionSend p
  | .masterFailover p | .pkgevtClear p _ | .stepctlWrite p _ | .stepovfWrite p _ | .imageVerifyComplete p
  | .packageReset p | .bringupPhaseTimeout p _ | .linkCrcFail p _ | .delanFrame p _ _ | .linkRetrain p _
  | .retrainComplete p _ _ _ | .packageUnreachable p | .correctedError p _ _ | .uncorrectableError p _
  | .patrolScrub p _ _ _ | .bringupPhaseComplete p _ _ | .hbmRefreshPowerLoss p => s.hasPkg p
  | .peerUnreachable e _ => s.hasPkg (pkgOf (coreOfEp e))
  | .translationWalk c dom _ => s.hasPkg (pkgOf c) && decide (dom < 4096)
  | .faultEntrySend p base _ | .slotReport p base | .baseDieFence p base _ => s.hasPkg p && decide (base < 4)
  | .launchWindowWrite p port q _ _ | .depdecWrite p port q _ | .cancelWrite p port q _
  | .qctlWrite p port q _ => s.hasPkg p && decide (port < 2) && decide (q < 32768)
  | .semRead p _ i | .semWrite p _ i _ => s.hasPkg p && decide (i < 64)
  | .windowWrite p die w _ => s.hasPkg p && decide (die < 8) && decide (w < 16)
  | .descriptorWrite p dom _ _ => s.hasPkg p && decide (dom < 4096)
  | .hostEndpointWrite p j _ _ | .hostidxWrite p j _ => s.hasPkg p && decide (j < 1024)
  | .registerWrite p port _ _ | .attestation p port | .attestationComplete p port | .configuration p port
  | .beginImage p port | .imageBlock p port | .endImage p port | .unknownCommand p port _
  | .hostMemoryWrite p port _ _ _ _ _ | .hostMemoryRead p port _ _ _ _ | .pcieLinkDown p port
  | .pcieLinkUp p port | .postedWriteFailure p port => s.hasPkg p && decide (port < 2)
  | .dieFence p die _ | .windowClearDone p die => s.hasPkg p && decide (die < 8)
  | _ => false

/-- The fetch of a core's next instruction is late: the process is held there (R246, log 96). -/
def State.holdFetch (s : State) (c : CoreId) : State :=
  match (s.core c).running with
  | some k =>
    let t := s.focus k
    if t.coreUp c && t.cur.atBoundary && (t.boundary c).isNone then t.hold .memory t.cur.phase else s
  | none => s

/-- Whether an instruction waits for the reply of a home (R246). -/
def Instr.awaits : Instr → Bool
  | .ld _ _ _ _ _ | .ldt _ _ _ _ | .lda _ _ _ _ _ | .amoAdd _ _ _ _ _ _ | .amoAnd _ _ _ _ _ _ | .amoOr _ _ _ _ _ _
  | .amoXor _ _ _ _ _ _ | .amoMin _ _ _ _ _ _ | .amoMax _ _ _ _ _ _ | .amoMinz _ _ _ _ _ _ | .amoMaxz _ _ _ _ _ _
  | .amoSwap _ _ _ _ _ _ | .amoFadd _ _ _ _ _ _ | .cas _ _ _ _ _ _ | .waita _ _ _ | .vld _ _ _ _ | .vlds _ _ _ _ _
  | .vgath _ _ _ _ _ | .vldt _ _ _ _ | .vamo _ _ _ _ _ | .bari _ _ | .bara _ _ | .barx _ _ | .barw _ _ => true
  | _ => false

/-- The reply of the access that the current process of `t` has just made is late (R246, log 96): the access has been
performed, in its order (R174), and its process, as `s` had it, is held at the instruction. One that trapped, waits, or
moved a word of a queue port is not. -/
def State.replyLate (s t : State) : State :=
  let p := s.cur
  let q := t.cur
  let i := instrOf q.lastWord
  if q.atBoundary && Instr.awaits i && t.eps = s.eps then
    { t with
      late := t.late.put t.self q
      cur := { q with pc := p.pc, g := p.g, pred := p.pred, fmtctl := p.fmtctl, vext := p.vext, lastWord := p.lastWord,
                      inflight := some (i, q.lastWord), held := some (t.now t.here), wait := .memory,
                      phase := .after [] 0 5 } }
  else t

/-- A core issues an instruction whose reply is late. -/
def State.issueLate (s : State) (c : CoreId) : Out :=
  match (s.core c).running with
  | some k =>
    let t := s.focus k
    if t.coreUp c && t.cur.atBoundary && (t.boundary c).isNone then
      thenDo (s.issueOn c) fun u => if u.self = k && u.cur.pid = t.cur.pid then t.replyLate u else u
    else .next s
  | none => .next s

/-- The process of `t` stands at its SETLUT, which has loaded some granules ahead of the others: they are as in the table
that it leaves in `u`, where it makes all its loads at once. -/
def State.lutAhead (t u : State) (a : Reg) (n : BitVec 2) (gs : List Nat) : State :=
  let got := match t.cur.phase with
    | .after vals _ _ => vals
    | .fresh => [t.cur.reg a]
  let entry := fun (i : Nat) => (u.core t.here).lut.get (256 * n.toNat + i) 0
  let new := (gs.filter fun i => i < 128).map fun i => lutLoaded (entry (2 * i)) (entry (2 * i + 1)) i
  { t with cur := { t.cur with
      inflight := some (.setlut a n, u.cur.lastWord), phase := .after (got ++ new) 0 0 } }

/-- The SETLUT that a core issues next, or that is in progress there, makes some of its loads (R139; log 31). Any other
instruction issues. -/
def State.lutEarly (s : State) (c : CoreId) (gs : List Nat) : Out :=
  match (s.core c).running with
  | some k =>
    let t := s.focus k
    if t.coreUp c && t.cur.held.isNone && !(t.cur.atBoundary && (t.boundary c).isSome) then
      thenDo (s.issueOn c) fun u =>
        match instrOf u.cur.lastWord with
        | .setlut a n => if u.self = k && u.cur.atBoundary && u.eps = s.eps then t.lutAhead u a n gs else u
        | _ => u
    else .next s
  | none => .next s

/-- The command of a queue that may run goes one part on (R148, R185). -/
def State.partNext (s : State) (c : CoreId) (copy : Bool) (pick : Nat) : State :=
  if copy then
    match s.nextCopy c with
    | some q => s.partCmd c q pick (cpPlan c)
    | none => s
  else
    match s.nextTile c with
    | some q => s.partCmd c q pick (tilePlan c)
    | none => s

/-- One granule of the data a message carries lands ahead of the rest, the one that `pick` chooses (R185). -/
def State.landOne (s : State) (n pick : Nat) : State :=
  match s.msgs[n]? with
  | none => s
  | some m =>
    let put := fun (gs : List (Nat × List Byte × Bool)) (body : List (Nat × List Byte × Bool) → Body) =>
      match m.src, gs[pick % gs.length]? with
      | .core c, some g =>
        ({ s with msgs := setAt s.msgs n { m with body := body (dropAt gs (pick % gs.length)) } } : State).land c [g]
      | _, _ => s
    if !s.deliverable n then s
    else
      match m.body with
      | .block k pid len gs => put gs (.block k pid len)
      | .commit e t k gs ticket =>
        if (s.ep e).opens then put gs fun r => .commit e t k r ticket else s
      | _ => s

/-- A turn of the agenda. -/
def State.turn (s : State) : Turn → Out
  | .issue c => if s.hasPkg (pkgOf c) then s.issueOn c else .fault .noSuchUnit
  | .event i => if Instr.named s i then exec i s else .fault .noSuchUnit
  | .cycles n => .next (s.idles n)
  | .evict l => .next (s.writeBack l)
  | .wait c fetch =>
    if s.hasPkg (pkgOf c) then (if fetch then .next (s.holdFetch c) else s.issueLate c) else .fault .noSuchUnit
  | .part c copy pick => if s.hasPkg (pkgOf c) then .next (s.partNext c copy pick) else .fault .noSuchUnit
  | .lut c gs => if s.hasPkg (pkgOf c) then s.lutEarly c gs else .fault .noSuchUnit
  | .land n pick => .next (s.landOne n pick)
  | .keep b dom va => if s.hasPkg (b / 4) then .next (s.keepTables b dom va) else .fault .noSuchUnit
  | .host p port off n v => if s.hasPkg p && port < 2 then .next (s.hostAccess p port off n v) else .fault .noSuchUnit

/-! ## What comes about by itself (log 4) -/

/-- Something that may come about: the meaning of an event. -/
abbrev Move := State → Out

/-- The event that delivers the message at a position. -/
def Body.event (n : Nat) : Body → Move
  | .offer _ _ => execOffer n
  | .ack _ _ => execAck n
  | .block _ _ _ _ => execBlockTransferDone n
  | .withdraw _ _ _ => execWithdraw n
  | .bind _ _ _ _ => execBind n
  | .bindReply _ _ _ => execBindReply n
  | .commit _ _ _ _ _ => execCommitMessage n
  | .ret _ _ _ => execReturnMessage n
  | .desync _ _ => execDesync n
  | .chsync _ _ => execChsyncArrival n
  | .migrate _ _ => execMigrationArrival n
  | .accept _ _ _ => execAccept n
  | .refuse _ _ _ _ => execRefuse n
  | .space _ _ => execSpace n
  | .probe _ _ _ _ _ _ _ => execProbe n
  | .echo _ _ _ _ _ => execEcho n
  | .remote _ _ _ => execRemoteOperation n
  | .reply _ _ _ _ => execRemoteOperationReply n
  | .device _ _ _ _ _ => execDeviceLaunch n
  | .chunk _ _ _ _ => execChunk n
  | .chunkRefused _ _ _ _ => execChunkRefused n
  | .chunkReport _ _ _ => execChunkReport n
  | .increment _ _ _ _ _ _ => execCountIncrement n
  | .decrement _ _ _ => execCountDecrement n
  | .slots _ _ => execSlotReportForward n
  | .mirrorAck _ => execMirrorAck n
  | .cancel _ _ => execJobCancel n
  | .cancelAck _ _ => execCancelAck n
  | .drain _ => execDrain n
  | .drained _ _ => execDrained n
  | .arrive _ _ => execArrive n
  | .call _ => execCall n
  | .entries _ _ _ => execEntryStream n
  | .done _ _ => execStreamDone n
  | .applied _ _ => execApplied n
  | .release => execRelease n

/-- The event that runs an engine command. -/
def commandEvent (c : CoreId) (q : Cmd) : Move :=
  match cOp q.word with
  | 0 => execTnop c
  | 1 => execTz c
  | 2 => execTmma c
  | 3 => execTsmma c
  | 4 => execTldacc c
  | 5 => execTst c
  | 6 => execTew c
  | 7 => execTred c
  | 8 => execTmov c
  | 0x40 => execCpl c
  | 0x41 => execCp2d c
  | _ => execCpg c

/-- The events that may be due on a core. -/
def State.coreEvents (s : State) (c : CoreId) : List Move :=
  let x := s.core c
  (upTo x.storeQ.length).map (fun n => execStorePerform c n false) ++
    (s.nextTile c).toList.map (commandEvent c) ++ (s.nextCopy c).toList.map (commandEvent c) ++
    [execReplayCheck c, execReplayStream c, execReplayDrainEnd c, execTrapRecord c, execArrivalWrite c,
      execBudgetExhausted c, execSliceExpiry c, execPreempt c, execDispatch c, execContextSpill c, execContextFill c,
      execMemoryWaitPark c, execCdomClearDone c] ++
    (upTo x.unreported.length).map (execChunkReportResend c)

/-- The events that may be due for a process. -/
def slotEvents (k : Slot) : List Move :=
  [execDeadlineReached k, execTimeout k, execMigrationResend k, execMaintenanceComplete k,
    execEngagementExpiry k, execProbeOriginate k]

/-- The events that may be due in a package. -/
def State.pkgEvents (s : State) (p : Nat) : List Move :=
  [execHeartbeatTick p, execStepSeal p, execSteplimExpiry p, execMasterFailover p, execMirrorWrite p, execCompletionSend p,
    execTrapRecord (p * 2048 + 255)] ++
    (if (s.pkg p).bringup = 0 || (s.pkg p).bringup = 5 || 7 ≤ (s.pkg p).bringup then []
     else [execBringupPhaseComplete p 0 true]) ++
    ((s.pkg p).verifying.toList.map fun _ => execImageVerifyComplete p) ++ [execAttestationComplete p 0, execAttestationComplete p 1]

/-- The events that may be due at the walker of a base die. -/
def baseEvents (b : Nat) (x : Base) : List Move :=
  (x.faults.map fun f => execFaultEntrySend (b / 4) (b % 4) f.1) ++
    x.waiting.head?.toList.map fun w => execTranslationWalk (coreOf w.2.2.2.2.2.slot) w.1 w.2.2.2.2.2.va

/-- Whether a link of any package is down (R372). -/
def State.linksDown (s : State) : Bool := s.pkgs.any fun p => p.2.links.any fun l => l.2 = 2

/-- The events that may be due anywhere, in a fixed order. -/
def State.due (s : State) : List Move :=
  ((s.msgs.zip (upTo s.msgs.length)).map fun m => m.1.body.event m.2) ++
    s.cores.flatMap (fun c => s.coreEvents c.1) ++ s.live.flatMap slotEvents ++
    s.pkgs.flatMap (fun p => s.pkgEvents p.1) ++ s.bases.flatMap (fun b => baseEvents b.1 b.2) ++
    ((s.dies.filter fun e => e.2.clearing.isSome).map fun e => execWindowClearDone (e.1 / 8) (e.1 % 8)) ++
    ((s.eps.filter fun e => e.2.peer ≠ 0).flatMap fun e =>
      (if s.linksDown then [execPeerUnreachable e.1 1] else []) ++ [execPeerUnreachable e.1 2, execPeerUnreachable e.1 3]) ++
    [execPodFormation]

/-- The first event of a list that changes the machine comes about. -/
def State.firstEffect (s : State) : List Move → Option State
  | [] => none
  | f :: r =>
    match f s with
    | .next t => if t = s then s.firstEffect r else some t
    | _ => s.firstEffect r

/-- The cores whose running process can issue. -/
def State.issuing (s : State) : List CoreId :=
  (s.cores.filter fun c => match c.2.running with
    | some k => (s.proc k).held.isNone && s.coreUp c.1
    | none => false).map (·.1)

/-- The core that issues next: the first after the one that issued last, in a circle. -/
def State.nextCore (s : State) : Option CoreId :=
  match s.issuing.find? fun c => s.here < c with
  | some c => some c
  | none => s.issuing.head?

/-- What the machine does when nothing else is asked of it: what is due comes about at once; else the next core issues;
else a cycle passes. -/
def State.moves (s : State) : Out :=
  match s.firstEffect s.due with
  | some t => .next t
  | none =>
    match s.nextCore with
    | some c => s.issueOn c
    | none => .next s.idle

end Sys2Proof.Machine
end

