-- ==== Sys2Proof/Machine/Step.lean ====
section
/-! DEFINITION. The step of the machine, and the placing of an instruction where the next step fetches. -/

namespace Sys2Proof.Machine

/-- One step: the agenda's next turn, or what the machine does by itself (log 4). -/
def step (s : State) : Host.Outcome State Fault Refusal :=
  match s.agenda with
  | t :: r => State.turn { s with agenda := r } t
  | [] => s.moves

/-- The process a placed instruction runs in: full, of domain 0, with the supervisor right, as the package monitor
starts (R414). -/
def placedProc : Proc :=
  { Proc.empty with state := .running, supv := true, pid := 0x00000FF000000001, resident := true }

/-- The leaf that shows the first 64 KiB of HBM to domain 0 at virtual address 0, with W and X (R342). -/
def placedLeaf : Trans := { domain := 0, page := 0, level := 0, leaf := 0x3F, entryAt := 0 }

/-- `s` with the instruction word `w` at the PC of a running process on core 255 of package 0, everything its fetch
needs in place, and that core's issue as the next turn (the log of the loading of programs). -/
def State.withFetchWord (s : State) (nbits w : Nat) : State :=
  let key : Key := { material := 0, owner := 0 }
  let t : State := { s with
    self := monitorSlot, cur := placedProc, procs := s.procs.del monitorSlot
    mem := s.mem.write 0 (bytesOfWord (BitVec.ofNat 32 (w % 2 ^ nbits)))
    poison := natErase s.poison 0, dirty := s.dirty.del 0, seals := s.seals.del 0
    agenda := [.issue 255] }
  let u := t.modCore 255 fun x => { x with running := some monitorSlot, storeQ := [] }
  let v := u.modCluster 15 fun x => { x with tcache := placedLeaf :: x.tcache }
  v.modPkg 0 fun x => { x with
    present := true, member := true, bringup := 8, thermtrip := false, keys := x.keys.put 0 key
    monitorPid := some placedProc.pid }

end Sys2Proof.Machine
end

