-- ==== Sys2Proof/Safety.lean ====
section
/-! DEFINITION. Sys2Proof/Safety.lean: the terms the statements are made in: the invariant of the machine, when the checks
before an instruction pass, and what it means that nothing else changes. -/

namespace Sys2Proof.Machine

/-- The invariant every step keeps: the memory of the pod is in its canonical form, so that equal memories are equal
data. -/
def State.Inv (s : State) : Prop := s.mem.wf = true

/-- The current process with a vector extension, where the instruction's first use of the vector registers allocates one
(R28). -/
def State.extended (s : State) (sh : Shape) : State :=
  if sh.vec && s.cur.vext.isNone then
    match s.freeExt with
    | some i => { s with cur := { s.cur with vext := some (VExt.fresh i) } }
    | none => s
  else s

/-- The checks before an instruction pass, and it starts from its beginning: the light repertoire (R27), the place of an
ALT construction (R68, R299), the supervisor right (R68), a vector extension held or free (R28), and the queue ports
(R69), a push being a release at CORE scope (R183, R251). -/
def Ready (sh : Shape) (s : State) : Prop :=
  s.cur.phase = .fresh ∧
    (s.cur.light = true → sh.full = false ∧ ∀ r ∈ sh.named, r.toNat < 9) ∧
    (s.cur.inalt = true → sh.alt ≠ 0) ∧ (sh.alt = 2 → s.cur.inalt = true) ∧
    (sh.priv = true → s.cur.supv = true) ∧
    (sh.vec = true → s.cur.vext.isSome = true ∨ s.freeExt.isSome = true) ∧
    s.portCheck sh = .ready ∧ s.pushWaits sh = false

/-- The instruction goes on after a Park or a completed wait, with the operand values it read at its start, a value its
waker gave and the mark of it; a destination that is a push port has room, and the stores before the push have
passed the ordering point (R69, R73, R251). -/
def Resumed (sh : Shape) (s : State) (vals : List Word) (v : Word) (mark : Nat) : Prop :=
  s.cur.phase = .after vals v mark ∧ s.dstFull sh = none ∧ s.pushWaits sh = false

/-- No register field of an instruction names a mapped port (R69, R251). -/
def Unported (sh : Shape) (s : State) : Prop := ∀ r ∈ sh.named, s.cur.port r = none

/-- Everything but the current process is as before. -/
def OnlyCur (s t : State) : Prop := { t with cur := s.cur } = s

/-- The n-th source of an instruction: the register, or the word of the mapped port whose turn it is (R69). -/
def State.source (s : State) (sh : Shape) (n : Nat) : Word := op (s.sourceValues [] sh.srcs) n

/-! ## The checks before an instruction -/

/-- The register fields of every instruction word and the checks it is under: the repertoire of a light process (R27), the
vector extension (R28), the encodings of R53 to R66, the privileged ones (R68), the ALT members (R299). An event of the
opcode table has none. -/
def shapeOf : Instr → Option Shape
  | .add d a b | .sub d a b | .mul d a b | .mulh d a b | .mulhz d a b | .div d a b | .divz d a b | .rem d a b
  | .remz d a b | .andR d a b | .orR d a b | .xorR d a b | .andn d a b | .shl d a b | .shr d a b | .sar d a b
  | .rot d a b | .minS d a b | .maxS d a b | .minZ d a b | .maxZ d a b | .bfx d a b | .adda d a b | .tags d a b
  | .sel d a b _ => some { srcs := [a, b], dst := some d }
  | .bfi d a b => some { srcs := [a, b], dst := some d, dsrc := some d }
  | .clz d a | .ctz d a | .popc d a | .tagg d a | .sext d a _ | .zext d a _ | .addi d a _ | .andi d a _ | .ori d a _
  | .xori d a _ | .shli d a _ | .shri d a _ | .sari d a _ | .roti d a _ | .jalr d a =>
    some { srcs := [a], dst := some d }
  | .movz d _ _ => some { dst := some d }
  | .movk d _ _ => some { dst := some d, dsrc := some d }
  | .cmp _ a b _ => some { srcs := [a, b] }
  | .cmpi _ _ a _ => some { srcs := [a] }
  | .pand _ _ _ | .por _ _ _ | .pxor _ _ _ | .pandn _ _ _ | .pnor _ _ _ | .br _ _ _ | .j _ => some {}
  | .jal _ => some { full := true }
  | .fadd d a b _ | .fsub d a b _ | .fmul d a b _ | .fdiv d a b _ | .fmin d a b _ | .fmax d a b _ | .ldt d a b _ =>
    some { srcs := [a, b], dst := some d, full := true }
  | .fma d a b _ => some { srcs := [a, b], dst := some d, dsrc := some d, full := true }
  | .fcmp _ a b _ _ => some { srcs := [a, b], full := true }
  | .fsqrt d a _ | .fcvtToS64 d a _ | .fcvtToZ64 d a _ | .fcvtFromS64 d a _ | .fcvtFromZ64 d a _ | .fcvtFloat d a _ _
  | .fclass d a _ => some { srcs := [a], dst := some d, full := true }
  | .stt d a b _ => some { srcs := [a, b], dsrc := some d, full := true }
  | .ld d a _ _ _ | .lda d a _ _ _ => some { srcs := [a], dst := some d }
  | .st d a _ _ | .stl d a _ _ _ => some { srcs := [a, d] }
  | .amoAdd d a b _ _ _ | .amoAnd d a b _ _ _ | .amoOr d a b _ _ _ | .amoXor d a b _ _ _ | .amoMin d a b _ _ _
  | .amoMax d a b _ _ _ | .amoMinz d a b _ _ _ | .amoMaxz d a b _ _ _ | .amoSwap d a b _ _ _ | .amoFadd d a b _ _ _
  | .ordadd d a b _ _ _ => some { srcs := [a, b], dst := some d }
  | .cas d a b _ _ _ | .waita d a b => some { srcs := [a, b], dst := some d, dsrc := some d }
  | .fence _ _ | .fencesc => some {}
  | .vadd _ _ _ _ _ | .vsub _ _ _ _ _ | .vmul _ _ _ _ _ | .vmulh _ _ _ _ _ | .vmin _ _ _ _ _ | .vmax _ _ _ _ _
  | .vshl _ _ _ _ _ | .vshr _ _ _ _ _ | .vfadd _ _ _ _ _ | .vfsub _ _ _ _ _ | .vfmul _ _ _ _ _ | .vfma _ _ _ _ _
  | .vfmin _ _ _ _ _ | .vfmax _ _ _ _ _ | .vfdiv _ _ _ _ _ | .vfsqrt _ _ _ _ | .vcvt _ _ _ _ _ | .vqmx _ _ _ _
  | .vdqmx _ _ _ _ _ | .vsexp _ _ _ _ | .vlut _ _ _ _ _ | .venc _ _ _ _ | .vsfu _ _ _ _ _ | .vred _ _ _ _ _
  | .vperm _ _ _ _ _ | .vhash _ _ _ _ _ | .vpopc _ _ _ _ | .vcmp _ _ _ _ _ _ | .vand _ _ _ _ | .vor _ _ _ _
  | .vxor _ _ _ _ | .vandn _ _ _ _ => some { full := true, vec := true }
  | .vld _ a _ _ | .vst _ a _ _ | .vldt _ a _ _ | .vstt _ a _ _ | .vbcast _ a _ _ =>
    some { srcs := [a], full := true, vec := true }
  | .vgath _ a _ _ _ | .vscat _ a _ _ _ | .vamo _ a _ _ _ => some { srcs := [a], full := true, vec := true }
  | .vlds _ a b _ _ | .vsts _ a b _ _ | .vins _ a b _ => some { srcs := [a, b], full := true, vec := true }
  | .vext d _ b _ => some { srcs := [b], dst := some d, full := true, vec := true }
  | .mand d a b | .mor d a b | .mxor d a b | .mandn d a b => some { full := true, vec := d ≠ 0 || a ≠ 0 || b ≠ 0 }
  | .tis d a b _ => some { srcs := [a, b, d], full := true }
  | .twait _ => some { full := true }
  | .tstat d => some { dst := some d, full := true }
  | .setlut a _ => some { srcs := [a], full := true }
  | .outWord a b | .tktw a b | .retire a b | .setpri a b | .bari a b | .barx a b | .barw a b => some { srcs := [a, b] }
  | .inWord d a | .chsync d a | .tkt d a | .bara d a | .depdec d a => some { srcs := [a], dst := some d }
  | .outBlock d a b | .commit d a b => some { srcs := [a, b], dsrc := some d }
  | .inBlock d a b | .chnew d a b | .chbind d a b | .chstat d a b | .spawn d a b => some { srcs := [a, b], dst := some d }
  | .claim d a b _ | .claimNb d a b _ | .await d a b _ | .awaitNb d a b _ => some { srcs := [a, b], dst := some d }
  | .chfree a | .sleep a | .migr a => some { srcs := [a] }
  | .alts a => some { srcs := [a], alt := 1 }
  | .altg a b | .altt a b => some { srcs := [a, b], alt := 2 }
  | .altw d a => some { srcs := [a], dst := some d, alt := 2 }
  | .altwF d a b => some { srcs := [a, b], dst := some d, alt := 2 }
  | .stop | .yield | .migb | .trap _ | .nop | .break => some {}
  | .time d | .step d | .stepn d | .gets d _ => some { dst := some d }
  | .qmapPush _ _ | .qmapPop _ _ | .qmapOff _ => some { full := true }
  | .resume d a b | .peekc d a b => some { srcs := [a, b], dst := some d, full := true, priv := true }
  | .pokec d a b => some { srcs := [a, b], dsrc := some d, full := true, priv := true }
  | .kill d a => some { srcs := [a], dst := some d, full := true, priv := true }
  | .almrec a | .almgrd a | .alminv a => some { srcs := [a], full := true }
  | .almslot a b _ => some { srcs := [a, b], full := true }
  | .almend d => some { dst := some d, full := true }
  | .almplay d a b => some { srcs := [a, b], dst := some d, full := true }
  | .almq d a => some { srcs := [a], dst := some d, full := true }
  | .sets a n =>
    let supervisor := n.toNat = 4 || n.toNat = 0x100 || n.toNat = 0x101 || (0x110 ≤ n.toNat && n.toNat ≤ 0x112)
    some { srcs := [a], full := supervisor, priv := supervisor }
  | .tlbinv d a _ _ => some { srcs := [a, d], full := true, priv := true }
  | .keyset d a => some { srcs := [a], dsrc := some d, full := true, priv := true }
  | .keysetClr d => some { dsrc := some d, full := true, priv := true }
  | .cflush a _ | .cinv a _ => some { srcs := [a], full := true, priv := true }
  | .unassignedEncoding _ | .fetchFault _ | .tnop _ | .tz _ | .tmma _ | .tsmma _ | .tldacc _ | .tst _ | .tew _
  | .tred _ | .tmov _ | .cpl _ | .cp2d _ | .cpg _ | .storePerform _ _ _ | .memoryReply _ _ _ | .memoryWaitPark _
  | .dispatch _ | .preempt _ | .sliceExpiry _ | .budgetExhausted _ | .contextSpill _ | .contextFill _
  | .arrivalWrite _ | .migrationArrival _ | .accept _ | .refuse _ | .space _ | .migrationResend _
  | .loadregRefresh _ | .heartbeatTick _ | .deadlineReached _ | .offer _ | .ack _ | .blockTransferDone _
  | .withdraw _ | .bind _ | .bindReply _ | .commitMessage _ | .returnMessage _ | .desync _ | .chsyncArrival _
  | .timeout _ | .peerUnreachable _ _ | .probeOriginate _ | .probe _ | .echo _ | .engagementExpiry _ | .hangReport _
  | .trapRecord _ | .translationWalk _ _ _ | .faultEntrySend _ _ _ | .replayCheck _ | .replayStream _
  | .replayDrainEnd _ | .stepSeal _ | .arrive _ | .call _ | .steplimExpiry _ | .entryStream _ | .streamDone _
  | .applied _ | .release _ | .launchWindowWrite _ _ _ _ _ | .depdecWrite _ _ _ _ | .cancelWrite _ _ _ _
  | .qctlWrite _ _ _ _ | .slotReport _ _ | .slotReportForward _ | .mirrorWrite _ | .mirrorAck _ | .chunk _
  | .chunkRefused _ | .chunkReport _ | .chunkReportResend _ _ | .countIncrement _ | .countDecrement _
  | .completionSend _ | .masterFailover _ | .jobCancel _ | .cancelAck _ | .drain _ | .drained _ | .semRead _ _ _
  | .semWrite _ _ _ _ | .cdomWrite _ _ | .cdomClearDone _ | .windowWrite _ _ _ _ | .descriptorWrite _ _ _ _
  | .hostEndpointWrite _ _ _ _ | .hostidxWrite _ _ _ | .pkgevtClear _ _ | .stepctlWrite _ _ | .stepovfWrite _ _
  | .registerWrite _ _ _ _ | .attestation _ _ | .attestationComplete _ _ | .configuration _ _ | .beginImage _ _
  | .imageBlock _ _ | .endImage _ _ | .imageVerifyComplete _ | .unknownCommand _ _ _
  | .hostMemoryWrite _ _ _ _ _ _ _ | .hostMemoryRead _ _ _ _ _ _ | .pcieLinkDown _ _ | .packageReset _
  | .bringupPhaseTimeout _ _ | .podFormation | .thermalThrottle _ _ | .thermalUnthrottle _ _ | .thermalTrip _ _
  | .linkCrcFail _ _ | .delanFrame _ _ _ | .linkRetrain _ _ | .retrainComplete _ _ _ _ | .packageUnreachable _
  | .correctedError _ _ _ | .uncorrectableError _ _ | .patrolScrub _ _ _ _ | .dieFence _ _ _ | .baseDieFence _ _ _
  | .remoteOperation _ | .remoteOperationReply _ | .maintenanceComplete _ | .deviceLaunch _
  | .bringupPhaseComplete _ _ _ | .windowClearDone _ _ | .pcieLinkUp _ _ | .postedWriteFailure _ _
  | .hbmRefreshPowerLoss _ => none

/-- The instructions whose only effect is a value for a general register (R113, R115, R121, R304, R351). -/
def registerOnly : Instr → Bool
  | .add _ _ _ | .sub _ _ _ | .mul _ _ _ | .mulh _ _ _ | .mulhz _ _ _ | .div _ _ _ | .divz _ _ _ | .rem _ _ _
  | .remz _ _ _ | .andR _ _ _ | .orR _ _ _ | .xorR _ _ _ | .andn _ _ _ | .shl _ _ _ | .shr _ _ _ | .sar _ _ _
  | .rot _ _ _ | .minS _ _ _ | .maxS _ _ _ | .minZ _ _ _ | .maxZ _ _ _ | .clz _ _ | .ctz _ _ | .popc _ _
  | .sext _ _ _ | .zext _ _ _ | .bfx _ _ _ | .bfi _ _ _ | .sel _ _ _ _ | .adda _ _ _ | .tags _ _ _ | .tagg _ _
  | .addi _ _ _ | .andi _ _ _ | .ori _ _ _ | .xori _ _ _ | .shli _ _ _ | .shri _ _ _ | .sari _ _ _ | .roti _ _ _
  | .movz _ _ _ | .movk _ _ _ | .fclass _ _ _ | .time _ => true
  | _ => false

/-- The shape of an instruction of two sources and a destination. -/
def Shape.abd (d a b : Reg) : Shape := { srcs := [a, b], dst := some d }

/-- The shape of an instruction of one source and a destination. -/
def Shape.ad (d a : Reg) : Shape := { srcs := [a], dst := some d }

/-- A message is the oldest for its source, destination and class, and stands at a position of the messages in flight
(R73). -/
def Arrives (s : State) (n : Nat) (m : Msg) : Prop := s.msgs[n]? = some m ∧ s.deliverable n = true

/-! ## Accesses that succeed -/

/-- Every access of a list is located, in order, at its place (R214, R229). -/
def LocatesAll (k : AKind) (align : Nat) : State → List (Word × Nat) → List Acc → State → Prop
  | s, [], accs, t => accs = [] ∧ t = s
  | s, (ea, n) :: r, accs, t => ∃ sp u rest,
      s.locate ea n align k = (.ok sp, u) ∧ accs = { ea := ea, n := n, spot := sp } :: rest ∧
        LocatesAll k align u r rest t

/-- One located access is read without a wait: package memory from the process's own queued stores or from its home, a
STEP page through the package view, with the own queued stores in it where they hold all the bytes, an ATOMIC page at its
server (R173, R194, R195, R209); no granule of it is poisoned (R216). The data of a host port comes in a reply. -/
def Reads (s : State) (a : Acc) (bs : List Byte) (t : State) : Prop :=
  match a.spot with
  | .mem loc key =>
    (s.forward loc a.n = .whole bs ∧ t = s) ∨ (s.forward loc a.n = .clear ∧ s.coreRead s.here loc a.n key = (bs, false, t))
  | .step loc _ key =>
    (s.pkg (pkgOfLoc loc)).applying = false ∧ t = s.settleStep s.here loc ∧
      ((s.forward loc a.n = .clear ∧ t.viewAt (pkgOf s.here) loc a.n key = (bs, false)) ∨
        ((∃ w, s.forward loc a.n = .whole w) ∧ t.withOwnSteps.viewAt (pkgOf s.here) loc a.n key = (bs, false)))
  | .atomic loc key => s.readAt loc a.n (some key) = (bs, false, t)
  | .port _ _ _ => False

/-- Every located access of a list is read, in order. -/
def ReadsAll : State → List Acc → List (List Byte) → State → Prop
  | s, [], bs, t => bs = [] ∧ t = s
  | s, a :: r, bs, t => ∃ b u rest, Reads s a b u ∧ bs = b :: rest ∧ ReadsAll u r rest t

/-- Every granule of a list has, or is given, a step entry for the current process (R198). -/
def ReservesGranules (rule key : Nat) : State → List Nat → State → Prop
  | s, [], t => t = s
  | s, g :: r, t => ∃ x,
      (s.pkg (pkgOf s.here)).reserve g s.cur.rank.toNat (dieOfCore s.here) rule key s.cur.domain.toNat = some x ∧
        ReservesGranules rule key { s with pkgs := s.pkgs.put (pkgOf s.here) x } r t

/-- Every access of a store to a STEP page has its step entries (R198). -/
def ReservesAll : State → List Acc → State → Prop
  | s, [], t => t = s
  | s, a :: r, t => ∃ u,
      (match a.spot with
       | .step loc rule key => ReservesGranules rule key s (granules loc a.n) u
       | _ => u = s) ∧ ReservesAll u r t

/-- The writes of one access enter the store queue in order; where they are more than it has room for, those that come
first pass the ordering point as the others enter (R173). -/
def State.enqueueAll (s : State) (puts : List Put) (d : Desc) : State :=
  (puts.foldl (fun u x => u.enqueue x d) s).passOwn (s.queueLength + puts.length - 8)

/-- Located accesses of a store and their bytes enter the queue: there is room, every step entry is reserved, and the
bytes of one granule go into one entry (R171, R173, R198, R230). -/
def Puts (accs : List Acc) (bs : List (List Byte)) (d : Desc) (t v : State) : Prop :=
  let puts := putsOf (accs.zip bs)
  ∃ r, t.roomFor puts.length = true ∧ ReservesAll t accs r ∧ v = r.enqueueAll puts d

/-- Values of elements enter the store queue: every part located, lanes within a granule joined (R196, R229, R231). -/
def PutsElems (f : Nat) (vs : List (Elem × Nat)) (u v : State) : Prop :=
  ∃ accs t, LocatesAll .store 1 u (vs.flatMap fun x => parts x.1.addr x.1.nb) accs t ∧
    Puts accs (vs.flatMap fun x =>
      let bs := leBytes x.2 x.1.nb
      match parts x.1.addr x.1.nb with
      | (_, n) :: _ :: _ => [bs.take n, bs.drop n]
      | _ => [bs]) (elemDesc f ((vs.map fun x => x.1.nb).headD 1)) t v

/-- A drain of the current process is complete, and nothing it covers was lost with a fenced die (R178, R382). -/
def Drained (s : State) (d : Drain) : Prop := s.drained s.self d = true ∧ (d.covers = true → s.cur.lost = none)

/-- The barrier object at an address lies at `loc` and may be operated on: it is located, the drains are complete, and the
operation stands at its bank after the process's earlier stores; `bad` says that a granule of it is poisoned, and `u` is
the state then (R233, R235). -/
def BarrierAt (s : State) (ea : Word) (d : Drain) (rel : Prop) (loc : Nat) (bad : Bool) (u : State) : Prop :=
  ∃ t key bs, LocatesAll .bar 32 s [(ea, 32)] [{ ea := ea, n := 32, spot := .mem loc key }] t ∧ (rel → Drained t .package) ∧
    Drained t d ∧ (t.settle t.here (homesOf loc 16)).readAt loc 16 none = (bs, bad, u)

/-- The drain that a release at a scope makes first is complete (R179). -/
def Released (s : State) (scope : Nat) : Prop := (drainOf scope).covers = true → Drained s (drainOf scope)

/-- An atomic is performed at its home as one event: `old` is what it reads, and the state after it holds what it writes
(R180, R195, R209, R220). -/
def Performs (s : State) (sp : Spot) (n : Nat) (f : Rmw) (d : Desc) (x old : Nat) (u : State) : Prop :=
  match sp with
  | .mem loc key => ∃ bs t,
      (let h := s.settle s.here (homesOf loc n)
       (if kindOf loc = .hbm then h.writeBack (loc / 64) else h).readAt loc n key = (bs, false, t)) ∧ old = leVal bs ∧
      u = (match f old with | none => t | some v => t.writeAt none (some t.here) loc (leBytes v n) key)
  | .atomic loc key => ∃ bs t, s.readAt loc n (some key) = (bs, false, t) ∧ old = leVal bs ∧
      u = (match f old with | none => t | some v => t.writeAt none (some t.here) loc (leBytes v n) (some key))
  | .step loc rule key => ∃ bs t, (s.pkg (pkgOfLoc loc)).applying = false ∧
      ReservesGranules rule key (s.settleStep s.here loc) (granules loc n) t ∧
      t.viewAt (pkgOf s.here) loc n key = (bs, false) ∧ old = leVal bs ∧
      u = t.accept (pkgOf s.here) [(loc, leBytes x n)] d t.cur.rank.toNat (dieOfCore t.here) rule
        (t.pkg (pkgOf s.here)).openStep
  | .port _ _ _ => False

/-- The lanes of a VAMO are performed in order, each seeing what the lanes before it left (R230). -/
def PerformsAll (m : Amo) (f : Nat → Nat → Nat) (x : Nat → Nat) : State → List (Nat × Acc) → List Nat → State → Prop
  | s, [], olds, t => olds = [] ∧ t = s
  | s, (i, a) :: r, olds, t => ∃ old u rest,
      Performs s a.spot 8 (fun old => some (f old (x i))) (m.desc 8) (x i) old u ∧
      olds = old :: rest ∧ PerformsAll m f x u r rest t

/-- The members of AMO and what each leaves in memory, in n bytes (R220). -/
def amoTable : List ((Reg → Reg → Reg → BitVec 1 → BitVec 4 → BitVec 2 → Instr) × Amo × (Nat → Nat → Nat → Nat)) :=
  [(.amoAdd, .add, fun n old x => (old + x) % 2 ^ (8 * n)), (.amoAnd, .and, fun _ old x => old &&& x),
   (.amoOr, .or, fun _ old x => old ||| x), (.amoXor, .xor, fun _ old x => old ^^^ x),
   (.amoMin, .min, fun n old x => if signedOf (8 * n) old < signedOf (8 * n) x then old else x),
   (.amoMax, .max, fun n old x => if signedOf (8 * n) old < signedOf (8 * n) x then x else old),
   (.amoMinz, .minz, fun _ old x => min old x), (.amoMaxz, .maxz, fun _ old x => max old x),
   (.amoSwap, .swap, fun _ _ x => x),
   (.amoFadd, .fadd, fun n old x => (farith .add (if n = 4 then .fp32 else .fp64) .rne false old x 0).1)]

/-! ## Vector results -/

/-- What a masked instruction leaves (R128): an active lane of vd holds its result, an inactive one zero or its old value;
the flags are those of the active lanes together; the instruction ends at the next PC. -/
def MaskedResult (s : State) (sh : Shape) (d : VReg) (w : Nat) (m : BitVec 4) (r : Nat → Nat × FFlags) (t : State) : Prop :=
  let M := s.cur.mask (m.setWidth 3)
  ∃ v fl, t = s.doneVec sh d v fl ∧
    (∀ i, i < 512 / w → lane v w i =
      if M.getLsbD (w / 8 * i) = true then (r i).1 % 2 ^ w else if m.getLsbD 3 = true then 0 else lane (s.cur.vec d) w i) ∧
    ∀ j, j < 5 → (fl.getLsbD j = true ↔ ∃ i, i < 512 / w ∧ M.getLsbD (w / 8 * i) = true ∧ (r i).2.getLsbD j = true)

/-! ## Channel operations that go on -/

/-- The endpoint of a handle is homed on the issuing core, and the handle is good for the issuer's domain (R46, R285). -/
def OwnEp (s : State) (h : Word) : Prop :=
  coreOfEp (epOfHandle h) = s.here ∧ s.accepts h s.cur.domain = true

/-- The endpoint of a handle can be operated on: its entry is `x`, its peer is not lost and it is not in DESYNC (R285,
R375). -/
def Usable (s : State) (h : Word) (x : Endpoint) : Prop :=
  OwnEp s h ∧ s.ep (epOfHandle h) = x ∧ x.linkReason = none ∧ x.state ≠ 3

/-- The endpoint records the current process as the last that operated on it (R260). -/
def State.operated (s : State) (e : EpId) : State := s.modEp e fun y => { y with lastOp := some (s.self, s.cur.pid) }

/-- A pointer names offset `o` of the own scratchpad, aligned, with `n` bytes below the context area (R288, R297, R298). -/
def InOwnPad (s : State) (a : Word) (align n o : Nat) : Prop :=
  ownOffset s.here a = some o ∧ o % align = 0 ∧ o + n ≤ ctxBase (s.core s.here)

/-! ## Engine commands -/

/-- `n` restart units of a command from unit `i` on run in order, each ending with its memory writes (R162). -/
def RunsUnits (c : CoreId) (q : Cmd) (f : Units) : Nat → Nat → State → State → Prop
  | 0, _, s, t => t = s
  | n + 1, i, s, t => ∃ ws u, f i s = .ok ws u ∧ RunsUnits c q f n (i + 1) (u.engPutAll c q ws) t

/-- The code of element `k` of a packed row of bytes (R86). -/
def packedCode (w : Nat) (row : List (Byte × Bool)) (k : Nat) : Nat := leVal (row.map (·.1)) / 2 ^ (w * k) % 2 ^ w

/-- A byte that element `k` of a packed row holds a bit in is poisoned (R154). -/
def PackedBad (w : Nat) (row : List (Byte × Bool)) (k : Nat) : Prop :=
  ∃ i, i < row.length ∧ w * k < 8 * (i + 1) ∧ 8 * i < w * (k + 1) ∧ (row.getD i (0, false)).2 = true

/-! ## The results of the spec's tables, in its own formulas -/

/-- The ALU members of two sources and their results modulo 2^64 (R113). -/
def aluTable : List ((Reg → Reg → Reg → Instr) × (Word → Word → Word)) :=
  [(.add, fun x y => BitVec.ofNat 64 (x.toNat + y.toNat)),
   (.sub, fun x y => BitVec.ofInt 64 ((x.toNat : Int) - y.toNat)),
   (.mul, fun x y => BitVec.ofNat 64 (x.toNat * y.toNat)),
   (.mulh, fun x y => BitVec.ofInt 64 (x.toInt * y.toInt / 2 ^ 64)),
   (.mulhz, fun x y => BitVec.ofNat 64 (x.toNat * y.toNat / 2 ^ 64)),
   (.div, fun x y =>
     if y.toNat = 0 then BitVec.ofNat 64 (2 ^ 64 - 1)
     else if x.toNat = 2 ^ 63 ∧ y.toNat = 2 ^ 64 - 1 then BitVec.ofNat 64 (2 ^ 63)
     else BitVec.ofInt 64 (x.toInt.tdiv y.toInt)),
   (.divz, fun x y => if y.toNat = 0 then BitVec.ofNat 64 (2 ^ 64 - 1) else BitVec.ofNat 64 (x.toNat / y.toNat)),
   (.rem, fun x y =>
     if y.toNat = 0 then x
     else if x.toNat = 2 ^ 63 ∧ y.toNat = 2 ^ 64 - 1 then 0
     else BitVec.ofInt 64 (x.toInt - y.toInt * x.toInt.tdiv y.toInt)),
   (.remz, fun x y => if y.toNat = 0 then x else BitVec.ofNat 64 (x.toNat % y.toNat)),
   (.andR, fun x y => x &&& y), (.orR, fun x y => x ||| y), (.xorR, fun x y => x ^^^ y),
   (.andn, fun x y => x &&& ~~~y),
   (.shl, fun x y => BitVec.ofNat 64 (x.toNat * 2 ^ (y.toNat % 64))),
   (.shr, fun x y => BitVec.ofNat 64 (x.toNat / 2 ^ (y.toNat % 64))),
   (.sar, fun x y => BitVec.ofInt 64 (x.toInt / 2 ^ (y.toNat % 64))),
   (.rot, fun x y =>
     let n := y.toNat % 64
     if n = 0 then x else BitVec.ofNat 64 (x.toNat * 2 ^ n + x.toNat / 2 ^ (64 - n))),
   (.minS, fun x y => if x.toInt ≤ y.toInt then x else y), (.maxS, fun x y => if x.toInt ≤ y.toInt then y else x),
   (.minZ, fun x y => if x.toNat ≤ y.toNat then x else y), (.maxZ, fun x y => if x.toNat ≤ y.toNat then y else x),
   (.bfx, fun x y => BitVec.ofNat 64 (x.toNat / 2 ^ (y.toNat % 64) % 2 ^ min (y.toNat / 256 % 128) 64)),
   (.adda, fun x y => BitVec.ofNat 64 (x.toNat / 2 ^ 56 * 2 ^ 56 + (x.toNat % 2 ^ 56 + y.toNat) % 2 ^ 56)),
   (.tags, fun x y => BitVec.ofNat 64 (y.toNat % 256 * 2 ^ 56 + x.toNat % 2 ^ 56))]

/-- The VINT members and the results of their lanes, modulo 2^w (R131). -/
def vintTable : List ((VReg → VReg → VReg → BitVec 4 → BitVec 4 → Instr) × (Bool → Nat → Nat → Nat → Int)) :=
  [(.vadd, fun _ _ x y => (x : Int) + y), (.vsub, fun _ _ x y => (x : Int) - y), (.vmul, fun _ _ x y => (x : Int) * y),
   (.vmulh, fun sg w x y =>
     if sg = true then signedOf w x * signedOf w y / ((2 ^ w : Nat) : Int) else (x : Int) * y / ((2 ^ w : Nat) : Int)),
   (.vmin, fun sg w x y =>
     if sg = true then (if signedOf w x ≤ signedOf w y then x else y) else (if x ≤ y then x else y)),
   (.vmax, fun sg w x y =>
     if sg = true then (if signedOf w x ≤ signedOf w y then y else x) else (if x ≤ y then y else x)),
   (.vshl, fun _ w x y => (x : Int) * ((2 ^ (y % w) : Nat) : Int)),
   (.vshr, fun sg w x y =>
     if sg = true then signedOf w x / ((2 ^ (y % w) : Nat) : Int) else (x : Int) / ((2 ^ (y % w) : Nat) : Int))]

end Sys2Proof.Machine
end

