-- ==== Sys2Proof/Certificates/Slice0/Obligations.lean ====
section
/-! DEFINITION. Sys2Proof/Certificates/Slice0/Obligations.lean: the statements for the provers. Each says what one shared
operation, one family of instructions or events, or one step does, for every state and operand that meets its
hypotheses; the next state of a completed instruction is stated in the model's own named operations. -/

open Sys2Proof Sys2Proof.Machine

/-- The checks before an instruction, in the order of R68: a light process outside its repertoire traps ILLOP 0x1 (R27), an
ALT breach traps ILLOP 0x5, a privileged encoding in user mode traps PRIV, a vector access without a free extension slot
traps PROT 0x2 and leaves the process as it was (R28). -/
def Obligations.ChecksInOrder : Prop :=
  ∀ (i : Instr) (sh : Shape) (s : State), shapeOf i = some sh → s.cur.phase = .fresh →
    let lightBreach := s.cur.light = true ∧ (sh.full = true ∨ ∃ r ∈ sh.named, 9 ≤ r.toNat)
    let altBreach := (sh.alt = 0 ∧ s.cur.inalt = true) ∨ (sh.alt = 2 ∧ s.cur.inalt = false)
    let privBreach := sh.priv = true ∧ s.cur.supv = false
    (lightBreach → exec i s = .next (s.trap 0x01 [1])) ∧
    (¬lightBreach → altBreach → exec i s = .next (s.trap 0x01 [5])) ∧
    (¬lightBreach → ¬altBreach → privBreach → exec i s = .next (s.trap 0x02 [])) ∧
    (¬lightBreach → ¬altBreach → ¬privBreach → sh.vec = true → s.cur.vext = none → s.freeExt = none →
      exec i s = .next (s.trap 0x05 [2]))

/-- Queue ports (R69, R108, R251): a source field reads only a pop port and a destination field only a push port, else
ILLOP 0x2; with too few words that no instruction in progress has taken, behind another process, or with no room the
process parks with WAITK 1 and looks again (R253, R258); a push waits until the stores
before it have passed the ordering point; else every pop and the push happen together, and of two source fields that name one port field a receives the older word. -/
def Obligations.QueuePorts : Prop :=
  ∀ (i : Instr) (sh : Shape) (d a : Reg) (imm : BitVec 16) (s : State),
    let port := s.cur.port
    let fifo := fun (k : Nat) => (s.ep (s.fifoEp s.cur k)).fifo
    let bound := fun (k : Nat) => s.ep (s.cur.qeps.get k 0)
    let right := (∀ r ∈ sh.srcs, ∀ k, port r = some k → s.cur.qdir.getLsbD k = false) ∧
      (∀ r ∈ sh.dst, ∀ k, port r = some k → s.cur.qdir.getLsbD k = true) ∧ ∀ r ∈ sh.dsrc, port r = none
    let sound := ∀ r ∈ sh.srcs ++ sh.dst.toList, ∀ k, port r = some k → (bound k).linkReason = none ∧ (bound k).state ≠ 3
    let short := (∃ r ∈ sh.srcs, ∃ k, port r = some k ∧ (s.behind (s.ep (s.fifoEp s.cur k)) = true ∨
        (s.ep (s.fifoEp s.cur k)).free.length < sh.srcs.countP fun q => port q = some k)) ∨
      ∃ r ∈ sh.dst, ∃ k, port r = some k ∧ ((bound k).state ≠ 2 ∨ 16 ≤ (fifo k).length)
    (shapeOf i = some sh → s.cur.phase = .fresh → s.cur.light = false → s.cur.inalt = false → sh.alt ≤ 1 → sh.vec = false →
      (sh.priv = true → s.cur.supv = true) →
      (¬right → exec i s = .next (s.trap 0x01 [2])) ∧
      (right → sound → short → ∃ r ∈ sh.srcs ++ sh.dst.toList, ∃ k, port r = some k ∧
        exec i s = .next ((s.operatedBy s.self (s.cur.qeps.get k 0)).parkEp 1 (s.cur.qeps.get k 0) .fresh none)) ∧
      (right → sound → ¬short → (∃ r ∈ sh.dst, port r ≠ none) → s.drained s.self .corePoint = false →
        exec i s = .next (s.hold (.drain .corePoint) .fresh))) ∧
    (Ready (Shape.abd d a a) s → ∀ k x y r, port a = some k → port d = none → d ≠ 0 → fifo k = x :: y :: r →
      ∃ u : State, exec (.sub d a a) s = .next u ∧ u.cur.reg d = x - y ∧ (u.ep (s.fifoEp s.cur k)).fifo = r) ∧
    (Ready (Shape.ad d a) s → ∀ k, port a = none → port d = some k →
      ∃ u : State, exec (.addi d a imm) s = .next u ∧ u.cur.g = s.cur.g ∧
        (u.ep (s.fifoEp s.cur k)).fifo = fifo k ++ [s.cur.reg a + imm.signExtend 64])

/-- The results of the ALU members (R113), with mask and field of BFX and BFI; an instruction whose checks pass ends with
the result in its destination. Immediates and moves (R115), with imm16 sign- or zero-extended as the table has it. -/
def Obligations.AluResults : Prop :=
  ((∀ p ∈ aluTable, ∀ (d a b : Reg) (s : State), Ready (.abd d a b) s →
    exec (p.1 d a b) s =
      .next (s.doneWith (.abd d a b) (p.2 (s.source (.abd d a b) 0) (s.source (.abd d a b) 1)))) ∧
  (∀ (d a b : Reg) (p : PReg) (s : State), Ready (.abd d a b) s →
    exec (.sel d a b p) s =
      .next (s.doneWith (.abd d a b) (s.source (.abd d a b) (if s.cur.predicate p = true then 0 else 1)))) ∧
  (∀ (d a b : Reg) (s : State), Ready { srcs := [a, b], dst := some d, dsrc := some d } s →
    let sh : Shape := { srcs := [a, b], dst := some d, dsrc := some d }
    let x := s.source sh 0
    let y := s.source sh 1
    let lo := y.toNat % 64
    let w := min (y.toNat / 256 % 128) 64
    let mask : Word := BitVec.ofNat 64 ((2 ^ w - 1) * 2 ^ lo)
    exec (.bfi d a b) s =
      .next (s.doneWith sh ((s.cur.reg d &&& ~~~mask) ||| (BitVec.ofNat 64 (x.toNat * 2 ^ lo) &&& mask)))) ∧
  (∀ (d a : Reg) (s : State), Ready (.ad d a) s →
    let x := (s.source (.ad d a) 0).toNat
    (∃ n ≤ 64, exec (.clz d a) s = .next (s.doneWith (.ad d a) (BitVec.ofNat 64 n)) ∧ x < 2 ^ (64 - n) ∧
      (n < 64 → 2 ^ (63 - n) ≤ x)) ∧
    (∃ n ≤ 64, exec (.ctz d a) s = .next (s.doneWith (.ad d a) (BitVec.ofNat 64 n)) ∧ x % 2 ^ n = 0 ∧
      (n < 64 → x / 2 ^ n % 2 = 1)) ∧
    exec (.popc d a) s = .next (s.doneWith (.ad d a)
      (BitVec.ofNat 64 ((List.range 64).countP fun i => (s.source (.ad d a) 0).getLsbD i))) ∧
    exec (.tagg d a) s = .next (s.doneWith (.ad d a) (BitVec.ofNat 64 (x / 2 ^ 56))) ∧
    ∀ f : BitVec 2, f ≠ 3 → ∀ w, (f, w) ∈ [((0 : BitVec 2), 8), (1, 16), (2, 32)] →
      exec (.sext d a f) s = .next (s.doneWith (.ad d a) (BitVec.ofInt 64 (signedOf w x))) ∧
      exec (.zext d a f) s = .next (s.doneWith (.ad d a) (BitVec.ofNat 64 (x % 2 ^ w))))) ∧
  (∀ (d a : Reg) (i : BitVec 16) (n : BitVec 6) (h : BitVec 2) (s : State),
    (Ready (.ad d a) s →
      let x := s.source (.ad d a) 0
      let result := fun (v : Word) => Host.Outcome.next (s.doneWith (.ad d a) v)
      exec (.addi d a i) s = result (BitVec.ofInt 64 ((x.toNat : Int) + signedOf 16 i.toNat)) ∧
      exec (.andi d a i) s = result (x &&& BitVec.ofNat 64 i.toNat) ∧
      exec (.ori d a i) s = result (x ||| BitVec.ofNat 64 i.toNat) ∧
      exec (.xori d a i) s = result (x ^^^ BitVec.ofNat 64 i.toNat) ∧
      exec (.shli d a n) s = result (BitVec.ofNat 64 (x.toNat * 2 ^ n.toNat)) ∧
      exec (.shri d a n) s = result (BitVec.ofNat 64 (x.toNat / 2 ^ n.toNat)) ∧
      exec (.sari d a n) s = result (BitVec.ofInt 64 (x.toInt / 2 ^ n.toNat)) ∧
      exec (.roti d a n) s = result (if n.toNat = 0 then x
        else BitVec.ofNat 64 (x.toNat * 2 ^ n.toNat + x.toNat / 2 ^ (64 - n.toNat)))) ∧
    (Ready { dst := some d } s →
      exec (.movz d h i) s = .next (s.doneWith { dst := some d } (BitVec.ofNat 64 (i.toNat * 2 ^ (16 * h.toNat))))) ∧
    (Ready { dst := some d, dsrc := some d } s →
      let old := (s.cur.reg d).toNat
      let low := old % 2 ^ (16 * h.toNat)
      exec (.movk d h i) s = .next (s.doneWith { dst := some d, dsrc := some d }
        (BitVec.ofNat 64 (old / 2 ^ (16 * h.toNat + 16) * 2 ^ (16 * h.toNat + 16) + i.toNat * 2 ^ (16 * h.toNat) + low)))))

/-- CMP, CMPI and PLOG (R116, R117): the predicate written, p0 reading 1. -/
def Obligations.ComparesAndPredicates : Prop :=
  ∀ (d p q : PReg) (a b : Reg) (k : BitVec 3) (i : BitVec 15) (s : State),
    (Ready { srcs := [a, b] } s →
      let x := s.source { srcs := [a, b] } 0
      let y := s.source { srcs := [a, b] } 1
      ∀ c r, (c, r) ∈ [((0 : BitVec 4), decide (x = y)), (1, !decide (x = y)), (2, decide (x.toInt < y.toInt)),
          (3, !decide (x.toInt < y.toInt)), (4, decide (x.toNat < y.toNat)), (5, !decide (x.toNat < y.toNat)),
          (6, decide (x.toInt ≤ y.toInt)), (7, !decide (x.toInt ≤ y.toInt)), (8, decide (x.toNat ≤ y.toNat)),
          (9, !decide (x.toNat ≤ y.toNat)), (10, !decide (x &&& y = 0))] →
        exec (.cmp d a b c) s = .next (s.doneWithPred { srcs := [a, b] } d r)) ∧
    (Ready { srcs := [a] } s →
      let x := s.source { srcs := [a] } 0
      let y : Word := BitVec.ofInt 64 (signedOf 15 i.toNat)
      ∀ r, (k, r) ∈ [((0 : BitVec 3), decide (x = y)), (1, !decide (x = y)), (2, decide (x.toInt < y.toInt)),
          (3, !decide (x.toInt < y.toInt)), (4, decide (x.toNat < y.toNat)), (5, !decide (x.toNat < y.toNat)),
          (6, decide (x.toInt ≤ y.toInt)), (7, !decide (x.toInt ≤ y.toInt))] →
        exec (.cmpi d k a i) s = .next (s.doneWithPred { srcs := [a] } d r)) ∧
    (Ready {} s →
      let x := s.cur.predicate p
      let y := s.cur.predicate q
      exec (.pand d p q) s = .next (s.doneWithPred {} d (x && y)) ∧
      exec (.por d p q) s = .next (s.doneWithPred {} d (x || y)) ∧
      exec (.pxor d p q) s = .next (s.doneWithPred {} d (xor x y)) ∧
      exec (.pandn d p q) s = .next (s.doneWithPred {} d (x && !y)) ∧
      exec (.pnor d p q) s = .next (s.doneWithPred {} d (!(x || y))))

/-- BR, J, JAL and JALR (R53, R111, R118): where the PC goes, modulo 2^56; the link; the target read before the link is
written; the MISALIGN trap. -/
def Obligations.ControlTransfers : Prop :=
  ∀ (s : State) (p : PReg) (neg : BitVec 1) (b : BitVec 22) (disp : BitVec 26) (d a : Reg),
    let target := fun (x : Int) => BitVec.ofInt 64 (((s.cur.pc.toNat : Int) + 4 * x) % 2 ^ 56)
    let link : Word := BitVec.ofNat 64 ((s.cur.pc.toNat % 2 ^ 56 + 4) % 2 ^ 56)
    (Ready {} s →
      (exec (.br p neg b) s =
        if (s.cur.predicate p = true) = (neg = 0) then .next (s.finishAt (target (signedOf 22 b.toNat)))
        else .next (s.finishAt link)) ∧
      exec (.j disp) s = .next (s.finishAt (target (signedOf 26 disp.toNat)))) ∧
    (Ready { full := true } s →
      exec (.jal disp) s =
        .next (State.finishAt { s with cur := s.cur.setReg 31 link } (target (signedOf 26 disp.toNat)))) ∧
    (Ready (.ad d a) s →
      let t := s.source (.ad d a) 0
      exec (.jalr d a) s =
        if t.toNat % 4 = 0 then
          .next (((s.takePorts [a]).putDst d link).finishAt (BitVec.ofNat 64 (t.toNat % 2 ^ 56)))
        else .next (s.trap 0x03 [t]))

/-- Rounding a value its format holds gives its own code and sets no flag (R84, R88, R94), in every format and mode. -/
def Obligations.ExactRounding : Prop :=
  ∀ (F : FFmt) (rm : Rm) (sat : Bool) (c : Nat), c < 2 ^ F.width → (F.decode c).isNaN = false →
    (F.decode c).isInf = false → round F rm sat (F.decode c) = (c, .none)

/-- The scalar floating-point instructions (R119 to R122): the result of type F zero-extended, the flags ORed into
FMTCTL[12:8], the mode of FMTCTL[1:0], the low bits of each operand alone. The NaN result, the sign and the flags of the arithmetic members (R89, R92, R119): the first NaN among the operands,
quiet; the default NaN with NV for an invalid operation; DZ for a finite nonzero value divided by zero. -/
def Obligations.FloatingPoint : Prop :=
  (∀ (d a b : Reg) (p : PReg) (t g c : BitVec 2) (s : State),
    let F := FFmt.ofType t.toNat
    let G := FFmt.ofType g.toNat
    let rm := Rm.ofCode (s.cur.fmtctl.toNat % 4)
    let two : Shape := { srcs := [a, b], dst := some d, full := true }
    let three : Shape := { srcs := [a, b], dst := some d, dsrc := some d, full := true }
    let one : Shape := { srcs := [a], dst := some d, full := true }
    let flagged := fun (fl : FFlags) =>
      ({ s with cur := { s.cur with fmtctl := s.cur.fmtctl ||| BitVec.ofNat 64 (fl.toNat * 2 ^ 8) } } : State)
    let ends := fun (sh : Shape) (r : Nat × FFlags) =>
      (Host.Outcome.next ((flagged r.2).doneWith sh (BitVec.ofNat 64 r.1)) : Out)
    let code := fun (H : FFmt) (v : Word) => v.toNat % 2 ^ H.width
    (Ready two s →
      let x := code F (s.source two 0)
      let y := code F (s.source two 1)
      exec (.fadd d a b t) s = ends two (farith .add F rm false x y 0) ∧
      exec (.fsub d a b t) s = ends two (farith .sub F rm false x y 0) ∧
      exec (.fmul d a b t) s = ends two (farith .mul F rm false x y 0) ∧
      exec (.fdiv d a b t) s = ends two (farith .div F rm false x y 0) ∧
      exec (.fmin d a b t) s = ends two (fminmax false F false x y) ∧
      exec (.fmax d a b t) s = ends two (fminmax true F false x y)) ∧
    (Ready three s →
      exec (.fma d a b t) s = ends three
        (farith .fma F rm false (code F (s.source three 0)) (code F (s.source three 1)) (code F (s.cur.reg d)))) ∧
    (Ready one s →
      let v := s.source one 0
      exec (.fsqrt d a t) s = ends one (farith .sqrt F rm false (code F v) 0 0) ∧
      exec (.fcvtToS64 d a t) s = ends one (toIntType 64 true rm (F.decode (code F v))) ∧
      exec (.fcvtToZ64 d a t) s = ends one (toIntType 64 false rm (F.decode (code F v))) ∧
      exec (.fcvtFromS64 d a t) s = ends one (round F rm false (.ofInt v.toInt)) ∧
      exec (.fcvtFromZ64 d a t) s = ends one (round F rm false (.ofInt v.toNat)) ∧
      exec (.fcvtFloat d a g t) s = ends one (round F rm false (G.decode (code G v))) ∧
      exec (.fclass d a t) s = ends one (fclassOf F (code F v), .none)) ∧
    (Ready { srcs := [a, b], full := true } s →
      let sh : Shape := { srcs := [a, b], full := true }
      let r := fcmpVal c.toNat (F.decode (code F (s.source sh 0))) (F.decode (code F (s.source sh 1)))
      exec (.fcmp p a b c t) s = .next ((flagged r.2).doneWithPred sh p r.1))) ∧
  (∀ (F : FFmt) (rm : Rm) (x y z : Nat),
    let a := F.decode x
    let b := F.decode y
    let snan := fun (v : XVal) => v.isSNaN = true
    (∀ m ∈ [FMember.add, .sub, .mul, .div], ∀ neg sig pay pw, a = .nan neg sig pay pw →
      farith m F rm false x y z = (nanConv F neg pay pw, if snan a ∨ snan b then .nv else .none)) ∧
    (∀ m ∈ [FMember.add, .sub, .mul, .div], a.isNaN = false → ∀ neg sig pay pw, b = .nan neg sig pay pw →
      farith m F rm false x y z = (nanConv F neg pay pw, if snan b then .nv else .none)) ∧
    (∀ na nb, a = .inf na → b = .inf nb →
      (na ≠ nb → farith .add F rm false x y z = (F.defaultNaN, .nv)) ∧
      (na = nb → farith .sub F rm false x y z = (F.defaultNaN, .nv)) ∧
      farith .div F rm false x y z = (F.defaultNaN, .nv)) ∧
    (∀ na, a = .inf na → b.isZero = true → farith .mul F rm false x y z = (F.defaultNaN, .nv)) ∧
    (a.isZero = true → b.isZero = true → farith .div F rm false x y z = (F.defaultNaN, .nv)) ∧
    (F.hasInf = true → a.isNaN = false → a.isInf = false → a.isZero = false → b.isZero = true →
      farith .div F rm false x y z = (F.signBit (a.neg != b.neg) + (2 ^ F.ebits - 1) * 2 ^ F.mbits, .dz)) ∧
    (a.isNaN = false → a.neg = true → a.isZero = false → farith .sqrt F rm false x y z = (F.defaultNaN, .nv)))

/-- The address classes (R42) with the context-area check (R35) and the fence of a die (R381): where an access of `n` bytes
lands, or how it traps; a class-0 address goes through Translate. -/
def Obligations.AddressClasses : Prop :=
  ∀ (s : State) (c : CoreId) (dom : Nat) (supv : Bool) (va : Word) (n : Nat) (need : Need),
    let cls := va.toNat / 2 ^ 52 % 16
    let off := va.toNat % 2 ^ 52
    let prot := ((.trap 0x05 [va], s) : XRes Spot × State)
    let inSpad := fun (k : CoreId) (o : Nat) =>
      if supv = false ∧ o + n > ctxBase (s.core k) then prot
      else if s.dieUp (dieOfCore k) = true then (.ok (.mem (locSpad k o) none), s)
      else (.trap 0x19 [va, BitVec.ofNat 64 (dieOfCore k % 8),
        BitVec.ofNat 64 ((s.die (dieOfCore k)).fenced.getD 4)], s)
    let core := pkgOf c * 2048 + va.toNat / 2 ^ 41 % 2 ^ 11
    let die := pkgOf c * 8 + va.toNat / 2 ^ 49 % 8
    s.classify c dom supv va n need =
      if cls = 0 then s.translate c dom va need
      else if cls ≤ 11 then (.trap 0x07 [va], s)
      else if cls = 12 then (if off ≥ 393216 then prot else inSpad c (va.toNat % 2 ^ 19))
      else if cls = 13 then
        (if va.toNat / 2 ^ 19 % 2 ^ 22 ≠ 0 ∨ va.toNat % 2 ^ 19 ≥ 393216 ∨ (s.core core).cdom.toNat ≠ dom then prot
         else inSpad core (va.toNat % 2 ^ 19))
      else if cls = 14 then
        (if va.toNat / 2 ^ 26 % 2 ^ 23 ≠ 0 ∨ s.inWindow die dom (va.toNat % 2 ^ 26) = false then prot
         else if s.dieUp die = true then
           (.ok (.mem (locCommon (pkgOf c) (va.toNat / 2 ^ 49 % 8) (va.toNat % 2 ^ 26)) none), s)
         else (.trap 0x19 [va, BitVec.ofNat 64 (die % 8), BitVec.ofNat 64 ((s.die die).fenced.getD 4)], s))
      else prot

/-- LD, LDA and LDT (R123, R124, R217, R218): the address as ADDA adds, MISALIGN, then the value read, extended; a host port
is waited for and its completion taken, an error completion traps MEMERR (R216); of a HOST page the own queued stores are
forwarded (R173). A load that finds no queued store and no
pending ordered add to perform first leaves the machine as it was but for its destination. -/
def Obligations.Loads : Prop :=
  ∀ (d a b : Reg) (z : BitVec 2) (g : BitVec 1) (c : BitVec 4) (o : BitVec 10) (q : BitVec 9) (t : BitVec 2) (s : State),
    let n := 2 ^ z.toNat
    let signed := g = 1 ∧ z ≠ 3
    let value := fun (sg : Prop) [Decidable sg] (v : Nat) =>
      if sg then BitVec.ofInt 64 (signedOf (8 * n) v) else BitVec.ofNat 64 v
    ((s.core s.here).storeQ = [] → s.ordadds = [] → ∀ accs bs u, ReadsAll s accs bs u → u = s) ∧
    (Ready (.ad d a) s →
      let x := s.source (.ad d a) 0
      let ea := addAddr x (o.toInt * n)
      let eb := addAddr x (q.toInt * n)
      (ea.toNat % 2 ^ 56 % n ≠ 0 → exec (.ld d a z g o) s = .next (s.trap 0x03 [ea])) ∧
      (eb.toNat % 2 ^ 56 % n ≠ 0 → exec (.lda d a z c q) s = .next (s.trap 0x03 [eb])) ∧
      (∀ accs u bs v, LocatesAll .load n s [(ea, n)] accs u → ReadsAll u accs [bs] v →
        exec (.ld d a z g o) s = .next (v.doneWith (.ad d a) (value signed (leVal bs)))) ∧
      (∀ accs u bs v, LocatesAll .load n s [(eb, n)] accs u → ReadsAll u accs [bs] v →
        exec (.lda d a z c q) s = .next (v.doneWith (.ad d a) (value False (leVal bs)))) ∧
      (∀ p ad io u, LocatesAll .load n s [(ea, n)] [{ ea := ea, n := n, spot := .port p ad io }] u →
        (io = false → ad % n = 0) → let kept := s.portWords [a]
        (u.ownQueue = [] → exec (.ld d a z g o) s = .next ((u.awaitPort p (.read ad n) [x] []).keepWords kept)) ∧
        (io = false → ∀ bs, u.forwardBy (QStore.hostByte p) (fromTo ad n) = .whole bs →
          exec (.ld d a z g o) s = .next (u.doneWith (.ad d a) (value signed (leVal bs)))) ∧
        (io = false → u.forwardBy (QStore.hostByte p) (fromTo ad n) = .partly →
          exec (.ld d a z g o) s = .next ((u.hold .storeQueue (.after [x] 0 0)).keepWords kept)))) ∧
    (∀ x v p ad io u, Resumed (.ad d a) s [x] v 1 → (io = false → ad % n = 0) →
      let ea := addAddr x (o.toInt * n)
      LocatesAll .load n s [(ea, n)] [{ ea := ea, n := n, spot := .port p ad io }] u →
      exec (.ld d a z g o) s = .next (u.doneWith (.ad d a) (value signed (leVal (leBytes v.toNat n))))) ∧
    (∀ x v p ad io u, Resumed (.ad d a) s [x] v 2 →
      let ea := addAddr x (o.toInt * n)
      LocatesAll .load n s [(ea, n)] [{ ea := ea, n := n, spot := .port p ad io }] u →
      exec (.ld d a z g o) s = .next (s.trap 0x08 [ea, 0])) ∧
    (let sh : Shape := { srcs := [a, b], dst := some d, full := true }
     let F := FFmt.ofType t.toNat
     Ready sh s →
      (∀ cause ds, elem (s.source sh 0) (s.source sh 1).toNat = .trap cause ds →
        exec (.ldt d a b t) s = .next (s.trap cause ds)) ∧
      ∀ e accs u bss v, elem (s.source sh 0) (s.source sh 1).toNat = .ok e →
        LocatesAll .load 1 s (parts e.addr e.nb) accs u → ReadsAll u accs bss v →
        let code := leVal bss.flatten / 2 ^ e.sh % 2 ^ e.w
        exec (.ldt d a b t) s =
          if e.f = 0 then .next (v.doneWith sh (BitVec.ofNat 64 code))
          else
            let r := round F v.cur.rm false (v.elemVal e code)
            .next ((v.raise r.2).doneWith sh (BitVec.ofNat 64 r.1)))

/-- ST, STL and STT (R123, R125, R173, R179, R198, R217, R218): the address, MISALIGN, the drain of a release, the step entries, the
entry in the store queue, each of one aligned granule (R171); without room in the queue the process is held (R246). -/
def Obligations.Stores : Prop :=
  ∀ (d a b : Reg) (z : BitVec 2) (c : BitVec 4) (o : BitVec 10) (q : BitVec 9) (t : BitVec 2) (s : State),
    let n := 2 ^ z.toNat
    let sh : Shape := { srcs := [a, d] }
    (Ready sh s →
      let bs := leBytes (s.source sh 1).toNat n
      let ea := addAddr (s.source sh 0) (o.toInt * n)
      let eb := addAddr (s.source sh 0) (q.toInt * n)
      (ea.toNat % 2 ^ 56 % n ≠ 0 → exec (.st d a z o) s = .next (s.trap 0x03 [ea])) ∧
      (∀ accs u v, LocatesAll .store n s [(ea, n)] accs u →
        (u.roomFor (putsOf (accs.zip [bs])).length = false → exec (.st d a z o) s = .next (s.hold .storeQueue .fresh)) ∧
        (Puts accs [bs] (.unsigned n) u v → exec (.st d a z o) s = .next (v.done sh))) ∧
      (∀ accs u v, LocatesAll .store n s [(eb, n)] accs u → Released u c.toNat → Puts accs [bs] (.unsigned n) u v →
        exec (.stl d a z c q) s = .next (v.done sh))) ∧
    (∀ loc key ea bs more ds, let e := s.enqueue { spot := .mem loc key, ea := ea, bytes := bs, more := more } ds
      e.mem = s.mem ∧ e.cur = s.cur ∧ ∃ x, (e.core s.here).storeQ = (s.core s.here).storeQ ++ [x] ∧
        x.target = some (.mem loc) ∧ x.bytes = bs ∧ x.more = more ∧ x.owner = s.self ∧ x.pid = s.cur.pid ∧
        x.passed = false ∧ x.keySlot = key.getD 0) ∧
    (∀ l : List (Acc × List Byte), (∀ x ∈ l, x.2.length ≤ 8) → ∀ y ∈ putsOf l, ∀ z ∈ (y.spot.base, y.bytes) :: y.more,
      z.1 / 8 = y.spot.base / 8 ∧ z.1 + z.2.length ≤ y.spot.base / 8 * 8 + 8) ∧
    (let st : Shape := { srcs := [a, b], dsrc := some d, full := true }
     let F := FFmt.ofType t.toNat
     Ready st s → ∀ e, elem (s.source st 0) (s.source st 1).toNat = .ok e →
      let r := s.elemCode e F (s.cur.reg d)
      (8 ≤ e.w → ∀ accs u v, LocatesAll .store 1 s (parts e.addr e.nb) accs u →
        (∀ x ∈ accs, stepRefuses x.spot e.f e.w = false) →
        let n0 := (accs.headD { ea := 0, n := 0, spot := .mem 0 none }).n
        Puts accs [(leBytes r.1 e.nb).take n0, (leBytes r.1 e.nb).drop n0] (elemDesc e.f e.nb) u v →
        exec (.stt d a b t) s = .next ((v.raise r.2).done st)) ∧
      (e.w < 8 → ∀ pre u1 accs u2 bss u3 post u4 v, LocatesAll .store 1 s (parts e.addr e.nb) pre u1 →
        (∀ x ∈ pre, stepRefuses x.spot e.f e.w = false) →
        LocatesAll .load 1 s (parts e.addr e.nb) accs u2 → ReadsAll u2 accs bss u3 →
        LocatesAll .store 1 u3 (parts e.addr e.nb) post u4 →
        (∀ x ∈ post, stepRefuses x.spot e.f e.w = false) →
        let old := leVal bss.flatten
        let new := leBytes (old - old / 2 ^ e.sh % 2 ^ e.w * 2 ^ e.sh + r.1 % 2 ^ e.w * 2 ^ e.sh) e.nb
        let n0 := (post.headD { ea := 0, n := 0, spot := .mem 0 none }).n
        Puts post [new.take n0, new.drop n0] (elemDesc e.f e.nb) u4 v →
        exec (.stt d a b t) s = .next ((v.raise r.2).done st)))

/-- AMO and CAS (R179, R219, R220, R225): the drain of a release, the access performed at the home as one event after the process's
earlier stores, the old value into g[d]; of the bytes of memory only those of the access change; an AMO on a
HOST page is a request of the port, whose completion supplies the old value. -/
def Obligations.Atomics : Prop :=
  ∀ (d a b : Reg) (z : BitVec 1) (c : BitVec 4) (o : BitVec 2) (s : State),
    let n := if z = 1 then 8 else 4
    (s.Inv → (s.core s.here).storeQ = [] → s.ordadds = [] → ∀ loc f desc x old u, kindOf loc ≠ .hbm →
      Performs s (.mem loc none) n f desc x old u → old = leVal (s.mem.read loc n) ∧
        (∀ a, (a < loc ∨ loc + n ≤ a) → u.mem.get a = s.mem.get a) ∧ (∀ v, f old = some v → u.mem.read loc n = leBytes v n) ∧
        (f old = none → u = s)) ∧
    (∀ p ∈ amoTable, ∀ sh : Shape, sh = .abd d a b → Ready sh s →
      let ea := s.source sh 0
      let x := (s.source sh 1).toNat % 2 ^ (8 * n)
      (ea.toNat % 2 ^ 56 % n ≠ 0 → exec (p.1 d a b z c o) s = .next (s.trap 0x03 [ea])) ∧
      ∀ acc t old u, LocatesAll (.amo p.2.1.code) n s [(ea, n)] [acc] t → (2 ≤ o.toNat → Released t c.toNat) →
        Drained t .stores →
        Performs t acc.spot n (fun old => some (p.2.2 n old x)) (p.2.1.desc n) x old u →
        exec (p.1 d a b z c o) s = .next (u.doneWith sh (BitVec.ofNat 64 old))) ∧
    (∀ p ∈ amoTable, ∀ sh : Shape, sh = .abd d a b → ∀ pt ad t ea,
      LocatesAll (.amo p.2.1.code) n s [(ea, n)] [{ ea := ea, n := n, spot := .port pt ad false }] t →
      (2 ≤ o.toNat → Released t c.toNat) → Drained t .stores →
      (Ready sh s → ea = s.source sh 0 →
        let x := s.source sh 1
        let request : PortReq := if p.2.1 = .swap then .swap ad n (x.toNat % 2 ^ (8 * n)) else .fetchAdd ad n (x.toNat % 2 ^ (8 * n))
        exec (p.1 d a b z c o) s = .next ((t.awaitPort pt request [ea, x] []).keepWords (s.portWords [a, b]))) ∧
      (∀ x v, Resumed sh s [ea, x] v 1 →
        exec (p.1 d a b z c o) s = .next (t.doneWith sh (BitVec.ofNat 64 (v.toNat % 2 ^ (8 * n))))) ∧
      ∀ x v, Resumed sh s [ea, x] v 2 → exec (p.1 d a b z c o) s = .next (s.trap 0x05 [ea])) ∧
    (∀ sh : Shape, sh = { srcs := [a, b], dst := some d, dsrc := some d } → Ready sh s →
      let ea := s.source sh 0
      let x := (s.source sh 1).toNat % 2 ^ (8 * n)
      let expected := (s.cur.reg d).toNat % 2 ^ (8 * n)
      (ea.toNat % 2 ^ 56 % n ≠ 0 → exec (.cas d a b z c o) s = .next (s.trap 0x03 [ea])) ∧
      ∀ acc t old u, LocatesAll .cas n s [(ea, n)] [acc] t → (2 ≤ o.toNat → Released t c.toNat) → Drained t .stores →
        Performs t acc.spot n (fun old => if old = expected then some x else none) (.unsigned n) x old u →
        exec (.cas d a b z c o) s = .next (u.doneWith sh (BitVec.ofNat 64 old)))

/-- ORDADD, FENCE, FENCESC and WAITA (R178 to R181, R186, R223, R226, R227). -/
def Obligations.OrderingInstructions : Prop :=
  ∀ (d a b : Reg) (z : BitVec 1) (c : BitVec 4) (o : BitVec 2) (w : BitVec 4) (s : State),
    (let n := if z = 1 then 8 else 4
     let sh : Shape := .abd d a b
     Ready sh s → ∀ loc key t, LocatesAll .ord n s [(s.source sh 0, n)]
         [{ ea := s.source sh 0, n := n, spot := .mem loc key }] t →
       (2 ≤ o.toNat → Released t c.toNat) → Drained t .stores →
       let u := t.settle t.here (homesOf loc n)
       (∀ v, u.ordAccept loc n ((s.source sh 1).toNat % 2 ^ (8 * n)) = .inl v →
         exec (.ordadd d a b z c o) s = .next ((v.sink v.here).doneWith sh 0)) ∧
       (∀ code, u.ordAccept loc n ((s.source sh 1).toNat % 2 ^ (8 * n)) = .inr code →
         exec (.ordadd d a b z c o) s = .next (s.trap 0x05 [s.source sh 0, BitVec.ofNat 64 code]))) ∧
    (Ready {} s → s.cur.lost = none →
      let d := drainOf c.toNat
      let slow := w.getLsbD 2 = true ∧ d ≠ .none
      let marked := if w.getLsbD 3 = true ∧ d.covers = true then s.markQueue d else s
      (slow → s.drained s.self .corePoint = false → exec (.fence c w) s = .next (s.hold (.drain .corePoint) .fresh)) ∧
      ((slow → s.drained s.self .corePoint = true) → exec (.fence c w) s = .next (marked.done {}))) ∧
    (Ready {} s → Drained s .system → exec .fencesc s = .next (s.hold (.tick (s.now s.here)) (.after [] 0 0))) ∧
    (Resumed {} s [] 0 1 → exec .fencesc s = .next (s.done {})) ∧
    (let sh : Shape := { srcs := [a, b], dst := some d, dsrc := some d }
     let off := ({ s with armed := s.armed.filter fun x => x.2 ≠ s.self } : State)
     Ready sh s → ∀ loc key t bs u, LocatesAll .wait 8 off [(s.source sh 0, 8)]
         [{ ea := s.source sh 0, n := 8, spot := .mem loc key }] t → Drained t .corePoint →
       t.coreRead t.here loc 8 key = (bs, false, u) →
       let deadline := (s.cur.reg d).toNat
       exec (.waita d a b) s =
         if leVal bs ≠ (s.source sh 1).toNat then .next (u.doneWith sh 2)
         else if deadline ≠ 0 ∧ deadline ≤ u.now u.here then .next (u.doneWith sh 1)
         else .next (State.keepWords (State.parkAfter { u with armed := u.armed ++ [(loc / 64, u.self)] } 4
           (.line (loc / 64)) [s.source sh 0, s.source sh 1, s.cur.reg d] (if deadline = 0 then none else some deadline))
           (s.portWords [a, b]))) ∧
    (let sh : Shape := { srcs := [a, b], dst := some d, dsrc := some d }
     let off := ({ s with armed := s.armed.filter fun x => x.2 ≠ s.self } : State)
     ∀ ea x dl v m, Resumed sh s [ea, x, dl] v m → ∀ loc key t bs u,
       LocatesAll .wait 8 off [(ea, 8)] [{ ea := ea, n := 8, spot := .mem loc key }] t → Drained t .corePoint →
       t.coreRead t.here loc 8 key = (bs, false, u) →
       exec (.waita d a b) s = .next (u.doneWith sh (if leVal bs ≠ x.toNat then 0
         else if dl.toNat ≠ 0 ∧ dl.toNat ≤ u.now u.here then 1 else 3)))

/-- After reset (R40, R48): no process; every endpoint entry zero; scratchpads and common stores zero and free of poison;
the state registers at the reset values of R36 to R40, as GETS reads them on any core; the accumulators zero. -/
def Obligations.ResetState : Prop :=
  (∀ k, (State.reset.proc k).state = .free) ∧
  (∀ e, let x := State.reset.ep e
    x.state = 0 ∧ x.mode = 0 ∧ x.dir = false ∧ x.nb = false ∧ x.cls = 0 ∧ x.fmt = 0 ∧ x.gen = 0 ∧ x.domain = 0 ∧
      x.port = 0 ∧ x.portv = false ∧ x.waiter = none ∧ x.shape = 0 ∧ x.tlimit = 0 ∧ x.peer = 0 ∧ x.rbase = 0 ∧
      x.rlen = 0 ∧ x.head = 0 ∧ x.tail = 0 ∧ x.nextt = 0 ∧ x.called = 0) ∧
  (∀ loc, kindOf loc ≠ .hbm → State.reset.mem.get loc = 0 ∧ natMem State.reset.poison (loc / 8) = false) ∧
  (∀ k, ∀ p ∈ [(0x100, 4096), (0x101, 64 + 256 * 2 ^ 11 + 16 * 2 ^ 32), (0x102, 0), (0x103, 0), (0x104, 0),
      (0x110, 1048576), (0x111, 16777216), (0x112, 1)],
    (State.reset.focus k).getRegister p.1 = BitVec.ofNat 64 p.2) ∧
  (∀ c i, Map.get (State.reset.core c).acc i 0 = 0) ∧ (∀ k, (State.reset.proc k).tileown = 0)

/-- The machine right after reset meets the invariant. -/
def Obligations.ResetInvariant : Prop := State.reset.Inv

/-- Every step keeps the memory of the pod in its canonical form, whatever the agenda asks for (the model's own invariant,
log 4). -/
def Obligations.StepKeepsInvariant : Prop := ∀ s t : State, s.Inv → step s = .next t → t.Inv

/-- Decoding the word of a well-formed instruction gives the instruction back, and leaves the bytes after it; a word that
decodes is the word of what it decodes to (R51 to R67). -/
def Obligations.DecodeEncode : Prop :=
  (∀ (i : Instr) (w : IWord) (rest : List Byte), i.wellFormed = true → encode i = some w →
    decodeWord w = .ok i ∧ decode (bytesOfWord w ++ rest) = .ok (i, rest)) ∧
  (∀ (w : IWord) (i : Instr), decodeWord w = .ok i → i.wellFormed = true ∧ encode i = some w)

/-- A few instruction words, each written field by field from the spec's encodings (R52 to R66): `addi g1, g2, −1`,
`br !p3` two words back, `ld.s16 g4, 6(g5)`, `amo.swap.acqrel.core.z64`, `vadd v1, v2, v3 .s32` under m4 with zeroing,
`spawn g1, g2, g3`, `gets g7` of number 0x104, `trap 5`. A word R67 leaves unassigned is no instruction: it decodes to nothing, and where it is fetched the process traps ILLOP
with detail 0x0 at the word's own address. The unassigned words are those no well-formed instruction encodes to; they
cover the illegal and reserved major opcodes. -/
def Obligations.DecodeWords : Prop :=
  (decodeWord (0x02#6 ++ 1#5 ++ 2#5 ++ 0xFFFF#16) = .ok (.addi 1 2 0xFFFF) ∧
  decodeWord (0x0D#6 ++ 3#3 ++ 1#1 ++ 0x3FFFFE#22) = .ok (.br 3 1 0x3FFFFE) ∧
  decodeWord (0x12#6 ++ 4#5 ++ 5#5 ++ 1#2 ++ 1#4 ++ 3#10) = .ok (.ld 4 5 1 1 3) ∧
  decodeWord (0x15#6 ++ 1#5 ++ 2#5 ++ 3#5 ++ 1#1 ++ 1#4 ++ 3#2 ++ 8#4) = .ok (.amoSwap 1 2 3 1 1 3) ∧
  decodeWord (0x18#6 ++ 1#5 ++ 2#5 ++ 3#5 ++ 10#4 ++ 1#1 ++ 4#3 ++ 0#3) = .ok (.vadd 1 2 3 10 12) ∧
  decodeWord (0x23#6 ++ 1#5 ++ 2#5 ++ 3#5 ++ 0#11) = .ok (.spawn 1 2 3) ∧
  decodeWord (0x27#6 ++ 7#5 ++ 0#5 ++ 0#4 ++ 0x104#12) = .ok (.gets 7 0x104) ∧
  decodeWord (0x24#6 ++ 0#5 ++ 0#5 ++ 0#5 ++ 5#8 ++ 4#3) = .ok (.trap 5)) ∧
  ((∀ w : IWord, (∀ i : Instr, i.wellFormed = true → encode i ≠ some w) →
    (∀ i, decodeWord w ≠ .ok i) ∧ instrOf w = .unassignedEncoding w) ∧
  (∀ w : IWord, (w.toNat / 2 ^ 26 = 0 ∨ w.toNat / 2 ^ 26 = 7 ∨ 0x28 ≤ w.toNat / 2 ^ 26) →
    instrOf w = .unassignedEncoding w) ∧
  (∀ (w : IWord) (s : State), exec (.unassignedEncoding w) s = .next (s.trap 0x01 [0])))

/-- A step runs the instruction at the PC (R111): where a core's turn is next, its process stands at a boundary that owes
nothing, and the bytes the fetch reads through Translate with execute access decode to an instruction, the step is that
instruction's effect with one cycle charged to the process, and one cycle of the package passes (log 8). An instruction that has begun goes on at its core's next turn (R73: Park suspends the pseudocode). -/
def Obligations.StepRunsDecoded : Prop :=
  (∀ (s : State) (c : CoreId) (k : Slot) (r : List Turn) (sp : Spot) (t u : State) (bs : List (Byte × Bool)) (i : Instr),
    let f := State.focus { s with agenda := r } k
    let w : IWord := BitVec.ofNat 32 (leVal (bs.map (·.1)))
    s.agenda = .issue c :: r → s.hasPkg (pkgOf c) = true → (s.core c).running = some k → f.coreUp c = true →
    f.cur.held = none → f.cur.inflight = none → f.boundary c = none → f.cur.pc.toNat < 2 ^ 52 →
    f.translate f.here f.cur.domain.toNat f.cur.pc .exec = (.ok sp, t) →
    t.engFetch t.here sp 4 = .ok bs u → (∀ b ∈ bs, b.2 = false) →
    decode (bs.map (·.1)) = .ok (i, []) →
    step s = thenDo (exec i ((u.begin i w).charge)) fun v => v.advance (pkgOf u.here)) ∧
  (∀ (s : State) (c : CoreId) (k : Slot) (r : List Turn) (i : Instr) (w : IWord),
    let f := State.focus { s with agenda := r } k
    s.agenda = .issue c :: r → s.hasPkg (pkgOf c) = true → (s.core c).running = some k → f.coreUp c = true →
    f.cur.held = none → f.cur.inflight = some (i, w) →
    step s = thenDo (exec i f.charge) fun v => v.advance (pkgOf f.here))

/-- Taking a trap (R8, R73, R240, R364): the process stops with its PC at the instruction, its registers, flags and
accumulator tiles as they were, CAUSE the code of the trap; the core's issue slot is free; one record of KIND 0 with the
cause, the domain, the handle, the PC, the instruction word, the RANK and the details is buffered for the supervisor
of its domain; memory is as it was. A trap of the fetch (R111): the process stops at the fetched address with the cause, no instruction decoded: the word in
its record is zero. -/
def Obligations.TakingTrap : Prop :=
  (∀ (s : State) (cause : Nat) (ds : List Word), cause < 256 → ds.length ≤ 4 →
    let t := s.trap cause ds
    let p := s.cur
    t.cur.state = .stopped ∧ t.cur.cause = BitVec.ofNat 8 cause ∧ t.cur.pc = p.pc ∧ t.cur.g = p.g ∧ t.cur.pred = p.pred ∧
      t.cur.vext = p.vext ∧ t.cur.fmtctl = p.fmtctl ∧ t.cur.tileown = p.tileown ∧ t.cur.supv = p.supv ∧
      t.cur.domain = p.domain ∧ t.cur.waitk = 0 ∧ t.self = s.self ∧ t.mem = s.mem ∧ t.poison = s.poison ∧
      (t.core s.here).running ≠ some s.self ∧
      (t.core s.here).records = (s.core s.here).records ++ [{
        dest := .domain p.domain.toNat, source := some (s.self, p.pid)
        words := [BitVec.ofNat 64 (cause + p.domain.toNat * 2 ^ 16 + 2 ^ 32), s.handleOf s.self, p.pc,
          BitVec.ofNat 64 (p.iword.toNat + p.rank.toNat * 2 ^ 32)] ++ (ds ++ List.replicate (4 - ds.length) 0) }]) ∧
  (∀ (s : State) (cause : Nat), cause < 256 → ∃ t r, exec (.fetchFault cause) s = .next t ∧ t.cur.state = .stopped ∧
    t.cur.cause = BitVec.ofNat 8 cause ∧ t.cur.pc = s.cur.pc ∧ t.cur.g = s.cur.g ∧ t.mem = s.mem ∧
    (t.core s.here).records = (s.core s.here).records ++ [r] ∧ r.words.getD 2 0 = s.cur.pc ∧
    r.words.getD 3 0 = BitVec.ofNat 64 (s.cur.rank.toNat * 2 ^ 32))

/-- Returning from a trap (R240, R309): a resumed process is ready, at the PC and with the registers and the CAUSE of its
record, SSTEP from the image, at the tail of its level. Single step (R37, R351): with SSTEP set, the end of an instruction that names no port stops the process with BREAK and
detail 1, at the next instruction, its result written. -/
def Obligations.ReturningFromTrap : Prop :=
  (∀ (s : State) (k : Slot) (sstep : Bool), let t := s.resumeProc k sstep
    let p := s.proc k
    (t.proc k).state = .ready ∧ (t.proc k).sstep = sstep ∧ (t.proc k).pc = p.pc ∧ (t.proc k).g = p.g ∧
      (t.proc k).pred = p.pred ∧ (t.proc k).cause = p.cause ∧ (t.proc k).vext = p.vext ∧
      (t.core (coreOf k)).ready p.prio = (s.core (coreOf k)).ready p.prio ++ [k] ∧ t.mem = s.mem ∧
      ∀ j, j ≠ k → t.proc j = s.proc j) ∧
  (∀ (s : State) (sh : Shape) (d : Reg) (v : Word), sh.dst = some d → Unported sh s → s.cur.sstep = true →
    let t := s.doneWith sh v
    t.cur.state = .stopped ∧ t.cur.cause = 0x16 ∧ t.cur.pc = nextPc s.cur.pc ∧
      t.cur.reg d = (if d = 0 then 0 else v) ∧
      ∃ r, (t.core s.here).records = (s.core s.here).records ++ [r] ∧ r.words.getD 4 0 = 1 ∧
        r.words.getD 2 0 = nextPc s.cur.pc ∧ r.words.getD 3 0 = BitVec.ofNat 64 (s.cur.iword.toNat + s.cur.rank.toNat * 2 ^ 32))

/-- What an instruction changes (R25, R108, R111). One on general registers: its destination, the PC and the model's record
of the instruction in progress; every other register, flag, state register, all of memory and every other process, core and
package are as before. The same for the ends that the result statements name: with no result, with a general register,
with a predicate, with a vector and the flags it raises. -/
def Obligations.RegisterFrame : Prop :=
  ∀ (s : State), s.cur.sstep = false →
    let rest := fun (t : State) (q : Proc) => OnlyCur s t ∧ t.cur.pc = nextPc s.cur.pc ∧
      { t.cur with pc := s.cur.pc, phase := s.cur.phase, inflight := s.cur.inflight, lastWord := s.cur.lastWord,
                   held := s.cur.held, wait := s.cur.wait } = q
    (∀ (i : Instr) (sh : Shape) (t : State), registerOnly i = true → shapeOf i = some sh → Ready sh s → Unported sh s →
      exec i s = .next t → rest t { s.cur with g := t.cur.g } ∧ ∀ r, sh.dst ≠ some r → t.cur.reg r = s.cur.reg r) ∧
    (∀ sh : Shape, Unported sh s →
      rest (s.done sh) s.cur ∧
      (∀ d v, sh.dst = some d → let t := s.doneWith sh v
        rest t { s.cur with g := t.cur.g } ∧ t.cur.reg d = (if d = 0 then 0 else v) ∧ ∀ r, r ≠ d → t.cur.reg r = s.cur.reg r) ∧
      (∀ (p : PReg) b, let t := s.doneWithPred sh p b
        rest t { s.cur with pred := t.cur.pred } ∧ t.cur.predicate p = (decide (p = 0) || b) ∧
          ∀ q, q ≠ p → t.cur.predicate q = s.cur.predicate q) ∧
      (∀ (d : VReg) v fl x, s.cur.vext = some x → let t := s.doneVec sh d v fl
        rest t { s.cur with vext := t.cur.vext, fmtctl := s.cur.fmtctl ||| BitVec.ofNat 64 (fl.toNat * 2 ^ 8) } ∧
          t.cur.vec d = v ∧ (∀ r, r ≠ d → t.cur.vec r = s.cur.vec r) ∧ (∀ m, t.cur.mask m = s.cur.mask m) ∧
          t.cur.vprog = s.cur.vprog))

/-- A store passes the ordering point, behind those of its core that have passed before it, leaves the queue and is
performed at its home (R170, R171, R173, R174, R216): the bytes of its parts,
which all lie in one aligned granule, are in memory together, every other byte is as before, the granule loses its poison
if they cover it and every other keeps it, and it is gone from the queue. Of a store to HBM: one to a line never sealed
under a key. -/
def Obligations.StorePerformed : Prop :=
  ∀ (s : State) (c : CoreId) (n : Nat) (q : QStore) (loc : Nat), s.Inv → (s.core c).storeQ[n]? = some q →
    (∀ m e, (s.core c).storeQ[m]? = some e → e.seq = q.seq → m = n) → q.target = some (.mem loc) → q.bytes ≠ [] →
    (∀ x ∈ q.parts loc, x.1 / 8 = loc / 8 ∧ x.1 + x.2.length ≤ loc / 8 * 8 + 8) →
    let es := (s.core c).storeQ
    let es' := if q.passed = true then es else passedOf es q
    let m := if q.passed = true then n else (es.filter (·.passed)).length
    (q.passed = true ∨ s.mayPass c n q = true) →
    (s.modCore c fun x => { x with storeQ := es' }).mayPerform c m q = true → s.ordadds = [] →
    (kindOf loc = .hbm → (s.base (baseOfHbm loc)).fenced = none ∧ s.seals.find? (loc / 64) = none) →
    (kindOf loc = .common → s.dieUp (dieOfCommon loc) = true) →
    (kindOf loc = .spad → s.dieUp (dieOfCore (coreOfSpad loc)) = true) →
    ∃ t, exec (.storePerform c n false) s = .next t ∧
      (∀ a, t.mem.get a = (partAt (q.parts loc) a).getD (s.mem.get a)) ∧
      (∀ g, natMem t.poison g =
        (natMem s.poison g && !((fromTo (8 * g) 8).all fun a => (partAt (q.parts loc) a).isSome))) ∧
      (t.core c).storeQ = es'.filter fun e => e.seq ≠ q.seq

/-- The events of memory and of the walkers (R178, R216, R246, R343 to R345, R357): a completion from a host port, which
flushes the writes posted before its read, the reply a slow access waits for, with the access as it was performed, the park after 16 cycles, a failed posted write counted, a walk that fills the translation cache and sets A, a fault entry that takes
its ticket at the domain's pager, or at the monitor once the pager's endpoint it waited at is gone, and is committed when
the ticket is called. -/
def Obligations.MemoryEvents : Prop :=
  ∀ s : State,
    (∀ k v (err : Bool),
      let mark := if err = true then 2 else 1
      ((s.proc k).wait = .reply → (s.proc k).portRead = none →
        exec (.memoryReply k v err) s = .next (s.wake k v mark).recheckAll) ∧
      (∀ key n, (s.proc k).wait = .reply → (s.proc k).portRead = some (key, n) →
        let u := (s.flushPort key n).modProc k fun p => { p with portRead := none }
        exec (.memoryReply k v err) s = .next (u.wake k v mark).recheckAll ∧
          (((u.pkg (key / 2)).port (key % 2)).flushed = max ((s.pkg (key / 2)).port (key % 2)).flushed n)) ∧
      ((s.proc k).wait = .memory → s.late.find? k = none → exec (.memoryReply k v err) s = .next (s.wake k 0 0)) ∧
      (∀ q, (s.proc k).wait = .memory → s.late.find? k = some q → (s.proc k).state = .parked → (s.proc k).waitk = 13 →
        ∃ t, exec (.memoryReply k v err) s = .next t ∧ (t.proc k).state = .ready ∧ (t.proc k).pc = q.pc ∧
          (t.proc k).g = q.g ∧ (t.proc k).pred = q.pred ∧ (t.proc k).vext = q.vext ∧ (t.proc k).phase = .fresh ∧
          t.late = s.late.del k ∧ ((s.proc k).resident = true → t.mem = s.mem)) ∧
      ((s.proc k).wait ≠ .reply → (s.proc k).wait ≠ .memory →
        let key := 2 * pkgOf (coreOf k) + v.toNat % 2
        exec (.memoryReply k v err) s = .next (s.flushPort key
          (max ((s.proc k).unflushedHost.get key 0) ((s.proc k).unflushedIo.get key 0))).recheckAll)) ∧
    (∀ c k t0, (s.core c).running = some k → coreOf k = c → (s.proc k).held = some t0 → t0 + 16 ≤ s.now c →
      ∃ t, exec (.memoryWaitPark c) s = .next t ∧ (t.proc k).state = .parked ∧ (t.proc k).waitk = 13 ∧
        (t.proc k).wait = (s.proc k).wait ∧ (t.proc k).phase = (s.proc k).phase ∧ (t.proc k).pc = (s.proc k).pc ∧
        (t.proc k).used = 0 ∧ (t.core c).running = none ∧ t.mem = s.mem) ∧
    (∀ p port, port < 2 → ∃ t, exec (.postedWriteFailure p port) s = .next t ∧
      ((t.pkg p).port port).wrerr = min 65535 (((s.pkg p).port port).wrerr + 1) ∧
      ((t.pkg p).port (1 - port)) = ((s.pkg p).port (1 - port)) ∧ t.cur = s.cur ∧ t.mem = s.mem) ∧
    (∀ c dom va w level pa, s.Inv → (s.cluster (clusterOf c)).hit dom (va.toNat % 2 ^ 52) = none →
      let b := baseOfDie (dieOfCore c)
      s.walkFenced b dom (va.toNat % 2 ^ 52) = none → s.walk b dom (va.toNat % 2 ^ 52) = .inl (w, level, pa) →
      ∃ t, exec (.translationWalk c dom va) s = .next t ∧
        (t.cluster (clusterOf c)).hit dom (va.toNat % 2 ^ 52) = some
          { domain := dom, page := pageAt (va.toNat % 2 ^ 52) level, level := level, leaf := w ||| 8, entryAt := pa } ∧
        t.tableWord (pkgOf c) pa = s.tableWord (pkgOf c) pa ||| 8 ∧
        ∀ a, (a < locHbm (pkgOf c) pa ∨ locHbm (pkgOf c) pa + 8 ≤ a) → t.mem.get a = s.mem.get a) ∧
    (∀ p base i f, (s.base (p * 4 + base)).faults.find? i = some f → f.sent = false →
      let h := ((s.pkg p).domain f.domain).pager
      let e := epOfHandle h
      (f.ticket = none → f.toMonitor = true → (s.ep (monitorEp p)).takesRecords = true →
        ∃ t, exec (.faultEntrySend p base i) s = .next t ∧ (t.ep (monitorEp p)).nextt = (s.ep (monitorEp p)).nextt + 1) ∧
      (f.ticket = none → f.toMonitor = false → h ≠ 0 → s.accepts h (BitVec.ofNat 12 f.domain) = true →
        (s.ep e).isSink (fun n => 1 ≤ n && n ≤ 64) = true →
        ∃ t, exec (.faultEntrySend p base i) s = .next t ∧ (t.ep e).nextt = (s.ep e).nextt + 1 ∧
          (t.base (p * 4 + base)).faults.find? i = some (
            if (s.ep e).hasCalled (s.ep e).nextt.toNat = true then { f with sent := true, ticket := none }
            else { f with ticket := some (e, (s.ep e).nextt.toNat) })) ∧
      (∀ g n, f.ticket = some (g, n) →
        ((s.ep g).hasCalled n = false → exec (.faultEntrySend p base i) s = .next s) ∧
        ((s.ep g).hasCalled n = true → ∃ t, exec (.faultEntrySend p base i) s = .next t ∧
          (t.base (p * 4 + base)).faults.find? i = some { f with sent := true, ticket := none } ∧
          (t.ep g).slots = (s.ep g).slots ++ [n])))

/-- The scheduler (R240 to R244, R249): dispatch with a slice, pre-emption to the head of a level, the end of a slice to the
tail with its overrun as debt, BUDGET, the register file's spill and fill, the arrival queue. Time (R40, R181, R252): a deadline that has passed wakes its process, LOADREG takes all sixteen loads together, the
heartbeat ticks every 512 cycles and releases a FENCESC that drained before. -/
def Obligations.SchedulerAndTime : Prop :=
  (∀ (s : State) (c : CoreId),
    (∀ k, (s.core c).running = none → s.coreUp c = true → s.choice c = some k → coreOf k = c →
      ∃ t, exec (.dispatch c) s = .next t ∧ t.self = k ∧ t.cur.state = .running ∧ (t.core c).running = some k ∧
        (∀ l, k ∉ (t.core c).ready l) ∧ t.cur.pc = (s.proc k).pc ∧ t.cur.g = (s.proc k).g ∧ t.cur.used = (s.proc k).used ∧
        (2 ≤ (s.proc k).prio.toNat →
          let full := max 64 (s.core c).slice.toNat
          let d := (s.proc k).debt.toNat
          t.cur.slice = some (max 64 (full - d)) ∧ t.cur.debt.toNat = d - (full - max 64 (full - d)))) ∧
    (∀ k, (s.core c).running = some k → coreOf k = c → s.outranked c = true →
      ∃ t, exec (.preempt c) s = .next t ∧ (t.proc k).state = .ready ∧ (t.core c).running = none ∧
        (t.core c).ready (s.proc k).prio = k :: (s.core c).ready (s.proc k).prio ∧ (t.proc k).used = (s.proc k).used) ∧
    (∀ k, (s.core c).running = some k → coreOf k = c → (s.proc k).sliceOver = true →
      ∃ t, exec (.sliceExpiry c) s = .next t ∧ (t.proc k).state = .ready ∧ (t.core c).running = none ∧
        (t.core c).ready (s.proc k).prio = (s.core c).ready (s.proc k).prio ++ [k] ∧
        (t.proc k).debt.toNat = min 65535 ((s.proc k).debt.toNat + (s.proc k).overrun)) ∧
    (∀ k, (s.core c).running = some k → (s.proc k).overBudget = true →
      exec (.budgetExhausted c) s =
        .next (s.trapOf k 0x0F [(s.proc k).limit.setWidth 64, (s.proc k).used.setWidth 64])) ∧
    (∀ w v, s.wanted c = some w → s.victim c = some v → 8 ≤ (s.residents c).length →
      (s.proc v).state = .parked ∨ (s.proc v).state = .stopped ∨ s.outranksFor c w v = true →
      ∃ t, exec (.contextSpill c) s = .next t ∧ (t.proc v).resident = false ∧ (t.proc v).state = (s.proc v).state ∧
        (t.proc v).g = (s.proc v).g) ∧
    (∀ w, s.wanted c = some w → (s.residents c).length < 8 → s.coreUp c = true →
      ∃ t, exec (.contextFill c) s = .next t ∧ (t.proc w).resident = true ∧
        w ∉ (t.core c).arrivals ∧ (t.proc w).pc = (s.proc w).pc ∧ t.mem = s.mem) ∧
    (∀ k r, (s.core c).arrivals = k :: r → (s.proc k).state = .arriving →
      ∃ t, exec (.arrivalWrite c) s = .next t ∧ (t.proc k).state = .ready ∧
        (t.core c).arrivals = r)) ∧
  (∀ s : State,
    (∀ k d, (s.proc k).deadline = some d → (s.proc k).state = .parked → d ≤ s.now (coreOf k) →
      (s.proc k).waitk = 3 ∨ (s.proc k).waitk = 4 ∨ (s.proc k).waitk = 8 →
      exec (.deadlineReached k) s = .next (s.wake k 0 0) ∧ ((s.wake k 0 0).proc k).state = .ready) ∧
    (∀ cl, ∃ t, exec (.loadregRefresh cl) s = .next t ∧
      (∀ i, i < 16 → (t.cluster cl).loadreg.toNat / 2 ^ (4 * i) % 16 =
        if s.isService (cl * 16 + i) = true then 15
        else min 15 ((s.core (cl * 16 + i)).queueOrder.length + if (s.core (cl * 16 + i)).running.isSome = true then 1 else 0)) ∧
      t.cur = s.cur ∧ t.mem = s.mem) ∧
    (∀ p, (s.pkg p).present = true → 512 * ((s.pkg p).heartbeat + 1) ≤ (s.pkg p).time →
      ∃ t, exec (.heartbeatTick p) s = .next t ∧ (t.pkg p).heartbeat = (s.pkg p).heartbeat + 1 ∧
        (∀ k a, k ∈ s.live → pkgOf (coreOf k) = p → (s.proc k).wait = .tick a → a < (s.pkg p).time →
          (s.proc k).held.isSome = true → (s.proc k).state = .running → (t.proc k).held = none)))

/-- Integer lanes (R128, R131): the result of each active lane of the eight VINT members, and no flag. Floating-point lanes (R128, R132): each active lane computes what the scalar member computes in the lane's format, with
FMTCTL.RM and FMTCTL.FTZ; VFMA takes its third operand from the old vd. -/
def Obligations.VectorArithmetic : Prop :=
  (∀ p ∈ vintTable, ∀ (d a b : VReg) (t m : BitVec 4) (s : State), 8 ≤ t.toNat → Ready .vector s →
    let w := laneBits t.toNat
    let e := s.extended .vector
    ∃ u, exec (p.1 d a b t m) s = .next u ∧
      MaskedResult e .vector d w m (fun i =>
        (wrapInt w (p.2 (decide (t.toNat < 12)) w (lane (e.cur.vec a) w i) (lane (e.cur.vec b) w i)), .none)) u) ∧
  (∀ (d a b : VReg) (t m : BitVec 4) (s : State), t.toNat < 4 → Ready .vector s →
    let w := laneBits t.toNat
    let F := FFmt.ofType t.toNat
    let e := s.extended .vector
    let rm := Rm.ofCode (s.cur.fmtctl.toNat % 4)
    let ftz := s.cur.fmtctl.getLsbD 3
    let x := lane (e.cur.vec a) w
    let y := lane (e.cur.vec b) w
    let z := lane (e.cur.vec d) w
    let lanes := fun (i : Instr) (r : Nat → Nat × FFlags) => ∃ u, exec i s = .next u ∧ MaskedResult e .vector d w m r u
    lanes (.vfadd d a b t m) (fun i => farith .add F rm ftz (x i) (y i) 0) ∧
    lanes (.vfsub d a b t m) (fun i => farith .sub F rm ftz (x i) (y i) 0) ∧
    lanes (.vfmul d a b t m) (fun i => farith .mul F rm ftz (x i) (y i) 0) ∧
    lanes (.vfma d a b t m) (fun i => farith .fma F rm ftz (x i) (y i) (z i)) ∧
    lanes (.vfmin d a b t m) (fun i => fminmax false F ftz (x i) (y i)) ∧
    lanes (.vfmax d a b t m) (fun i => fminmax true F ftz (x i) (y i)) ∧
    lanes (.vfdiv d a b t m) (fun i => farith .div F rm ftz (x i) (y i) 0) ∧
    lanes (.vfsqrt d a t m) (fun i => farith .sqrt F rm ftz (x i) 0 0))

/-- Compares and logic on vectors and masks (R144, R145): VCMP sets every bit of md that covers an active lane to the result
of that lane and clears or keeps the bits of an inactive one; VLOG works on bytes; MLOG works on whole mask registers,
m0 reading ones and discarding a result. -/
def Obligations.VectorCompares : Prop :=
  ∀ (s : State) (t m : BitVec 4),
    (∀ (d : PReg) (a b : VReg) (c : BitVec 2), Ready .vector s →
      let w := laneBits t.toNat
      let e := s.extended .vector
      let M := e.cur.mask (m.setWidth 3)
      let F := vrFloat t
      let r := fun (i : Nat) =>
        let x := lane (e.cur.vec a) w i
        let y := lane (e.cur.vec b) w i
        let z := fcmpVal (c.toNat - 1) (F.decode x) (F.decode y)
        if 12 ≤ t.toNat then
          (if c = 0 then decide (x = y) else if c = 1 then decide (x ≠ y) else if c = 2 then decide (x < y) else decide (x ≤ y),
            FFlags.none)
        else if 8 ≤ t.toNat then
          (if c = 0 then decide (x = y) else if c = 1 then decide (x ≠ y)
           else if c = 2 then decide (signedOf w x < signedOf w y) else decide (signedOf w x ≤ signedOf w y), FFlags.none)
        else if c = 1 then (!z.1, z.2) else z
      ∃ v fl, exec (.vcmp d a b t m c) s =
          .next (State.done { e.raise fl with cur := (e.raise fl).cur.setMask d v } .vector) ∧
        (∀ i, i < 512 / w → ∀ j, j < w / 8 → v.getLsbD (w / 8 * i + j) =
          if M.getLsbD (w / 8 * i) = true then (r i).1
          else if m.getLsbD 3 = true then false else (e.cur.mask d).getLsbD (w / 8 * i + j)) ∧
        ∀ j, j < 5 → (fl.getLsbD j = true ↔
          ∃ i, i < 512 / w ∧ M.getLsbD (w / 8 * i) = true ∧ (r i).2.getLsbD j = true)) ∧
    (∀ (d a b : VReg), Ready .vector s →
      let e := s.extended .vector
      let x := lane (e.cur.vec a) 8
      let y := lane (e.cur.vec b) 8
      let bytes := fun (i : Instr) (r : Nat → Nat) =>
        ∃ u, exec i s = .next u ∧ MaskedResult e .vector d 8 m (fun j => (r j, .none)) u
      bytes (.vand d a b m) (fun i => x i &&& y i) ∧ bytes (.vor d a b m) (fun i => x i ||| y i) ∧
      bytes (.vxor d a b m) (fun i => x i ^^^ y i) ∧ bytes (.vandn d a b m) (fun i => x i &&& (255 - y i))) ∧
    (∀ (d a b : PReg) (sh : Shape), sh = { full := true, vec := d ≠ 0 || a ≠ 0 || b ≠ 0 } → Ready sh s →
      let e := s.extended sh
      let x := e.cur.mask a
      let y := e.cur.mask b
      let ends := fun (v : Word) => (Host.Outcome.next (State.done { e with cur := e.cur.setMask d v } sh) : Out)
      exec (.mand d a b) s = ends (x &&& y) ∧ exec (.mor d a b) s = ends (x ||| y) ∧
      exec (.mxor d a b) s = ends (x ^^^ y) ∧ exec (.mandn d a b) s = ends (x &&& ~~~y))

/-- Vector conversions (R133 to R138): VCVT and VDQMX lane by lane, VLUT and VENC through the table, VQMX and VSEXP an image
with its scale at byte 48 and zeroes elsewhere. -/
def Obligations.VectorConversions : Prop :=
  ∀ (d a : VReg) (n : BitVec 5) (k : BitVec 2) (t m : BitVec 4) (s : State), t.toNat < 4 → Ready .vector s →
    let w := laneBits t.toNat
    let W := FFmt.ofType t.toNat
    let wn := widthOfCode n.toNat
    let e := s.extended .vector
    let va := e.cur.vec a
    let rm := Rm.ofCode (s.cur.fmtctl.toNat % 4)
    let sat := s.cur.fmtctl.getLsbD 2
    let table := s.lutTable s.here k.toNat
    let lanes := fun (i : Instr) (r : Nat → Nat × FFlags) => ∃ u, exec i s = .next u ∧ MaskedResult e .vector d w m r u
    let union := fun (fl : FFlags) (r : Nat → FFlags) =>
      ∀ j, j < 5 → (fl.getLsbD j = true ↔ ∃ i, i < 512 / w ∧ (r i).getLsbD j = true)
    (∀ N, Fmt.ofCode n.toNat = some N → lanes (.vcvt d a n t m) fun i => round W rm false (N.val (fun _ => 0) (packed va wn i))) ∧
    (∀ N, Fmt.ofCode n.toNat = some (.float N) →
      lanes (.vdqmx d a n t m) fun i => mxDequant N W (packed va wn i) (va.toNat / 2 ^ 384 % 256) rm) ∧
    (∃ u, exec (.vlut d a k t m) s = .next u ∧ MaskedResult e .vector d w m
      (fun i => ((round W rm false (lutVal (table (packed va 8 i)))).1, .none)) u) ∧
    (∃ v fl, exec (.venc d a k t) s = .next (e.doneVec .vector d v fl) ∧
      (∀ i, i < 64 → packed v 8 i = if i < 512 / w then (lutEncode table (W.decode (lane va w i))).1 else 0) ∧
      union fl fun i => (lutEncode table (W.decode (lane va w i))).2) ∧
    (∀ N, Fmt.ofCode n.toNat = some (.float N) → 5 ≤ n.toNat → n.toNat ≤ 9 → t ≠ 0 →
      let q := mxQuant N sat ((List.range (512 / w)).map fun i => W.decode (lane va w i))
      ∃ v, exec (.vqmx d a n t) s = .next (e.doneVec .vector d v q.2.2) ∧
        (∀ i, i < 512 / w → packed v wn i = (q.2.1.getD i 0) % 2 ^ wn) ∧ v.toNat / 2 ^ 384 = q.1 % 256 ∧
        v.toNat % 2 ^ 384 < 2 ^ (512 / w * wn)) ∧
    (∀ N, Fmt.ofCode n.toNat = some N → 0 < wn → wn ≤ w →
      let c : Nat := (e.cur.vec d).toNat / 2 ^ 384 % 256
      let r := fun (i : Nat) => if c = 255 then (0, FFlags.nv)
        else N.enc (fun _ => 0) rm sat ((W.decode (lane va w i)).scale (127 - (c : Int)))
      ∃ v fl, exec (.vsexp d a n t) s = .next (e.doneVec .vector d v fl) ∧
        (∀ i, i < 512 / w → packed v wn i = (r i).1 % 2 ^ wn) ∧ (512 / w * wn ≤ 384 → v.toNat / 2 ^ 384 = c) ∧
        (512 / w * wn ≤ 384 → v.toNat % 2 ^ 384 < 2 ^ (512 / w * wn)) ∧ union fl fun i => (r i).2)

/-- Special functions, reduction and data movement (R140 to R143): the lanes of VSFU, with the special values of EXP2, LOG2,
RCP and RSQRT; the tree of VRED on the lanes with the identity in the inactive ones; VPERM, VBCAST, VEXT, VINS, VHASH
and VPOPC. What VSFU gives between its special and exact cases is a free value within its bound (log 5). -/
def Obligations.VectorMisc : Prop :=
  ∀ (d a b : VReg) (x y : Reg) (f o : BitVec 5) (t m : BitVec 4) (m3 : BitVec 3) (s : State),
    let w := laneBits t.toNat
    let e := s.extended .vector
    let va := lane (e.cur.vec a) w
    let vb := lane (e.cur.vec b) w
    let lanes := fun (i : Instr) (r : Nat → Nat) =>
      ∃ u, exec i s = .next u ∧ MaskedResult e .vector d w m (fun i => (r i, .none)) u
    (Ready .vector s →
      (t.toNat < 4 → ∃ u, exec (.vsfu d a f t m) s = .next u ∧ MaskedResult e .vector d w m
        (fun i => Sfu.lane f.toNat t.toNat (Rm.ofCode (s.cur.fmtctl.toNat % 4)) (s.cur.fmtctl.getLsbD 3) (va i)) u) ∧
      lanes (.vperm d a b t m) (fun i => va (vb i % (512 / w))) ∧
      (10 ≤ t.toNat → lanes (.vhash d a b t m) (fun i =>
        let h := va i * (vb i ||| 1) % 2 ^ w
        h ^^^ (h / 2 ^ (w / 2)))) ∧
      lanes (.vpopc d a t m) (fun i => (List.range w).countP fun j => va i / 2 ^ j % 2 = 1) ∧
      let M := e.cur.mask m3
      let q := treeReduce (redOp o.toNat t (Rm.ofCode (s.cur.fmtctl.toNat % 4)) (s.cur.fmtctl.getLsbD 3))
        (Nat.log2 (512 / w)) ((List.range (512 / w)).map fun i =>
          if M.getLsbD (w / 8 * i) = true then va i else redIdentity o.toNat t) .none
      ∃ v, exec (.vred d a o t m3) s = .next (e.doneVec .vector d v q.2) ∧ v.toNat = q.1 % 2 ^ w) ∧
    (∀ rm ftz, ∀ F : FFmt, ∀ c, c < 4 → F = FFmt.ofType c →
      let inf := fun (neg : Bool) => F.signBit neg + (2 ^ F.ebits - 1) * 2 ^ F.mbits
      Sfu.lane 0 c rm ftz (inf true) = (0, .none) ∧ Sfu.lane 0 c rm ftz (inf false) = (inf false, .none) ∧
      (∀ neg, Sfu.lane 1 c rm ftz (F.signBit neg) = (inf true, .dz)) ∧
      Sfu.lane 1 c rm ftz (inf true) = (F.defaultNaN, .nv) ∧ Sfu.lane 1 c rm ftz (inf false) = (inf false, .none) ∧
      (∀ neg, Sfu.lane 2 c rm ftz (F.signBit neg) = (inf neg, .dz)) ∧
      (∀ neg, Sfu.lane 2 c rm ftz (inf neg) = (F.signBit neg, .none)) ∧
      (∀ neg, Sfu.lane 3 c rm ftz (F.signBit neg) = (inf neg, .dz)) ∧
      Sfu.lane 3 c rm ftz (inf false) = (0, .none)) ∧
    (∀ sh : Shape, sh = { srcs := [x], full := true, vec := true } → Ready sh s →
      ∃ u, exec (.vbcast d x t m) s = .next u ∧ MaskedResult e sh d w m (fun _ => ((s.source sh 0).toNat, .none)) u) ∧
    (∀ sh : Shape, sh = { srcs := [y], dst := some x, full := true, vec := true } → Ready sh s →
      let r := va ((s.source sh 0).toNat % (512 / w))
      exec (.vext x a y t) s = .next (e.doneWith sh (if 8 ≤ t.toNat ∧ t.toNat < 12 then BitVec.ofInt 64 (signedOf w r) else BitVec.ofNat 64 r))) ∧
    (∀ sh : Shape, sh = { srcs := [x, y], full := true, vec := true } → Ready sh s →
      ∃ v, exec (.vins d x y t) s = .next (e.doneVec sh d v .none) ∧ ∀ i, i < 512 / w →
        lane v w i = if i = (s.source sh 1).toNat % (512 / w) then (s.source sh 0).toNat % 2 ^ w else lane (e.cur.vec d) w i)

/-- Vector loads (R128, R228 to R231): VLD, VLDS and VGATH form each lane's address as ADDA does, check every active lane
before any is read, and write vd when all have been read; the first lane that is not aligned traps; VLDT reads the
elements of its pointer and converts them, its flags those of every active lane. -/
def Obligations.VectorLoads : Prop :=
  ∀ (d ix : VReg) (a b : Reg) (t m : BitVec 4) (s : State),
    let w := laneBits t.toNat
    let one : Shape := { srcs := [a], full := true, vec := true }
    let two : Shape := { srcs := [a, b], full := true, vec := true }
    let e := s.extended one
    let idx := fun (i : Nat) =>
      if 8 ≤ t.toNat ∧ t.toNat < 12 then signedOf w (lane (e.cur.vec ix) w i) else (lane (e.cur.vec ix) w i : Int)
    let active := fun (i : Nat) => (e.cur.mask (m.setWidth 3)).getLsbD (w / 8 * i)
    let lanes := (List.range (512 / w)).filter active
    let filled := fun (x : BitVec 512) (vals : List Nat) =>
      (∀ k, k < lanes.length → lane x w (lanes.getD k 0) = vals.getD k 0 % 2 ^ w) ∧
      ∀ i, i < 512 / w → active i = false → lane x w i = if m.getLsbD 3 = true then 0 else lane (e.cur.vec d) w i
    (∀ x ∈ [(Instr.vld d a t m, one, fun (i : Nat) => addAddr (s.source one 0) ((w / 8 * i : Nat) : Int)),
        (.vlds d a b t m, two, fun i => addAddr (s.source two 0) ((i : Int) * (s.source two 1).toInt)),
        (.vgath d a ix t m, one, fun i => addAddr (s.source one 0) (((w / 8 : Nat) : Int) * idx i))],
      Ready x.2.1 s →
        (∀ pre i post accs u, lanes = pre ++ i :: post →
          LocatesAll .load (w / 8) e (pre.map fun j => (x.2.2 j, w / 8)) accs u → (x.2.2 i).toNat % 2 ^ 56 % (w / 8) ≠ 0 →
          exec x.1 s = .next (e.trap 0x03 [x.2.2 i])) ∧
        ∀ accs u bs v, LocatesAll .load (w / 8) e (lanes.map fun i => (x.2.2 i, w / 8)) accs u → ReadsAll u accs bs v →
          ∃ r, exec x.1 s = .next (v.doneVec x.2.1 d r .none) ∧ filled r (bs.map leVal)) ∧
    (Ready one s → ∀ (es : List Elem) accs u bs v, lanes.map (fun i => elem (s.source one 0) i) = es.map .ok →
      LocatesAll .load 1 e (es.flatMap fun x => parts x.addr x.nb) accs u → ReadsAll u accs bs v →
      let rs := (es.zip (regroup es bs)).map fun x => e.toLane x.1 t (x.2 / 2 ^ x.1.sh % 2 ^ x.1.w)
      ∃ r, exec (.vldt d a t m) s = .next (v.doneVec one d r (orFlags rs)) ∧ filled r (rs.map (·.1)))

/-- Vector stores (R128, R228 to R232): every active lane is located before any enters the store queue, in lane order; the
lanes of one 8-byte granule enter it together; VSCAT leaves out the lanes marked in VPROG and clears it;
VSTT converts each lane, and puts an element of less than 8 bits into the bytes it shares. -/
def Obligations.VectorStores : Prop :=
  ∀ (d ix : VReg) (a b : Reg) (t : BitVec 4) (m : BitVec 3) (s : State),
    let w := laneBits t.toNat
    let one : Shape := { srcs := [a], full := true, vec := true }
    let two : Shape := { srcs := [a, b], full := true, vec := true }
    let e := s.extended one
    let idx := fun (i : Nat) =>
      if 8 ≤ t.toNat ∧ t.toNat < 12 then signedOf w (lane (e.cur.vec ix) w i) else (lane (e.cur.vec ix) w i : Int)
    let active := (List.range (512 / w)).filter fun i => (e.cur.mask m).getLsbD (w / 8 * i)
    let bytes := fun (i : Nat) => leBytes (lane (e.cur.vec d) w i) (w / 8)
    (∀ x ∈ [(Instr.vst d a t m, one, fun (i : Nat) => addAddr (s.source one 0) ((w / 8 * i : Nat) : Int), active, false),
        (.vsts d a b t m, two, fun i => addAddr (s.source two 0) ((i : Int) * (s.source two 1).toInt), active, false),
        (.vscat d a ix t m, one, fun i => addAddr (s.source one 0) (((w / 8 : Nat) : Int) * idx i),
          active.filter (fun i => !e.cur.vprog.getLsbD i), true)],
      Ready x.2.1 s → ∀ accs u v, LocatesAll .store (w / 8) e (x.2.2.2.1.map fun i => (x.2.2.1 i, w / 8)) accs u →
        Puts accs (x.2.2.2.1.map bytes) (.unsigned 8) u v →
        exec x.1 s = .next (State.done (if x.2.2.2.2 = true then { v with cur := v.cur.setVprog 0 } else v) x.2.1)) ∧
    (Ready one s → ∀ es : List Elem, active.map (fun i => elem (s.source one 0) i) = es.map .ok →
      let f := (s.source one 0).toNat / 2 ^ 59
      let as := es.flatMap fun x => parts x.addr x.nb
      let rs := (es.zip active).map fun x => e.fromLane x.1 t (lane (e.cur.vec d) w x.2)
      ∀ accs u, LocatesAll .store 1 e as accs u → (∀ x ∈ accs, stepRefuses x.spot f (elemWidth f) = false) →
        (8 ≤ elemWidth f → ∀ v, PutsElems f ((es.zip rs).map fun x => (x.1, x.2.1)) u v →
          exec (.vstt d a t m) s = .next ((v.raise (orFlags rs)).done one)) ∧
        (elemWidth f < 8 → ∀ accs2 u2 bs u3 v, LocatesAll .load 1 e as accs2 u2 → ReadsAll u2 accs2 bs u3 →
          PutsElems f (packStores ((es.zip ((rs.map (·.1)).zip (regroup es bs))).map fun x => (x.1, x.2.1, x.2.2)) []) u3 v →
          exec (.vstt d a t m) s = .next ((v.raise (orFlags rs)).done one)))

/-- VAMO (R220, R228 to R232): the lanes not marked in VPROG are located together, then performed in order, each seeing
what the one before it left; vd receives the old values, and VPROG ends clear. -/
def Obligations.VectorAtomics : Prop :=
  ∀ p ∈ amoTable, ∀ (d ix : VReg) (a : Reg) (o m : BitVec 4) (s : State), p.2.1.code = o.toNat → o.toNat < 9 →
    let sh : Shape := { srcs := [a], full := true, vec := true }
    let e := s.extended sh
    let active := (List.range 8).filter fun i => (e.cur.mask (m.setWidth 3)).getLsbD (8 * i)
    let lanes := active.filter fun i => !e.cur.vprog.getLsbD i
    let addr := fun (i : Nat) => addAddr (s.source sh 0) ((8 * lane (e.cur.vec ix) 64 i : Nat) : Int)
    Ready sh s → ∀ accs t u olds v, LocatesAll (.amo p.2.1.code) 8 e (lanes.map fun i => (addr i, 8)) accs t →
      Drained t .stores → ReservesAll t accs u →
      PerformsAll p.2.1 (p.2.2 8) (lane (e.cur.vec d) 64) u (lanes.zip accs) olds v →
      ∃ r, exec (.vamo d a ix o m) s = .next (State.doneVec { v with cur := v.cur.setVprog 0 } sh d r .none) ∧
        (∀ k, k < lanes.length → lane r 64 (lanes.getD k 0) = olds.getD k 0 % 2 ^ 64) ∧
        ∀ i, i < 8 → i ∉ lanes →
          lane r 64 i = if i ∉ active ∧ m.getLsbD 3 = true then 0 else lane (e.cur.vec d) 64 i

/-- TIS, TWAIT, TSTAT and SETLUT (R70, R71, R139, R146, R147, R165, R166): the pool index checked, the template read and
checked, its three addresses patched modulo 2^56, the queue's next tag, the tiles taken; the wait for room and for
commands; the counts of TSTAT; a table replaced whole. -/
def Obligations.TileIssue : Prop :=
  ∀ (d a b : Reg) (i : BitVec 11) (s : State),
    let full : Shape := { full := true }
    (∀ sh : Shape, sh = { srcs := [a, b, d], full := true } → Ready sh s →
      let count := s.cur.pool.toNat / 2 ^ 20 % 2 ^ 12
      let pa := 32 * (s.cur.pool.toNat / 2 ^ 5 % 2 ^ 14) + 32 * i.toNat
      (count ≤ i.toNat → exec (.tis d a b i) s = .next (s.trap 0x05 [BitVec.ofNat 64 i.toNat])) ∧
      (i.toNat < count → ∀ accs bss t, accs = (List.range 4).map (fun j =>
          ({ ea := BitVec.ofNat 64 (0x00C0000000000000 + pa), n := 8, spot := .mem (locSpad s.here (pa + 8 * j)) none } : Acc)) →
        ReadsAll s accs bss t →
        let w : BitVec 256 := BitVec.ofNat 256 (leVal bss.flatten)
        let o := w.toNat % 256
        let queue := if 0x40 ≤ o then (t.core s.here).copyQ else (t.core s.here).tileQ
        (8 < o → o < 0x40 ∨ 0x42 < o → exec (.tis d a b i) s = .next (s.trap 0x01 [BitVec.ofNat 64 (3 * 2 ^ 11 + i.toNat)])) ∧
        (o ≤ 8 ∨ (0x40 ≤ o ∧ o ≤ 0x42) → (w.toNat / 2 ^ 30 % 4 = 0 ∨ o = 3) →
          (reservedFormat w = true → exec (.tis d a b i) s = .next (s.trap 0x04 [BitVec.ofNat 64 i.toNat])) ∧
          (reservedFormat w = false → queue.length < 16 → (∀ n ∈ namedTiles w, t.tileTaken t.self n = false) →
            ∃ (u : State) (c : Cmd), exec (.tis d a b i) s = .next (u.done sh) ∧
              (if 0x40 ≤ o then (u.core s.here).copyQ else (u.core s.here).tileQ) = queue ++ [c] ∧
              c.word.extractLsb' 0 64 = w.extractLsb' 0 64 ∧
              c.word.extractLsb' 64 56 = w.extractLsb' 64 56 + (s.source sh 2).extractLsb' 0 56 ∧
              c.word.extractLsb' 120 16 = w.extractLsb' 120 16 ∧
              c.word.extractLsb' 136 56 = w.extractLsb' 136 56 + (s.source sh 0).extractLsb' 0 56 ∧
              c.word.extractLsb' 192 56 = w.extractLsb' 192 56 + (s.source sh 1).extractLsb' 0 56 ∧
              c.word.extractLsb' 248 8 = w.extractLsb' 248 8 ∧ c.owner = s.self ∧ c.index = i.toNat ∧ c.units = 0 ∧
              (∀ q ∈ queue, q.tag ≠ c.tag) ∧ u.mem = t.mem ∧
              ∀ n, n < 8 → u.cur.tileown.getLsbD n = (s.cur.tileown.getLsbD n || (namedTiles w).contains n)) ∧
          (reservedFormat w = false → 16 ≤ queue.length → ∃ vs, exec (.tis d a b i) s =
            .next ((t.park 5 (.room (decide (0x40 ≤ o))) (.after vs 0 0) none).keepWords (s.portWords [a, b, d])))))) ∧
    (∀ m : BitVec 8, Ready full s →
      let own := s.commandsOf s.self
      let waits := if m = 0 then own ≠ [] else ∃ c ∈ own, ∃ n ∈ namedTiles c.word, m.getLsbD n = true
      (waits → exec (.twait m) s = .next (s.park 5 .engines .fresh none)) ∧
      (¬waits → s.openTape = none → exec (.twait m) s = .next (s.done full)) ∧
      (¬waits → ∃ u : State, exec (.twait m) s = .next (u.done full) ∧ u.cur.g = s.cur.g ∧ u.mem = s.mem)) ∧
    (∀ sh : Shape, sh = { dst := some d, full := true } → Ready sh s →
      let mine := fun (q : List Cmd) => q.filter fun c => c.owner = s.self ∧ c.pid = s.cur.pid
      let own := mine (s.core s.here).tileQ ++ mine (s.core s.here).copyQ
      ∃ v : Word, exec (.tstat d) s = .next (s.doneWith sh v) ∧
        ((s.core s.here).tileQ.length ≤ 16 → (s.core s.here).copyQ.length ≤ 16 →
          v.toNat % 32 = (mine (s.core s.here).tileQ).length ∧ v.toNat / 32 % 32 = (mine (s.core s.here).copyQ).length ∧
          (∀ n, n < 8 → (v.getLsbD (10 + n) = true ↔ ∃ c ∈ own, n ∈ namedTiles c.word)) ∧
          (v.getLsbD 18 = true ↔ ∃ c ∈ own, c.faulted = true) ∧ v.getLsbD 19 = false ∧ v.toNat < 2 ^ 28)) ∧
    (∀ (t : BitVec 2) (sh : Shape), sh = { srcs := [a], full := true } → Ready sh s →
      ∀ o key u bs, s.classify s.here s.cur.domain.toNat s.cur.supv (s.source sh 0) 1024 .read =
          (.ok (.mem (locSpad s.here o) key), u) → o + 1024 ≤ 393216 → (s.source sh 0).toNat % 64 = 0 →
        let x := s.settle s.here (homesOf (locSpad s.here o) 1024)
        x.lutSource (locSpad s.here o) [] (upTo 128) [] = some (.inl bs) → bs.length = 1024 →
        ∃ v : State, exec (.setlut a t) s = .next (v.done sh) ∧
          (∀ k, k < 256 → (v.lutTable x.here t.toNat k).toNat = leVal ((bs.drop (4 * k)).take 4) / 2 ^ 13) ∧
          (∀ t' k, t' ≠ t.toNat → k < 256 → v.lutTable x.here t' k = x.lutTable x.here t' k) ∧
          ∀ c, c ≠ x.here → ∀ t' k, v.lutTable c t' k = x.lutTable c t' k)

/-- The checks of a channel handle (R46, R285, R349, R375): an endpoint of another core, a handle its home refuses (counted
where CHECK differs), a peer that was lost, an end in DESYNC; an end without a peer makes its issuer wait with WAITK 1
and begin again. -/
def Obligations.ChannelHandles : Prop :=
  ∀ (d a b : Reg) (p : PReg) (s : State),
    let ab : Shape := { srcs := [a, b] }
    let dab : Shape := { srcs := [a, b], dst := some d }
    let da : Shape := { srcs := [a], dst := some d }
    let src : Shape := { srcs := [a, b], dsrc := some d }
    let moving := [(Instr.outWord a b, ab), (.outBlock d a b, src), (.tkt d a, da), (.tktw a b, ab), (.claim d a b p, dab),
      (.claimNb d a b p, dab), (.commit d a b, src), (.await d a b p, dab), (.awaitNb d a b p, dab), (.retire a b, ab)]
    let receiving := [(Instr.inWord d a, da), (.inBlock d a b, dab), (.chbind d a b, dab)]
    (∀ x ∈ moving ++ receiving ++ [(.chfree a, { srcs := [a] }), (.chsync d a, da)], Ready x.2 s →
      let h := s.source x.2 0
      (coreOfEp (epOfHandle h) ≠ s.here → exec x.1 s = .next (s.trap 0x0A [h, 1])) ∧
      (coreOfEp (epOfHandle h) = s.here → s.accepts h s.cur.domain = false →
        exec x.1 s = .next ((s.countRefusal h).trap 0x0A [h, 0]))) ∧
    (∀ x ∈ moving ++ receiving, Ready x.2 s →
      let h := s.source x.2 0
      let e := epOfHandle h
      OwnEp s h →
        (∀ r, (s.ep e).linkReason = some r → exec x.1 s = .next (s.linkTrap e r)) ∧
        ((s.ep e).linkReason = none → (s.ep e).state = 3 → exec x.1 s = .next (s.desyncTrap e))) ∧
    (∀ h : Word, (s.ep (epOfHandle h)).state = 0 ∨ (s.ep (epOfHandle h)).gen.toNat ≠ h.toNat / 2 ^ 20 % 2 ^ 14 ∨
      (s.ep (epOfHandle h)).domain ≠ s.cur.domain ∨ s.badCheck h = true → s.accepts h s.cur.domain = false) ∧
    (Ready ab s → ∀ x, Usable s (s.source ab 0) x → x.state = 1 → x.cls = 0 → x.mode = 0 → x.dir = true →
      exec (.outWord a b) s = .next (s.parkEp 1 (epOfHandle (s.source ab 0)) .fresh none))

/-- OUT and IN (R183, R251, R253, R287): a word through a port's FIFO, or an offer after the drain of the channel's scope and
the wait for its acknowledgement; a word taken from the FIFO, of those that no instruction in
progress has taken, or from the offer held, or the wait for one. A
process that an ALTW has chosen, else the one that waits first, comes before any other (R253, R258). -/
def Obligations.ChannelWords : Prop :=
  ∀ (d a b : Reg) (s : State),
    let ab : Shape := { srcs := [a, b] }
    let da : Shape := { srcs := [a], dst := some d }
    let parks := fun (sh : Shape) (t : State) => (Host.Outcome.next (t.keepWords (s.portWords sh.srcs)) : Out)
    (Ready ab s →
      let h := s.source ab 0
      let v := s.source ab 1
      let e := epOfHandle h
      let u := s.operated e
      ∀ x, Usable s h x → x.state ≠ 1 → x.cls = 0 → x.dir = true →
        let r := epOfHandle x.peer
        (x.mode = 0 ∨ x.mode = 1 → s.isPorted e = true →
          ((u.ep r).fifo.length < 16 → Drained u .corePoint → exec (.outWord a b) s =
            .next ((((u.modEp r fun y => { y with fifo := y.fifo ++ [v] }).wakeEp r).leaveEp e).done ab)) ∧
          (16 ≤ (u.ep r).fifo.length → exec (.outWord a b) s = parks ab (u.parkEpAfter 1 e [h, v] 0 none))) ∧
        (x.mode = 0 → s.isPorted e = false →
          (u.behind x = false → Drained u (drainBetween s.here r) →
            exec (.outWord a b) s = parks ab ((u.send (.core s.here) (.core (coreOfEp r)) .channel
              (.offer r (.word s.self s.cur.pid v))).parkEpAfter 1 e [h, v] 0 none)) ∧
          (u.behind x = true → exec (.outWord a b) s = .next (u.parkEp 1 e .fresh none)))) ∧
    (∀ h v w, Resumed ab s [h, v] w 1 → exec (.outWord a b) s = .next ((s.leaveEp (epOfHandle h)).done ab)) ∧
    (Ready da s →
      let h := s.source da 0
      let e := epOfHandle h
      let u := s.operated e
      ∀ x, Usable s h x → x.cls = 0 → x.dir = false → x.state ≠ 1 ∨ x.mode = 0 → u.behind x = false →
        (∀ w r, x.free = w :: r → x.mode = 0 ∨ x.mode = 1 → exec (.inWord d a) s = .next
          ((((u.modEp e fun y => { y with fifo := y.fifo.take y.held ++ r }).wakeEp (epOfHandle x.peer)).leaveEp e).doneWith da w)) ∧
        (x.free = [] → x.mode = 0 →
          (∀ k pid v, x.offer = some (.word k pid v) → exec (.inWord d a) s = .next
            ((((u.modEp e fun y => { y with offer := none }).acknowledge s.here k pid).leaveEp e).doneWith da v)) ∧
          (x.offer = none → exec (.inWord d a) s = parks da (u.parkEpAfter 1 e [h] 0 none)))) ∧
    (∀ h v, Resumed da s [h] v 1 → exec (.inWord d a) s = .next ((s.leaveEp (epOfHandle h)).doneWith da v))

/-- OUTB and INB (R183, R253, R288): the length of the class, the pointer into the own scratchpad with its alignment and its
bound, the offer of the block and the start of its transfer into the waiting buffer. -/
def Obligations.ChannelBlocks : Prop :=
  ∀ (d a b : Reg) (s : State),
    let src : Shape := { srcs := [a, b], dsrc := some d }
    let dab : Shape := { srcs := [a, b], dst := some d }
    let parks := fun (sh : Shape) (t : State) => (Host.Outcome.next (t.keepWords (s.portWords sh.srcs)) : Out)
    let tile := fun (x : Endpoint) => (x.shape.toNat % 2 ^ 16 * (x.shape.toNat / 2 ^ 16) * elemWidth x.fmt + 7) / 8
    (Ready src s →
      let h := s.source src 0
      let p := s.source src 1
      let e := epOfHandle h
      let u := s.operated e
      ∀ x, Usable s h x → x.state ≠ 1 → x.cls ≠ 0 → x.mode = 0 → x.dir = true →
        let len := if x.cls = 2 then tile x else (s.cur.reg d).toNat
        let r := epOfHandle x.peer
        (x.cls = 1 → x.shape.toNat < len → exec (.outBlock d a b) s = .next (u.trap 0x0B [h, 4])) ∧
        (x.cls = 2 ∨ len ≤ x.shape.toNat →
          (ownOffset s.here p = none → exec (.outBlock d a b) s = .next (u.trap 0x05 [p])) ∧
          (∀ o, ownOffset s.here p = some o → o % 8 ≠ 0 → exec (.outBlock d a b) s = .next (u.trap 0x03 [p])) ∧
          (∀ o, InOwnPad s p 8 len o → u.behind x = false →
            Drained u (drainBetween s.here r) → exec (.outBlock d a b) s =
              parks src ((u.send (.core s.here) (.core (coreOfEp r)) .channel
                (.offer r (.block s.self s.cur.pid (locSpad s.here o) len))).parkEpAfter 1 e [h, p] 0 none)))) ∧
    (∀ h p w, Resumed src s [h, p] w 1 → exec (.outBlock d a b) s = .next ((s.leaveEp (epOfHandle h)).done src)) ∧
    (Ready dab s →
      let h := s.source dab 0
      let p := s.source dab 1
      let e := epOfHandle h
      let u := s.operated e
      ∀ x o, Usable s h x → x.cls ≠ 0 → x.mode = 0 → x.dir = false → u.behind x = false →
        InOwnPad s p 8 (if x.cls = 2 then tile x else x.shape.toNat) o →
        (∀ k pid loc len, x.offer = some (.block k pid loc len) → exec (.inBlock d a b) s = parks dab
          (((u.modEp e fun y => { y with offer := none }).startBlock e k pid loc len s.self
            (locSpad s.here o)).parkEpAfter 1 e [h, p] 3 none)) ∧
        (x.offer = none → exec (.inBlock d a b) s = parks dab (u.parkEpAfter 1 e [h, p] 0 none))) ∧
    (∀ h p v, Resumed dab s [h, p] v 1 → exec (.inBlock d a b) s = .next ((s.leaveEp (epOfHandle h)).doneWith dab v))

/-- CHNEW, CHBIND, CHFREE, CHSTAT and CHSYNC (R46, R47, R289 to R293): the lowest free entry with the descriptor's and the
configuration's fields, and its handle; the BIND request and its answer; the entry freed; the words of CHSTAT; the
restoring of a channel from DESYNC by both ends. -/
def Obligations.ChannelSetup : Prop :=
  ∀ (d a b : Reg) (s : State),
    let dab : Shape := { srcs := [a, b], dst := some d }
    let da : Shape := { srcs := [a], dst := some d }
    let parks := fun (sh : Shape) (t : State) => (Host.Outcome.next (t.keepWords (s.portWords sh.srcs)) : Out)
    (Ready dab s →
      let x := s.source dab 0
      let y := s.source dab 1
      let base := s.here * 1024
      (badDescriptor x = true → exec (.chnew d a b) s = .next (s.trap 0x0B [x, 6])) ∧
      (badDescriptor x = false → y.toNat / 4 % 4 = 3 → s.cur.supv = false → exec (.chnew d a b) s = .next (s.trap 0x02 [])) ∧
      (badDescriptor x = false → (y.toNat / 4 % 4 ≠ 3 ∨ s.cur.supv = true) →
        (badConfig x y (ctxBase (s.core s.here)) = true → exec (.chnew d a b) s = .next (s.trap 0x05 [y])) ∧
        (badConfig x y (ctxBase (s.core s.here)) = false →
          ((∀ i, i < 1024 → (s.ep (base + i)).state ≠ 0) → exec (.chnew d a b) s = .next (s.doneWith dab 0)) ∧
          (∀ i, i < 1024 → (s.ep (base + i)).state = 0 → (∀ j, j < i → (s.ep (base + j)).state ≠ 0) →
            ∃ (n : Endpoint) (t : State), t = s.setEp (base + i) n ∧
              exec (.chnew d a b) s = .next (t.doneWith dab (t.epHandle (base + i))) ∧
              n.state = 1 ∧ n.mode = y.toNat / 4 % 4 ∧ n.dir = y.getLsbD 4 ∧ n.nb = y.getLsbD 5 ∧
              n.cls = x.toNat / 64 % 4 ∧ n.fmt = x.toNat / 256 % 32 ∧ n.shape.toNat = x.toNat / 2 ^ 32 ∧
              n.tlimit.toNat = y.toNat / 2 ^ 32 ∧ n.rbase = y.toNat / 64 % 2 ^ 13 ∧ n.rlen = y.toNat / 2 ^ 19 % 2 ^ 13 ∧
              n.domain = s.cur.domain ∧ n.gen = (s.ep (base + i)).gen ∧ n.head = 0 ∧ n.tail = 0 ∧ n.nextt = 0 ∧ n.peer = 0)))) ∧
    (Ready dab s →
      let h := s.source dab 0
      let peer := s.source dab 1
      let e := epOfHandle h
      let r := epOfHandle peer
      let u := s.operated e
      ∀ x, Usable s h x →
        (s.reachable (pkgOf s.here) (pkgOf (coreOfEp r)) = false → exec (.chbind d a b) s = .next (u.trap 0x0A [peer, 0])) ∧
        (s.reachable (pkgOf s.here) (pkgOf (coreOfEp r)) = true → s.dieUp (dieOfCore (coreOfEp r)) = true →
          Drained u (drainBetween s.here r) → exec (.chbind d a b) s =
            parks dab ((u.send (.core s.here) (.core (coreOfEp r)) .channel (.bind s.self s.cur.pid h peer)).parkEp 1 e
              (.after [h, peer] 0 4) none))) ∧
    (∀ h peer v, Resumed dab s [h, peer] v 1 →
      exec (.chbind d a b) s = .next ((s.leaveEp (epOfHandle h)).doneWith dab v)) ∧
    (∀ sh : Shape, sh = { srcs := [a] } → Ready sh s →
      let h := s.source sh 0
      OwnEp s h →
        ((s.ep (epOfHandle h)).portv = true → exec (.chfree a) s = .next (s.trap 0x05 [h, 5])) ∧
        ((s.ep (epOfHandle h)).portv = false → exec (.chfree a) s = .next ((s.freeEp (epOfHandle h) 4).done sh))) ∧
    (Ready dab s →
      let h := s.source dab 0
      let sel := s.source dab 1
      let x := s.ep (epOfHandle h)
      let c := coreOfEp (epOfHandle h)
      let word : Word :=
        if sel = 0 then BitVec.ofNat 64 (x.state + x.mode * 4 + (if x.dir = true then 16 else 0) + (if x.nb = true then 32 else 0) +
          (if x.waiter.isSome = true ∨ x.offer.isSome = true ∨ x.syncing ≠ [] then 64 else 0) + (if x.portv = true then 128 else 0) +
          (if x.offer.isSome = true then 256 else 0) + x.head.toNat * 2 ^ 16 + x.tail.toNat * 2 ^ 32 + x.fifo.length * 2 ^ 48)
        else if sel = 1 then (if x.mode = 2 then BitVec.ofNat 64 (x.nextt.toNat + x.called.toNat * 2 ^ 32) else 0)
        else if sel = 2 then x.peer
        else if sel = 3 then BitVec.ofNat 64 (x.shape.toNat + x.tlimit.toNat * 2 ^ 32)
        else 0
      (c = s.here → s.accepts h s.cur.domain = true → exec (.chstat d a b) s = .next (s.doneWith dab word)) ∧
      (c = s.here → s.accepts h s.cur.domain = false →
        exec (.chstat d a b) s = .next ((s.countRefusal h).trap 0x0A [h, 0])) ∧
      (c ≠ s.here → s.reachable (pkgOf s.here) (pkgOf c) = false → exec (.chstat d a b) s = .next (s.trap 0x0A [h, 0])) ∧
      (c ≠ s.here → s.reachable (pkgOf s.here) (pkgOf c) = true → s.dieUp (dieOfCore c) = true →
        exec (.chstat d a b) s = parks dab ((s.send (.core s.here) (.core c) .channel
          (.remote (.chstat h sel s.cur.domain) s.self s.cur.pid)).parkAfter 1 .remote [h, sel] none))) ∧
    (∀ vals v m, Resumed dab s vals v m → exec (.chstat d a b) s = .next (s.doneWith dab v)) ∧
    (Ready da s →
      let h := s.source da 0
      let e := epOfHandle h
      let x := s.ep e
      OwnEp s h → x.linkReason = none →
        (x.state ≠ 3 → exec (.chsync d a) s = .next (s.doneWith da (BitVec.ofNat 64 (2 ^ 64 - 1)))) ∧
        (∀ r rs, x.state = 3 → x.syncPeer = r :: rs →
          let y := if x.dir = true then s.ep r else x
          exec (.chsync d a) s =
            .next ((s.restoreEnds e (r :: rs)).doneWith da (BitVec.ofNat 64 (y.tail - y.head).toNat))) ∧
        (x.state = 3 → x.syncPeer = [] → ∃ t : State, exec (.chsync d a) s =
          parks da (t.park 1 (.endpoint e) (.after [h] 0 0) none) ∧ s.self ∈ (t.ep e).syncing ∧
            (∀ k ∈ x.syncing, k ∈ (t.ep e).syncing) ∧ (x.peer = 0 ∨ x.syncing ≠ [] → t.msgs = s.msgs) ∧
            (x.peer ≠ 0 → x.syncing = [] → t = (s.modEp e fun y => { y with syncing := [s.self] }).send (.core s.here)
              (.core (coreOfEp (epOfHandle x.peer))) .channel (.chsync (epOfHandle x.peer) e)))) ∧
    (∀ h v, Resumed da s [h] v 1 → exec (.chsync d a) s = .next (s.doneWith da v))

/-- Tickets (R259, R294): TKT asks the ANY receiving end for NEXTT; TKTW goes on when its ticket has been called, and parks
with WAITK 11 until then; a second called ticket is refused. -/
def Obligations.ChannelTickets : Prop :=
  ∀ (d a b : Reg) (s : State),
    let ab : Shape := { srcs := [a, b] }
    let da : Shape := { srcs := [a], dst := some d }
    let parks := fun (sh : Shape) (t : State) => (Host.Outcome.next (t.keepWords (s.portWords sh.srcs)) : Out)
    (Ready da s →
      let h := s.source da 0
      let e := epOfHandle h
      ∀ x, Usable s h x → x.state ≠ 1 → x.mode = 2 → x.dir = true → exec (.tkt d a) s =
        parks da (((s.operated e).send (.core s.here) (.core (coreOfEp (epOfHandle x.peer))) .channel
          (.remote (.tkt (epOfHandle x.peer)) s.self s.cur.pid)).parkEpAfter 1 e [h] 0 none)) ∧
    (∀ h v, Resumed da s [h] v 1 → exec (.tkt d a) s = .next ((s.leaveEp (epOfHandle h)).doneWith da v)) ∧
    (Ready ab s →
      let h := s.source ab 0
      let t := (s.source ab 1).toNat % 2 ^ 32
      let e := epOfHandle h
      let u := s.operated e
      ∀ x, Usable s h x → x.state ≠ 1 → x.mode = 2 → x.dir = true →
        let r := epOfHandle x.peer
        let called := 2 ^ 31 ≤ (BitVec.ofNat 32 t - (u.ep r).called).toNat
        (x.ticket ≠ none → exec (.tktw a b) s = .next (u.trap 0x05 [h, 6])) ∧
        (x.ticket = none → called → exec (.tktw a b) s =
          .next (((u.modEp e fun y => { y with ticket := some t }).leaveEp e).done ab)) ∧
        (x.ticket = none → ¬called → exec (.tktw a b) s =
          parks ab (((u.joinEp e).modEp r fun y => { y with callers := y.callers ++ [(t, s.self)] }).parkAfter 11 (.ticket r t)
            [h, s.source ab 1] none)))

/-- Rings (R255, R257, R259, R295 to R297): CLAIM and AWAIT write the index of the first granule and set p when their
condition is met; the non-blocking forms clear p, the others park with WAITK 2, or with WAITK 1 on an end that is
not bound, until the limit; COMMIT sends the oldest
reserved granules and is woken when they have left; RETIRE advances HEAD and returns the granules. -/
def Obligations.ChannelRings : Prop :=
  ∀ (d a b : Reg) (p : PReg) (s : State),
    let dab : Shape := { srcs := [a, b], dst := some d }
    let src : Shape := { srcs := [a, b], dsrc := some d }
    let ab : Shape := { srcs := [a, b] }
    let slot := fun (x : Endpoint) => max 1 ((x.shape.toNat + 63) / 64)
    let good := fun (x : Endpoint) (n : Nat) => 1 ≤ n ∧ n ≤ x.rlen ∧ (x.mode = 2 → n = slot x)
    let met := fun (t : State) (index : Nat) =>
      (Host.Outcome.next (State.doneWith { t with cur := t.cur.setPred p true } dab (BitVec.ofNat 64 index)) : Out)
    let held := fun (x : Endpoint) (n : Nat) => if x.mode = 2 then
        (x.called - BitVec.ofNat 32 (x.rlen / slot x)).toNat ∈ x.slots else n ≤ (x.tail - x.head).toNat
    (Ready dab s →
      let h := s.source dab 0
      let n := (s.source dab 1).toNat
      let e := epOfHandle h
      let u := s.operated e
      let waits := fun (x : Endpoint) (k : BitVec 4) => (Host.Outcome.next (State.keepWords (if x.tlimit = 0 then
          u.parkEpAfter k e [h, s.source dab 1, BitVec.ofNat 64 0] 0 none
        else u.parkEpAfter k e [h, s.source dab 1, BitVec.ofNat 64 (s.now s.here + x.tlimit.toNat)] 0
          (some (s.now s.here + x.tlimit.toNat))) (s.portWords [a, b])) : Out)
      (∀ x, Usable s h x → x.state = 1 → x.mode ≠ 0 →
        (x.dir = true → ∀ i ∈ [Instr.claim d a b p, .claimNb d a b p],
          exec i s = if i = .claimNb d a b p ∨ x.nb = true then .next (u.doneWithPred ab p false) else waits x 1) ∧
        (x.dir = false → ∀ i ∈ [Instr.await d a b p, .awaitNb d a b p],
          exec i s = if i = .awaitNb d a b p ∨ x.nb = true then .next (u.doneWithPred ab p false) else waits x 1)) ∧
      ∀ x, Usable s h x → x.state ≠ 1 → x.mode ≠ 0 → good x n →
        let mine := ∀ k, u.chosenBy x = some k → k = s.self
        (x.dir = true → ∀ i ∈ [Instr.claim d a b p, .claimNb d a b p],
          (∀ t, x.mode = 2 → x.ticket = some t → exec i s =
            met ((u.modEp e fun y => { y with reserved := n }).leaveEp e) (slot x * (t % (x.rlen / slot x)))) ∧
          (x.mode = 2 → x.ticket = none → exec i s = .next (u.trap 0x05 [h, 6])) ∧
          (x.mode ≠ 2 → (x.tail - x.head).toNat + x.reserved + n ≤ x.rlen → exec i s =
            met ((u.modEp e fun y => { y with reserved := y.reserved + n }).leaveEp e)
              ((x.tail.toNat % x.rlen + x.reserved) % x.rlen)) ∧
          (x.mode ≠ 2 → x.rlen < (x.tail - x.head).toNat + x.reserved + n →
            exec i s = if i = .claimNb d a b p ∨ x.nb = true then .next (u.doneWithPred ab p false) else waits x 2)) ∧
        (x.dir = false → ∀ i ∈ [Instr.await d a b p, .awaitNb d a b p],
          (held x n → mine → exec i s = met (u.leaveEp e) (if x.mode = 2 then
            slot x * ((x.called - BitVec.ofNat 32 (x.rlen / slot x)).toNat % (x.rlen / slot x)) else x.head.toNat % x.rlen)) ∧
          (¬held x n ∨ ¬mine →
            exec i s = if i = .awaitNb d a b p ∨ x.nb = true then .next (u.doneWithPred ab p false) else waits x 2))) ∧
    (∀ i ∈ [Instr.claim d a b p, .await d a b p], ∀ h n dl v x, Resumed dab s [h, n, dl] v 0 → Usable s h x → x.state ≠ 1 →
      x.mode ≠ 0 → x.mode ≠ 2 → good x n.toNat → x.nb = false → dl ≠ 0 → dl.toNat ≤ s.now s.here →
      (i = .claim d a b p ∧ x.dir = true ∧ x.rlen < (x.tail - x.head).toNat + x.reserved + n.toNat) ∨
        (i = .await d a b p ∧ x.dir = false ∧ ¬held x n.toNat) →
      exec i s = .next ((s.operated (epOfHandle h)).trap 0x0E [h, x.head.setWidth 64, x.tail.setWidth 64])) ∧
    (Ready src s →
      let h := s.source src 0
      let n := (s.cur.reg d).toNat
      let e := epOfHandle h
      let u := s.operated e
      ∀ x o, Usable s h x → x.state ≠ 1 → x.mode ≠ 0 → x.dir = true → good x n →
        (x.reserved < n → exec (.commit d a b) s = .next (u.trap 0x05 [h, s.cur.reg d])) ∧
        (n ≤ x.reserved → InOwnPad s (s.source src 1) 64 (64 * n) o →
          let r := epOfHandle x.peer
          Drained u (if x.mode = 3 then .host else drainBetween s.here r) →
          let t := u.settle s.here (homesOf (locSpad s.here o) (64 * n))
          let start := match x.ticket with
            | some k => if x.mode = 2 then slot x * (k % (x.rlen / slot x)) else x.tail.toNat % x.rlen
            | none => x.tail.toNat % x.rlen
          ∃ v : State, v = (if x.mode = 3 then t.commitHost e x o n
              else t.send (.core t.here) (.core (coreOfEp r)) .channel
                (.commit r ((x.tail.toNat + n) % 2 ^ 16) n (t.ringData r x o start n) x.ticket)) ∧
            exec (.commit d a b) s = .next (State.keepWords (State.wake ((v.modEp e fun y =>
              { y with tail := y.tail + BitVec.ofNat 16 n, reserved := y.reserved - n, ticket := none }).park 2
                (.endpoint e) (.after [h, s.source src 1] 0 0) none) s.self 0 1) (s.portWords [a, b])))) ∧
    (∀ h p v, Resumed src s [h, p] v 1 → exec (.commit d a b) s = .next ((s.leaveEp (epOfHandle h)).done src)) ∧
    (Ready ab s →
      let h := s.source ab 0
      let n := (s.source ab 1).toNat
      let e := epOfHandle h
      ∀ x, Usable s h x → x.state ≠ 1 → x.mode ≠ 0 → x.dir = false → good x n →
        let head := x.head + BitVec.ofNat 16 n
        let t := ((s.operated e).modEp e fun y => { y with head := head }).leaveEp e
        (¬held x n → exec (.retire a b) s = .next ((s.operated e).trap 0x05 [h, s.source ab 1])) ∧
        (held x n → x.mode = 1 → exec (.retire a b) s = .next ((t.send (.core s.here) (.core (coreOfEp (epOfHandle x.peer)))
          .channel (.ret (epOfHandle x.peer) head.toNat n)).done ab)) ∧
        (held x n → x.mode = 2 → exec (.retire a b) s = .next (((t.modEp e fun y => { y with
          called := y.called + 1,
          slots := natErase y.slots (x.called - BitVec.ofNat 32 (x.rlen / slot x)).toNat }).wakeCallers e).done ab)) ∧
        (held x n → x.mode = 3 → ∃ v : State, exec (.retire a b) s = .next (v.done ab) ∧ (v.ep e).head = head))

/-- ALT (R258, R298 to R300): ALTS opens a construction with COUNT 0; ALTG and ALTT append a guard, a seventeenth is a
breach; ALTW and ALTW.F select the first ready guard in their order, which stays ready for the process, and close the
construction, or park with WAITK 3
until the earliest deadline; an empty or malformed area is a breach. -/
def Obligations.Alternatives : Prop :=
  ∀ (d a b : Reg) (s : State),
    let one : Shape := { srcs := [a], alt := 1 }
    let two : Shape := { srcs := [a, b], alt := 2 }
    let area := fun (o : Nat) => s.settle s.here (homesOf (locSpad s.here o) 264)
    let clean := fun (t : State) (o n : Nat) => ∀ i, i < n → natMem t.poison (locSpad s.here (o + 8 * i) / 8) = false
    let word := fun (t : State) (o i : Nat) => leVal (t.mem.read (locSpad t.here (o + 8 * i)) 8)
    (∀ o, Ready one s → InOwnPad s (s.source one 0) 8 264 o → Drained s .corePoint →
      let v := (area o).writeAt none (some (area o).here) (locSpad (area o).here o) (leBytes 0 8) none
      exec (.alts a) s = .next (State.done { v with cur := { v.cur with inalt := true } } one)) ∧
    (Ready two s → ∀ o, InOwnPad s (s.source two 0) 8 264 o →
      let v := s.source two 1
      (Drained s .corePoint → clean (area o) o 1 →
        let n := word (area o) o 0 % 32
        let put := fun (t : State) (i x : Nat) => t.writeAt none (some t.here) (locSpad t.here (o + 8 * i)) (leBytes x 8) none
        (16 ≤ n → exec (.altt a b) s = .next ((area o).trap 0x01 [5])) ∧
        (n < 16 → exec (.altt a b) s = .next ((put (put (put (area o) (1 + 2 * n) v.toNat) (2 + 2 * n) 1) 0
          ((BitVec.ofNat 64 (word (area o) o 0)).toNat + 1)).done two))) ∧
      (∀ x, Usable s v x → x.dir = true → exec (.altg a b) s = .next (s.trap 0x0B [v, 3])) ∧
      (∀ x, Usable s v x → x.dir = false →
        let u := s.operated (epOfHandle v)
        let area := u.settle u.here (homesOf (locSpad u.here o) 264)
        Drained u .corePoint → clean area o 1 →
        let n := word area o 0 % 32
        let put := fun (t : State) (i x : Nat) => t.writeAt none (some t.here) (locSpad t.here (o + 8 * i)) (leBytes x 8) none
        (16 ≤ n → exec (.altg a b) s = .next (area.trap 0x01 [5])) ∧
        (n < 16 → exec (.altg a b) s = .next ((put (put (put area (1 + 2 * n) v.toNat) (2 + 2 * n) 0) 0
          ((BitVec.ofNat 64 (word area o 0)).toNat + 1)).done two)))) ∧
    (∀ y ∈ [(Instr.altw d a, ({ srcs := [a], dst := some d, alt := 2 } : Shape), 0),
        (.altwF d a b, { srcs := [a, b], dst := some d, alt := 2 },
          (s.source { srcs := [a, b], dst := some d, alt := 2 } 1).toNat % 16)],
      Ready y.2.1 s → ∀ o, InOwnPad s (s.source y.2.1 0) 8 264 o → Drained s .corePoint →
      let t := area o
      let n := word t o 0 % 32
      let val := fun (i : Nat) => (BitVec.ofNat 64 (word t o (1 + 2 * i)) : Word)
      let timed := fun (i : Nat) => word t o (2 + 2 * i) % 2 = 1
      clean t o (1 + 2 * min 16 n) →
        (n = 0 ∨ 16 < n ∨ word t o 0 % 2 ^ 64 / 32 ≠ 0 ∨ (∃ i, i < n ∧ word t o (2 + 2 * i) % 2 ^ 64 / 2 ≠ 0) →
          exec y.1 s = .next (t.trap 0x01 [5])) ∧
        (0 < n → n ≤ 16 → word t o 0 % 2 ^ 64 / 32 = 0 → (∀ i, i < n → word t o (2 + 2 * i) % 2 ^ 64 / 2 = 0) →
          (∀ i, i < n → ¬timed i → ∃ x, Usable t (val i) x ∧ x.dir = false) →
          let chans := (List.range n).filter fun i => !decide (timed i)
          let eps := chans.map fun i => epOfHandle (val i)
          let u := eps.foldl (fun (t : State) e => t.operated e) t
          let ready := fun (i : Nat) => if timed i then (val i).toNat ≤ t.now t.here else
            let x := u.ep (epOfHandle (val i))
            u.behind x = false ∧ (x.offer ≠ none ∨ x.free ≠ [] ∨
              ((x.mode = 1 ∨ x.mode = 3) ∧ x.tail ≠ x.head) ∨ (x.mode = 2 ∧ x.headTicket ∈ x.slots))
          (∀ j, j < 16 → let i := (y.2.2 + j) % 16
            i < n → ready i → (∀ j', j' < j → (y.2.2 + j') % 16 < n → ¬ready ((y.2.2 + j') % 16)) →
            ∃ v : State, v = eps.foldl (fun (t : State) e => t.leaveOne t.self e)
                (if timed i then u else u.modEp (epOfHandle (val i)) fun x => { x with chosen := some (t.self, t.cur.pid) }) ∧
              exec y.1 s = .next (State.doneWith { v with cur := { v.cur with inalt := false } } y.2.1 (BitVec.ofNat 64 i))) ∧
          ((∀ i, i < n → ¬ready i) → ∃ dl, exec y.1 s =
              .next ((eps.foldl (fun (t : State) e => t.joinEp e) u).park 3 (.alt eps dl.isSome) .fresh dl) ∧
            (dl = none ↔ ∀ i, i < n → ¬timed i) ∧
            ∀ x, dl = some x → (∃ i, i < n ∧ timed i ∧ (val i).toNat = x) ∧ ∀ i, i < n → timed i → x ≤ (val i).toNat)))

/-- SPAWN (R49, R247, R283, R302, R303): the placement word's checks before the entry's; a child on the own core starts from
R49 with the issuer's g1 to g7, RANK, DOMAIN and job at the tail of its level; no slot gives 0; another core and the
distributor are asked by a message. -/
def Obligations.Spawn : Prop :=
  ∀ (d a b : Reg) (s : State), let sh : Shape := { srcs := [a, b], dst := some d }
    let parks := fun (t : State) => (Host.Outcome.next (t.keepWords (s.portWords [a, b])) : Out)
    (Ready sh s →
      let entry := s.source sh 0
      let w := s.source sh 1
      let kind := w.toNat % 8
      let prio := w.toNat / 16 % 4
      let sup := w.getLsbD 6
      (w.getLsbD 7 = true ∨ 6 ≤ kind → exec (.spawn d a b) s = .next (s.trap 0x05 [w])) ∧
      (s.badPlacement w = false →
        (s.cur.supv = false → sup = true ∨ prio ≤ 1 → exec (.spawn d a b) s = .next (s.trap 0x02 [])) ∧
        (s.cur.supv = true ∨ (sup = false ∧ 2 ≤ prio) →
          (kind ≠ 5 → entry.toNat % 4 ≠ 0 → exec (.spawn d a b) s = .next (s.trap 0x03 [entry])) ∧
          (kind = 3 → s.tierChoice (w.toNat / 256 % 8) (w.getLsbD 3) = none → entry.toNat % 4 = 0 →
            exec (.spawn d a b) s = .next (s.doneWith sh 0)) ∧
          (kind ≠ 5 → entry.toNat % 4 = 0 → ∀ c, s.spawnTarget w = some c →
            (s.reachable (pkgOf s.here) (pkgOf c) = false → exec (.spawn d a b) s = .next (s.doneWith sh 0)) ∧
            (s.reachable (pkgOf s.here) (pkgOf c) = true → s.dieUp (dieOfCore c) = true → Drained s (drainCores s.here c) →
              (c = s.here → (s.cur.chv = false ∨ s.cur.chunkHome = s.here) →
                (s.takes c s.cur.domain s.cur.jobKey = false ∨ s.freeSlot c (w.getLsbD 3) = none →
                  exec (.spawn d a b) s = .next (s.doneWith sh 0)) ∧
                (s.takes c s.cur.domain s.cur.jobKey = true → ∀ k, s.freeSlot c (w.getLsbD 3) = some k → k ≠ s.self →
                  ∃ u : State, exec (.spawn d a b) s = .next (u.doneWith sh (u.handleOf k)) ∧ (s.proc k).state = .free ∧
                    u.cur = s.cur ∧ u.mem = s.mem ∧ (u.core c).spawns = (s.core c).nextSerial ∧
                    (let p := u.proc k
                     p.state = .ready ∧ p.pc.toNat = entry.toNat % 2 ^ 56 ∧
                       (∀ i : Fin 32, p.g[i.val] = if 1 ≤ i.val ∧ i.val ≤ 7 then s.cur.g[i.val] else 0) ∧ p.pred = 1 ∧
                       p.light = w.getLsbD 3 ∧ p.supv = sup ∧ p.sstep = false ∧ p.cause = 0 ∧ p.domain = s.cur.domain ∧
                       p.prio.toNat = prio ∧ p.debt = 0 ∧ p.rank = s.cur.rank ∧ p.limit = 65536 ∧ p.used = 0 ∧ p.tileown = 0 ∧ p.vext = none ∧
                       p.qen = 0 ∧ p.pool = 0 ∧ p.fmtctl = 0 ∧ p.rowprog = 0 ∧ p.job = s.cur.job ∧ p.chome = s.cur.chome ∧
                       p.chidx = s.cur.chidx ∧ p.chv = s.cur.chv ∧ p.pid = pidOf c (s.core c).nextSerial ∧
                       k ∈ (u.core (coreOf k)).ready p.prio))) ∧
              ((c ≠ s.here ∨ (s.cur.chv = true ∧ s.cur.chunkHome ≠ s.here)) → exec (.spawn d a b) s =
                parks (((s.track s.here s.cur.jobKey).send (.core s.here) (.core c) .channel
                  (.remote (.spawn (s.cur.child entry w)) s.self s.cur.pid)).parkAfter 14 .remote [entry, w] none)))) ∧
          (kind = 5 →
            (entry.toNat % 64 ≠ 0 → exec (.spawn d a b) s = .next (s.trap 0x03 [entry])) ∧
            ∀ o, InOwnPad s entry 64 64 o → entry.toNat % 64 = 0 → Drained s .package →
              s.poisoned (locSpad s.here o) 64 = false → exec (.spawn d a b) s =
                parks ((s.send (.core s.here) (.dist (pkgOf s.here) (s.pkg (pkgOf s.here)).master) .channel
                  (.device (BitVec.ofNat 512 (leVal (s.mem.read (locSpad s.here o) 64))) s.self s.cur.pid s.cur.supv
                    s.cur.domain)).parkAfter 14 .remote [entry, w] none))))) ∧
    (∀ vals v m, Resumed sh s vals v m → exec (.spawn d a b) s = .next (s.doneWith sh v))

/-- STOP, YIELD, SLEEP, TIME and SETPRI of the issuer (R149, R240, R241, R252, R304, R305): the end of a process whose queues
hold nothing of it, its tiles and its slot free; the tail of its level with USED 0 and DEBT kept; a deadline passed or
waited for; the time base; a level above 3 refused, levels 0 and 1 kept for the supervisor right. -/
def Obligations.ProcessControl : Prop :=
  ∀ (d a b : Reg) (s : State),
    (Ready {} s →
      (s.commandsOf s.self = [] → ∃ t : State, exec .stop s = .next t ∧ t.proc s.self = Proc.empty) ∧
      (s.commandsOf s.self ≠ [] → exec .stop s = .next (s.park 5 .engines .fresh none)) ∧
      (s.cur.state = .running → s.cur.sstep = false → ∃ t : State, exec .yield s = .next t ∧ t.cur.state = .ready ∧
        t.cur.used = 0 ∧ t.cur.debt = s.cur.debt ∧ t.cur.prio = s.cur.prio ∧ t.cur.pc = nextPc s.cur.pc ∧ t.cur.g = s.cur.g ∧
        (t.core s.here).running = none ∧ t.mem = s.mem ∧
        (t.core s.here).ready s.cur.prio = (s.core s.here).ready s.cur.prio ++ [s.self])) ∧
    (∀ sh : Shape, sh = { srcs := [a] } → Ready sh s →
      let t := (s.source sh 0).toNat
      (t ≤ s.now s.here → exec (.sleep a) s = .next (s.done sh)) ∧
      (s.now s.here < t → exec (.sleep a) s =
        .next ((s.parkAfter 8 .sleep [s.source sh 0] (some t)).keepWords (s.portWords [a])))) ∧
    (∀ vals v m, Resumed { srcs := [a] } s vals v m → exec (.sleep a) s = .next (s.done { srcs := [a] })) ∧
    (∀ sh : Shape, sh = { dst := some d } → Ready sh s →
      exec (.time d) s = .next (s.doneWith sh (BitVec.ofNat 64 (s.now s.here)))) ∧
    (∀ sh : Shape, sh = { srcs := [a, b] } → Ready sh s →
      let h := s.source sh 0
      let l := s.source sh 1
      (3 < l.toNat → exec (.setpri a b) s = .next (s.trap 0x05 [h, l])) ∧
      (l.toNat ≤ 3 → (a = 0 ∨ h = s.handleOf s.self) →
        (l.toNat ≤ 1 → s.cur.supv = false → exec (.setpri a b) s = .next (s.trap 0x02 [])) ∧
        (2 ≤ l.toNat ∨ s.cur.supv = true →
          exec (.setpri a b) s = .next (State.done { s with cur := { s.cur with prio := BitVec.ofNat 2 l.toNat } } sh))) ∧
      (l.toNat ≤ 3 → a ≠ 0 → h ≠ s.handleOf s.self →
        let k := slotOfHandle h
        (coreOf k = s.here →
          (s.dead h = true → exec (.setpri a b) s = .next (s.doneWith sh 0)) ∧
          (s.dead h = false → s.rightOver s.cur.supv (s.isMonitor s.self) s.cur.domain k = false →
            exec (.setpri a b) s = .next (s.trap 0x02 [])) ∧
          (s.dead h = false → s.rightOver s.cur.supv (s.isMonitor s.self) s.cur.domain k = true → k ≠ s.self →
            ∃ t : State, exec (.setpri a b) s = .next (t.done sh) ∧ (t.proc k).prio.toNat = l.toNat ∧
              (t.proc k).state = (s.proc k).state ∧ t.cur = s.cur ∧ t.mem = s.mem ∧
              ((s.proc k).state = .ready → (s.proc k).prio.toNat ≠ l.toNat →
                ∃ q, (t.core s.here).ready (t.proc k).prio = q ++ [k]))) ∧
        (coreOf k ≠ s.here → s.reachable (pkgOf s.here) (pkgOf (coreOf k)) = true → s.dieUp (dieOfCore (coreOf k)) = true →
          exec (.setpri a b) s = .next (State.keepWords ((s.send (.core s.here) (.core (coreOf k)) .channel
            (.remote (.setpri h l s.cur.supv (s.isMonitor s.self) s.cur.domain) s.self s.cur.pid)).parkAfter 14 .remote
              [h, l] none) (s.portWords [a, b]))))) ∧
    (∀ vals v m, Resumed { srcs := [a, b] } s vals v m → exec (.setpri a b) s = .next (s.done { srcs := [a, b] }))

/-- MIGR, MIGB and QMAP (R177, R248, R250, R251, R306, R307): where a light process may go and where a full one traps, the
context sent after the drain of its accesses, the least loaded core of the cluster; a port bound to an endpoint with
the direction and the core it needs, and unbound. -/
def Obligations.MigrationAndPorts : Prop :=
  ∀ (a : Reg) (i : BitVec 3) (s : State),
    let sh : Shape := { srcs := [a] }
    let moves := fun (x : Shape) (c : CoreId) (vals : List Word) =>
      (Host.Outcome.next (if c = s.here then s.done x else
        let t := s.parkAfter 10 (.migration c) vals none
        State.send (t.track (coreOf t.self) t.cur.jobKey) (.core (coreOf t.self)) (.core c) .channel
          (.migrate t.cur.travelling t.self)) : Out)
    (Ready sh s →
      let x := s.source sh 0
      let cls := x.toNat / 2 ^ 52 % 16
      let own := if cls = 13 then pkgOf s.here * 2048 + x.toNat / 2 ^ 41 % 2 ^ 11
        else pkgOf s.here * 2048 + x.toNat / 2 ^ 49 % 8 * 256 + x.toNat / 64 % 1024 / 4
      (cls ≠ 12 → cls ≠ 13 → cls ≠ 14 → exec (.migr a) s = .next (s.trap 0x05 [x])) ∧
      (cls = 13 → (s.core own).cdom ≠ s.cur.domain → exec (.migr a) s = .next (s.trap 0x05 [x])) ∧
      (cls = 12 ∨ s.badOwner x = false → s.cur.light = false → exec (.migr a) s = .next (s.trap 0x05 [x, 3])) ∧
      (cls = 12 → s.cur.light = true → Drained s .package → exec (.migr a) s = .next (s.done sh)) ∧
      (cls ≠ 12 → s.badOwner x = false → s.cur.light = true → Drained s .package → s.dieUp (dieOfCore own) = true →
        exec (.migr a) s = moves sh own [x])) ∧
    (Ready {} s →
      let load := fun (j : Nat) => (s.cluster (clusterOf s.here)).loadreg.toNat / 2 ^ (4 * j) % 16
      (s.cur.light = false → exec .migb s = .next (s.trap 0x05 [0, 3])) ∧
      (s.cur.light = true → Drained s .package → s.dieUp (dieOfCore (s.leastLoaded s.here)) = true →
        exec .migb s = moves {} (s.leastLoaded s.here) []) ∧
      ((∀ j, j < 16 → load j = 15) → s.leastLoaded s.here = s.here) ∧
      (∀ j, j < 16 → load j ≠ 15 → (∀ m, m < 16 → load j ≤ load m) → (∀ m, m < j → load j < load m) →
        s.leastLoaded s.here = clusterOf s.here * 16 + j)) ∧
    (Ready { full := true } s →
      let h := s.cur.reg a
      let e := epOfHandle h
      let u := s.operated e
      (∀ x, Usable s h x → x.state ≠ 1 → x.cls = 0 → x.mode ≤ 1 → ∀ y ∈ [(Instr.qmapPush a i, true), (.qmapPop a i, false)],
        (x.dir ≠ y.2 → exec y.1 s = .next (s.trap 0x0B [h, 3])) ∧
        (x.dir = y.2 → coreOfEp (epOfHandle x.peer) ≠ s.here → exec y.1 s = .next (u.trap 0x0B [h, 2])) ∧
        (x.dir = y.2 → coreOfEp (epOfHandle x.peer) = s.here → x.portv = true →
          exec y.1 s = .next (u.trap 0x05 [h, 5])) ∧
        (x.dir = y.2 → coreOfEp (epOfHandle x.peer) = s.here → x.portv = false →
          ∃ t : State, exec y.1 s = .next (t.done {}) ∧ (t.ep e).portv = true ∧ (t.ep e).port = i ∧
            t.cur.qen = s.cur.qen ||| 1#8 <<< i.toNat ∧ (∀ j, j < 8 → t.cur.qdir.getLsbD j =
              if j = i.toNat then y.2 else s.cur.qdir.getLsbD j) ∧ Map.find? t.cur.qeps i.toNat = some e ∧
            (∀ f, Map.find? s.cur.qeps i.toNat = some f → f ≠ e → (t.ep f).portv = false))) ∧
      ∃ t : State, exec (.qmapOff i) s = .next (t.done {}) ∧ t.cur.qen = s.cur.qen &&& ~~~(1#8 <<< i.toNat) ∧
        t.cur.qdir = s.cur.qdir ∧ t.mem = s.mem ∧
        (∀ f, Map.find? s.cur.qeps i.toNat = some f → (t.ep f).portv = false ∧ (t.ep f).fifo = (s.ep f).fifo) ∧
        (Map.find? s.cur.qeps i.toNat = none → t.eps = s.eps))

/-- RESUME, PEEKC, POKEC, KILL and TRAP (R240, R254, R283, R284, R308 to R312): on the own core the answers of the checks in
their order, a stopped target resumed, a word of its context read or written, a target ended; the issuer's own KILL;
an operation on another core is asked for and waited for with WAITK 14; SWTRAP. -/
def Obligations.Supervision : Prop :=
  ∀ (d a b : Reg) (s : State),
    let two : Shape := { srcs := [a, b], dst := some d, full := true, priv := true }
    let poke : Shape := { srcs := [a, b], dsrc := some d, full := true, priv := true }
    let one : Shape := { srcs := [a], dst := some d, full := true, priv := true }
    let m := s.isMonitor s.self
    let right := fun (k : Slot) => m = true ∨ (s.proc k).domain = s.cur.domain
    let asks := fun (k : Slot) (op : RemoteOp) (vals : List Word) (rs : List Reg) =>
      (Host.Outcome.next (State.keepWords ((s.send (.core s.here) (.core (coreOf k)) .channel
        (.remote op s.self s.cur.pid)).parkAfter 14 .remote vals none) (s.portWords rs)) : Out)
    (Ready two s → s.cur.supv = true →
      let h := s.source two 0
      let x := s.source two 1
      let k := slotOfHandle h
      let reserved := x.toNat / 64 % 4 ≠ 0 ∨ x.toNat / 2 ^ 28 ≠ 0
      (reserved → exec (.resume d a b) s = .next (s.trap 0x15 [x])) ∧
      (¬reserved → coreOf k = s.here →
        (s.dead h = true → exec (.resume d a b) s = .next (s.doneWith two 2)) ∧
        (s.dead h = false → ¬right k → exec (.resume d a b) s = .next (s.trap 0x02 [])) ∧
        (s.dead h = false → right k → (s.proc k).state ≠ .stopped → exec (.resume d a b) s = .next (s.doneWith two 1)) ∧
        (s.dead h = false → right k → (s.proc k).state = .stopped →
          exec (.resume d a b) s = .next ((s.resumeProc k (x.getLsbD 3)).doneWith two 0))) ∧
      (coreOf k ≠ s.here → s.reachable (pkgOf s.here) (pkgOf (coreOf k)) = true → s.dieUp (dieOfCore (coreOf k)) = true →
        (¬reserved → exec (.resume d a b) s = asks k (.resume h x m s.cur.domain) [h, x] [a, b]) ∧
        exec (.peekc d a b) s = asks k (.peek h x m s.cur.domain) [h, x] [a, b]) ∧
      (coreOf k ≠ s.here → s.reachable (pkgOf s.here) (pkgOf (coreOf k)) = false →
        (¬reserved → exec (.resume d a b) s = .next (s.doneWith two 2)) ∧ exec (.peekc d a b) s = .next (s.doneWith two 0)) ∧
      (coreOf k = s.here →
        (s.dead h = true → exec (.peekc d a b) s = .next (s.doneWith two 0)) ∧
        (s.dead h = false → ¬right k → exec (.peekc d a b) s = .next (s.trap 0x02 [])) ∧
        (s.dead h = false → right k → s.badSelector k x = true → exec (.peekc d a b) s = .next (s.trap 0x05 [x])) ∧
        (s.dead h = false → right k → s.badSelector k x = false →
          (x.toNat % 4 = 0 → exec (.peekc d a b) s = .next (s.doneWith two (s.recordWord k (x.toNat / 8 % 2 ^ 12)))) ∧
          (∀ v, x.toNat % 4 = 1 → (s.proc k).vext = some v →
            exec (.peekc d a b) s = .next (s.doneWith two (v.word (x.toNat / 8 % 2 ^ 12)))) ∧
          (x.toNat % 4 = 2 → s.tileOwner s.here (x.toNat / 2 ^ 15 % 8) = none →
            let tile := x.toNat / 2 ^ 15 % 8
            let r := x.toNat / 8 % 2 ^ 12 * 2 / 32
            let j := x.toNat / 8 % 2 ^ 12 * 2 % 32
            (s.core s.here).accBad tile r j = false → (s.core s.here).accBad tile r (j + 1) = false →
            exec (.peekc d a b) s = .next (s.doneWith two (BitVec.ofNat 64
              ((s.core s.here).accAt tile r j + (s.core s.here).accAt tile r (j + 1) * 2 ^ 32)))) ∧
          (∀ q, x.toNat % 4 = 2 → s.tileOwner s.here (x.toNat / 2 ^ 15 % 8) = some q → exec (.peekc d a b) s =
            .next (s.trap 0x09 [BitVec.ofNat 64 (x.toNat / 2 ^ 15 % 8), BitVec.ofNat 64 q.tag]))))) ∧
    (∀ vals v, Resumed two s vals v 1 →
      exec (.resume d a b) s = (if badImage (op vals 1) = true then .next (s.trap 0x15 [op vals 1]) else .next (s.doneWith two v)) ∧
      exec (.peekc d a b) s = .next (s.doneWith two v)) ∧
    (Ready poke s → s.cur.supv = true →
      let h := s.source poke 0
      let x := s.source poke 1
      let v := s.cur.reg d
      let k := slotOfHandle h
      let i := x.toNat / 8 % 2 ^ 12
      (coreOf k = s.here →
        (s.dead h = true → exec (.pokec d a b) s = .next (s.doneWith poke 0)) ∧
        (s.dead h = false → ¬right k → exec (.pokec d a b) s = .next (s.trap 0x02 [])) ∧
        (s.dead h = false → right k → s.badSelector k x = true → exec (.pokec d a b) s = .next (s.trap 0x05 [x])) ∧
        (s.dead h = false → right k → s.badSelector k x = false →
          (∀ q, x.toNat % 4 = 2 → s.tileOwner s.here (x.toNat / 2 ^ 15 % 8) = some q → exec (.pokec d a b) s =
            .next (s.trap 0x09 [BitVec.ofNat 64 (x.toNat / 2 ^ 15 % 8), BitVec.ofNat 64 q.tag])) ∧
          ((s.proc k).state ≠ .stopped → (x.toNat % 4 = 2 → s.tileOwner s.here (x.toNat / 2 ^ 15 % 8) = none) →
            exec (.pokec d a b) s = .next (s.trap 0x05 [x, 4])) ∧
          ((s.proc k).state = .stopped → k ≠ s.self →
            (x.toNat % 4 = 0 → i = 1 → badImage v = true → exec (.pokec d a b) s = .next (s.trap 0x15 [v])) ∧
            (x.toNat % 4 = 0 → (i ≠ 1 ∨ badImage v = false) →
              let u := s.modProc k fun p => p.poke i v
              u.proc k = (s.proc k).poke i v ∧ u.cur = s.cur ∧ u.mem = s.mem ∧
              ((s.proc k).resident = true → exec (.pokec d a b) s = .next (u.done poke)) ∧
              ((s.proc k).resident = false → exec (.pokec d a b) s = .next ((u.spillRecord k).done poke))) ∧
            (x.toNat % 4 = 1 →
              let u := s.modProc k fun p => { p with vext := p.vext.map fun y => y.poke i v }
              u.proc k = { s.proc k with vext := (s.proc k).vext.map fun y => y.poke i v } ∧ u.mem = s.mem ∧
              ((s.proc k).resident = true → exec (.pokec d a b) s = .next (u.done poke)) ∧
              ((s.proc k).resident = false → exec (.pokec d a b) s = .next ((u.spillRecord k).done poke))) ∧
            (x.toNat % 4 = 2 → s.tileOwner s.here (x.toNat / 2 ^ 15 % 8) = none → exec (.pokec d a b) s =
              .next (State.done (s.modCore s.here fun y =>
                (y.setAcc (x.toNat / 2 ^ 15 % 8) (i * 2 / 32) (i * 2 % 32) (v.toNat % 2 ^ 32) false).setAcc
                  (x.toNat / 2 ^ 15 % 8) (i * 2 / 32) (i * 2 % 32 + 1) (v.toNat / 2 ^ 32) false) poke))))) ∧
      (coreOf k ≠ s.here → s.reachable (pkgOf s.here) (pkgOf (coreOf k)) = true → s.dieUp (dieOfCore (coreOf k)) = true →
        exec (.pokec d a b) s = asks k (.poke h x v m s.cur.domain) [h, x] [a, b]) ∧
      (coreOf k ≠ s.here → s.reachable (pkgOf s.here) (pkgOf (coreOf k)) = false → exec (.pokec d a b) s = .next (s.done poke))) ∧
    (∀ vals v, Resumed poke s vals v 2 → exec (.pokec d a b) s = .next (s.done poke)) ∧
    (∀ (p : Proc) (v : Word),
      (p.poke 0 v).pc.toNat = v.toNat % 2 ^ 56 / 4 * 4 ∧ (p.poke 1 v).sstep = v.getLsbD 3 ∧ (p.poke 1 v).supv = p.supv ∧
      (p.poke 1 v).cause = p.cause ∧ (∀ i, 2 ≤ i → i ≤ (if p.light = true then 9 else 32) →
        (p.poke i v).g = (p.setReg (BitVec.ofNat 5 (i - 1)) v).g)) ∧
    (Ready one s → s.cur.supv = true →
      let h := s.source one 0
      let k := slotOfHandle h
      (h = s.handleOf s.self → ∃ t : State, exec (.kill d a) s = .next t ∧ t.proc s.self = Proc.empty) ∧
      (h ≠ s.handleOf s.self → coreOf k = s.here →
        (s.dead h = true ∨ s.leftFor k = true → exec (.kill d a) s = .next (s.doneWith one 2)) ∧
        (s.dead h = false → s.leftFor k = false → ¬right k → exec (.kill d a) s = .next (s.trap 0x02 [])) ∧
        (s.dead h = false → s.leftFor k = false → right k → k ≠ s.self →
          ∃ t : State, exec (.kill d a) s = .next (t.doneWith one 0) ∧ t.proc k = Proc.empty)) ∧
      (h ≠ s.handleOf s.self → coreOf k ≠ s.here → s.reachable (pkgOf s.here) (pkgOf (coreOf k)) = true →
        s.dieUp (dieOfCore (coreOf k)) = true → exec (.kill d a) s = asks k (.kill h m s.cur.domain) [h] [a])) ∧
    (∀ vals v, Resumed one s vals v 1 → exec (.kill d a) s = .next (s.doneWith one v)) ∧
    ∀ n : BitVec 8, Ready {} s → exec (.trap n) s = .next (s.trap 0x17 [n.setWidth 64])

/-- BARI, BARX, BARA and BARW complete (R184, R233 to R235). On a barrier object that is located, drained for and not
poisoned: BARI sets EXPECT and clears ARRIVED and PENDING, and an EXPECT above 65,535 traps; BARX adds bytes and
evaluates; BARA answers PHASE, counts an arrival and evaluates; BARW ends when PHASE is not the one named, else parks
with WAITK 6, and ends once woken. On a poisoned one all four trap MEMERR, and
the processes parked there are stopped with it. An evaluation with every arrival in and no
byte pending flips PHASE, clears ARRIVED and wakes every waiter; the words are rewritten with their reserved bits zero. -/
def Obligations.Barriers : Prop :=
  ∀ (d a b : Reg) (s : State),
    let ab : Shape := { srcs := [a, b] }
    let da : Shape := { srcs := [a], dst := some d }
    let w0 := fun (u : State) (loc : Nat) => leVal (u.mem.read loc 8)
    let w1 := fun (u : State) (loc : Nat) => leVal (u.mem.read (loc + 8) 8)
    let put := fun (u : State) (loc v : Nat) => u.writeAt none (some u.here) loc (leBytes v 8) none
    (Ready ab s →
      let ea := s.source ab 0
      let v := s.source ab 1
      (∀ loc u, BarrierAt s ea .stores False loc false u →
        let phase := w0 u loc / 2 ^ 32 % 2
        let arrived := w0 u loc / 2 ^ 16 % 2 ^ 16
        let pending := (w1 u loc % 2 ^ 40 + v.toNat) % 2 ^ 40
        (65535 < v.toNat → exec (.bari a b) s = .next (s.trap 0x05 [ea, v])) ∧
        (v.toNat ≤ 65535 → exec (.bari a b) s =
          .next ((put (put u loc (v.toNat + phase * 2 ^ 32)) (loc + 8) 0).done ab)) ∧
        (let t := (put u (loc + 8) pending).evaluate u.here loc
         exec (.barx a b) s = .next (t.done ab) ∧
         (u.Inv → u.ordadds = [] →
           let flips := w0 u loc % 2 ^ 16 ≤ arrived ∧ pending = 0
           w1 t loc = pending ∧ w0 t loc = (if flips then w0 u loc % 2 ^ 16 + (1 - phase) * 2 ^ 32 else w0 u loc)))) ∧
      (∀ loc u, BarrierAt s ea .corePoint False loc false u →
        let phase := w0 u loc / 2 ^ 32 % 2
        (phase ≠ v.toNat % 2 → exec (.barw a b) s = .next (u.done ab)) ∧
        (phase = v.toNat % 2 → exec (.barw a b) s = .next
          (State.keepWords (State.parkAfter { u with barriers := u.barriers ++ [(loc, u.self)] } 6 (.barrier loc) [ea, v] none)
            (s.portWords [a, b])))) ∧
      (∀ loc u, BarrierAt s ea .stores False loc true u →
        exec (.bari a b) s = .next ((u.stopWaiters (loc / 8)).trap 0x08 [ea, 0]) ∧
        exec (.barx a b) s = .next ((u.stopWaiters (loc / 8)).trap 0x08 [ea, 0])) ∧
      (∀ loc u, BarrierAt s ea .corePoint False loc true u →
        exec (.barw a b) s = .next ((u.stopWaiters (loc / 8)).trap 0x08 [ea, 0]))) ∧
    (∀ vals v m, Resumed ab s vals v m → exec (.barw a b) s = .next (s.done ab)) ∧
    (Ready da s →
      let ea := s.source da 0
      (∀ loc u, BarrierAt s ea .stores True loc false u →
        let phase := w0 u loc / 2 ^ 32 % 2
        let arrived := (w0 u loc / 2 ^ 16 + 1) % 2 ^ 16
        let t := (put u loc (w0 u loc % 2 ^ 16 + arrived * 2 ^ 16 + phase * 2 ^ 32)).evaluate u.here loc
        exec (.bara d a) s = .next (t.doneWith da (BitVec.ofNat 64 phase)) ∧
        (u.Inv → u.ordadds = [] →
          let flips := w0 u loc % 2 ^ 16 ≤ arrived ∧ w1 u loc % 2 ^ 40 = 0
          w1 t loc = w1 u loc ∧ w0 t loc = (if flips then w0 u loc % 2 ^ 16 + (1 - phase) * 2 ^ 32
            else w0 u loc % 2 ^ 16 + arrived * 2 ^ 16 + phase * 2 ^ 32))) ∧
      (∀ loc u, BarrierAt s ea .stores True loc true u →
        exec (.bara d a) s = .next ((u.stopWaiters (loc / 8)).trap 0x08 [ea, 0]))) ∧
    ∀ (u : State) (c : CoreId) (loc : Nat),
      let flips := w0 u loc % 2 ^ 16 ≤ w0 u loc / 2 ^ 16 % 2 ^ 16 ∧ w1 u loc % 2 ^ 40 = 0
      let t := u.evaluate c loc
      (flips → ∀ x ∈ t.barriers, x.1 ≠ loc) ∧ (¬flips → t = u)

/-- STEP, STEPN and DEPDEC complete (R202, R203, R236, R313, R387). STEP, its drain made, arrives in the open step and
waits with WAITK 7 for that step's release, and then ends with STEPNO; before the pod is formed it is enrolled and waits
for the forming. STEPN ends with STEPNO and its enrolment. An arrival that leaves no enrolled process of an open package
of the formed pod behind closes the step. DEPDEC lowers a dependence count and answers 1; of a zero count it answers 0,
and DEPUNDER is recorded for a host launch; of no launch of the domain it traps. -/
def Obligations.StepsAndDependences : Prop :=
  ∀ (d a : Reg) (s : State),
    let sh : Shape := { dst := some d }
    let da : Shape := { srcs := [a], dst := some d }
    let p := pkgOf s.here
    (Ready sh s → Drained s .podstep →
      (s.podFormed = false → exec (.step d) s =
        .next (State.parkAfter { s with cur := { s.cur with enrolled := true, arrivedIn := none } } 7 .pod [] none)) ∧
      (s.podFormed = true →
        let t : State := { s with cur := { s.cur with enrolled := true, arrivedIn := some (s.pkg p).openStep } }
        exec (.step d) s = .next (((t.sink t.here).parkAfter 7 .step [] none).arrival p)) ∧
      (let t := State.doneWith { s with cur := { s.cur with enrolled := false } } sh (s.pkg p).stepno
       exec (.stepn d) s = .next (if s.cur.enrolled = true then (t.sink s.here).arrival p else t))) ∧
    (∀ vals v m, Resumed sh s vals v m → exec (.step d) s = .next (s.doneWith sh v)) ∧
    (∀ q,
      (s.podFormed = true → (s.pkg q).phase = 0 → (∀ k ∈ s.live, pkgOf (coreOf k) = q → (s.proc k).enrolled = true →
          s.leftFor k = false → (s.proc k).arrivedIn = some (s.pkg q).openStep) →
        let t := s.arrival q
        (t.pkg q).openStep = (s.pkg q).openStep + 1 ∧ (t.pkg q).phase = 1 ∧ (t.pkg q).closing = true ∧ t.mem = s.mem) ∧
      (s.podFormed = false ∨ (s.pkg q).phase ≠ 0 ∨ (∃ k ∈ s.live, pkgOf (coreOf k) = q ∧ (s.proc k).enrolled = true ∧
          s.leftFor k = false ∧ (s.proc k).arrivedIn ≠ some (s.pkg q).openStep) →
        let t := s.arrival q
        (t.pkg q).openStep = (s.pkg q).openStep ∧ (t.pkg q).phase = (s.pkg q).phase ∧ (t.pkg q).arrivedSince = true)) ∧
    (Ready da s →
      let id := s.source da 0
      ((∀ l ∈ (s.pkg p).launches, l.id = id → l.domain ≠ s.cur.domain.toNat) →
        exec (.depdec d a) s = .next (s.trap 0x05 [id])) ∧
      (Drained s .package → ∀ pre l post, (s.pkg p).launches = pre ++ l :: post → l.id = id → l.domain = s.cur.domain.toNat →
        (∀ m ∈ pre, m.id ≠ id ∨ m.domain ≠ s.cur.domain.toNat) →
        (0 < l.deps → exec (.depdec d a) s = .next ((s.depDown p id).doneWith da 1) ∧
          ((s.depDown p id).pkg p).launches =
            (s.pkg p).launches.map fun m => if m.id = id then { m with deps := m.deps - 1 } else m) ∧
        (l.deps = 0 → id.getLsbD 15 = true → exec (.depdec d a) s = .next (s.doneWith da 0)) ∧
        (l.deps = 0 → id.getLsbD 15 = false →
          let t := s.depUnder p (id.toNat % 2 ^ 15) id
          exec (.depdec d a) s = .next (t.doneWith da 0) ∧ (t.pkg p).launches = (s.pkg p).launches ∧
          ((t.pkg p).queues.get (id.toNat % 2 ^ 15) HostQueue.atReset).depunder = true ∧
          ((t.pkg p).queues.get (id.toNat % 2 ^ 15) HostQueue.atReset).depser.toNat = id.toNat / 2 ^ 16 % 2 ^ 32)))

/-- The almanac instructions (R266 to R270, R273, R274, R281, R314, R315): a recording opened in a free directory entry, the
second one of a core BUSY; slots and guards of the open recording; its status at ALMEND; an open recording abandoned by ALMPLAY,
its block read and the sequencer asked; tapes invalidated and queried. -/
def Obligations.Almanac : Prop :=
  ∀ (d a b : Reg) (n : BitVec 4) (s : State),
    let one : Shape := { srcs := [a], full := true }
    let two : Shape := { srcs := [a, b], full := true }
    let end_ : Shape := { dst := some d, full := true }
    let play : Shape := { srcs := [a, b], dst := some d, full := true }
    let ask : Shape := { srcs := [a], dst := some d, full := true }
    let cl := clusterOf s.here
    let dom := s.cur.domain.toNat
    let mine := fun (id : Nat) (e : Nat × Tape) => e.2.domain = dom ∧ e.2.id.toNat = id
    (Ready one s →
      let id := (s.source one 0).toNat % 2 ^ 32
      (exec (.almrec a) s = .next ((s.almrec (BitVec.ofNat 32 id)).done one)) ∧
      (∀ r, (s.core s.here).recording = some r → r.owner ≠ s.self → exec (.almrec a) s =
        .next (State.done { s with cur := { s.cur with recording := true, recStatus := 8 } } one)) ∧
      ((s.core s.here).recording = none → (s.cluster cl).tapes.filter (mine id) = [] → ∀ i,
        (s.cluster cl).freeIndex = some i → (s.cluster cl).segments ≤ 454 →
        let t := s.almrec (BitVec.ofNat 32 id)
        t.cur.recording = true ∧ t.cur.recStatus = 0 ∧ (t.core s.here).recording = some { owner := s.self, index := i } ∧
          ∃ tp : Tape, Map.find? (t.cluster cl).tapes i = some tp ∧ tp.id.toNat = id ∧ tp.domain = dom ∧ tp.core = s.here ∧
            tp.state = 1 ∧ tp.body = [] ∧ tp.slots = [] ∧ tp.guards = 0 ∧ tp.entries = 1 ∧ tp.active = 0 ∧
            tp.pbase = s.cur.pool.toNat / 2 ^ 5 % 2 ^ 14 ∧ tp.pcount = s.cur.pool.toNat / 2 ^ 20 % 2 ^ 12) ∧
      (s.openTape = none → exec (.almgrd a) s = .next (s.done one)) ∧
      (∀ i tp, s.openTape = some (i, tp) →
        (16 ≤ tp.guards → exec (.almgrd a) s = .next ((s.abandonRec s.here 5).done one)) ∧
        (tp.guards < 16 → ∃ e : TEntry, e.word = (s.source one 0).setWidth 256 ∧ e.tag.toNat = 2 ^ 12 + tp.guards ∧
          exec (.almgrd a) s = .next ((s.putTape i { tp with
            guards := tp.guards + 1, entries := tp.entries + 1, body := tp.body ++ [e] }).done one))) ∧
      ((s.cluster cl).tapes.filter (mine id) = [] → exec (.alminv a) s = .next (s.done one)) ∧
      (∀ i tp, (s.cluster cl).tapes.filter (mine id) = [(i, tp)] →
        exec (.alminv a) s = .next ((s.invalidate cl i).done one))) ∧
    (Ready two s → ∀ i tp,
      (s.openTape = none → exec (.almslot a b n) s = .next (s.done two)) ∧
      (s.openTape = some (i, tp) → tp.body ≠ [] → exec (.almslot a b n) s = .next ((s.abandonRec s.here 4).done two)) ∧
      (s.openTape = some (i, tp) → tp.body = [] → exec (.almslot a b n) s = .next ((s.putTape i { tp with
        slots := tp.slots.put n.toNat ((s.source two 0).toNat % 2 ^ 56, (s.source two 1).toNat % 2 ^ 56),
        entries := if Map.find? tp.slots n.toNat = none then tp.entries + 1 else tp.entries }).done two))) ∧
    (∀ i tp, let y := s.cluster cl
      (Cluster.segments { y with tapes := y.tapes.put i tp } ≤ 455 → Map.find? ((s.putTape i tp).cluster cl).tapes i = some tp)) ∧
    (Ready end_ s →
      (s.cur.recording = false → exec (.almend d) s = .next (s.doneWith end_ 1)) ∧
      (s.cur.recording = true → s.openTape = none → exec (.almend d) s =
        .next (State.doneWith { s with cur := { s.cur with recording := false, recStatus := 0 } } end_
          (BitVec.ofNat 64 s.cur.recStatus))) ∧
      (∀ i tp, s.cur.recording = true → s.openTape = some (i, tp) →
        (let y := s.cluster cl
         Cluster.segments { y with tapes := y.tapes.put i { tp with entries := tp.entries + 1 } } ≤ 455) →
        ∃ t : State, exec (.almend d) s = .next (t.doneWith end_ (BitVec.ofNat 64 s.cur.recStatus)) ∧
          t.cur.recording = false ∧ (t.core s.here).recording = none ∧ Map.find? (t.cluster cl).tapes i =
            some { tp with entries := tp.entries + 1, state := 2 })) ∧
    (Ready play s →
      let p := s.source play 1
      let w := if ((s.core s.here).recording.any fun r => r.owner = s.self) = true then s.abandonRec s.here 7 else s
      (p.toNat % 8 ≠ 0 → exec (.almplay d a b) s = .next (w.trap 0x03 [p])) ∧
      (p.toNat % 8 = 0 → ∀ accs u bss v, LocatesAll .load 8 w
          ((List.range 32).map fun i => (addAddr p ((8 * i : Nat) : Int), 8)) accs u → ReadsAll u accs bss v →
        let id : BitVec 32 := BitVec.ofNat 32 (s.source play 0).toNat
        let args := bss.map fun bs => (BitVec.ofNat 64 (leVal bs) : Word)
        let r := (v.core v.here).replay
        exec (.almplay d a b) s = .next (State.keepWords (State.parkAfter (v.modCore v.here fun x => { x with replay :=
          if r.state = .idle then { state := .check, owner := v.self, index := 0, pos := 0, id := id, args := args,
                                    iword := v.cur.iword, waiting := [], play := r.play + 1 }
          else { r with waiting := r.waiting ++ [(v.self, id, args, v.cur.iword)] } }) 12 .replay [] none)
          (s.portWords [a, b])))) ∧
    (∀ v m, Resumed play s [] v m → exec (.almplay d a b) s = .next (s.doneWith play v)) ∧
    (Ready ask s →
      let id := (s.source ask 0).toNat % 2 ^ 32
      let x := s.cluster cl
      let found := fun (e : Nat × Tape) => exec (.almq d a) s = .next (s.doneWith ask (BitVec.ofNat 64
        (e.2.state + e.1 * 2 ^ 2 + e.2.entries * 2 ^ 8 + e.2.active * 2 ^ 22 + id * 2 ^ 32)))
      let first := fun (st : Nat) => (x.tapes.filter fun e => decide (mine id e) && decide (e.2.state = st)).head?
      (∀ e, first 1 = some e → found e) ∧ (∀ e, first 1 = none → first 2 = some e → found e) ∧
        (∀ e, first 1 = none → first 2 = none → first 3 = some e → found e) ∧
        (first 1 = none → first 2 = none → first 3 = none → exec (.almq d a) s = .next (s.doneWith ask (BitVec.ofNat 64
          (match x.freeIndex with | some i => i * 2 ^ 2 | none => 2 ^ 27)))))

/-- The replay sequencer (R276 to R280): the four checks in their order with their statuses and the REPLAYFAULT of a tile
another process holds; an accepted replay; each entry streamed, commands with their slots patched, one with an
uncorrectable error ending the replay with REPLAYFAULT and the tape; the drain of
the replay's own commands at a wait mark and at the end. -/
def Obligations.ReplaySequencer : Prop :=
  ∀ (s : State) (c : CoreId),
    let x := s.core c
    let r := x.replay
    let k := r.owner
    let cl := clusterOf c
    let guards := fun (t : Tape) => (t.body.filter fun e => e.tag.toNat / 2 ^ 12 = 1).map fun e => e.word.setWidth 64
    let valid := fun (e : Nat × Tape) => e.2.domain = (s.proc k).domain.toNat ∧ e.2.id = r.id ∧ e.2.state = 2
    (r.state = .check →
      ((op r.args 0).toNat / 2 ≠ 0 → exec (.replayCheck c) s = .next (s.replayReturn c 3)) ∧
      ((op r.args 0).toNat / 2 = 0 → (s.cluster cl).tapes.filter valid = [] →
        exec (.replayCheck c) s = .next (s.replayReturn c 2)) ∧
      (∀ i t rest, (op r.args 0).toNat / 2 = 0 → (s.cluster cl).tapes.filter valid = (i, t) :: rest →
        (guards t ≠ (r.args.drop 16).take t.guards → exec (.replayCheck c) s = .next (s.replayReturn c 1)) ∧
        (guards t = (r.args.drop 16).take t.guards →
          (∀ n, n ∈ t.tiles → s.tileTaken k n = true → (∀ m ∈ t.tiles, m < n → s.tileTaken k m = false) →
            exec (.replayCheck c) s = .next (s.replayFault c 0 i 0x05 (BitVec.ofNat 64 n))) ∧
          ((∀ n ∈ t.tiles, s.tileTaken k n = false) → coreOf k = c → ∃ u : State, exec (.replayCheck c) s = .next u ∧
            (u.core c).replay = { r with state := .stream, index := i, pos := 0 } ∧
            Map.find? (u.cluster cl).tapes i = some { t with active := t.active + 1, lastUse := s.now c } ∧
            (∀ n, n < 8 → (u.proc k).tileown.getLsbD n = ((s.proc k).tileown.getLsbD n || t.tiles.contains n)) ∧
            u.mem = s.mem)))) ∧
    (∀ t e, r.state = .stream → Map.find? (s.cluster cl).tapes r.index = some t → t.listing[r.pos]? = some e → coreOf k = c →
      (r.pos ∈ t.bad → exec (.replayStream c) s =
        .next ((s.invalidate cl r.index).replayFault c r.pos r.index 0x08 (BitVec.ofNat 64 r.pos))) ∧
      (r.pos ∉ t.bad →
      let kind := e.tag.toNat / 2 ^ 12
      let queue := if kind = 4 then x.copyQ else x.tileQ
      (kind = 0 ∨ kind = 4 → 16 ≤ queue.length → exec (.replayStream c) s = .next s) ∧
      (kind = 0 → isCopy e.word = false → queue.length < 16 → ∃ (u : State) (q : Cmd), exec (.replayStream c) s = .next u ∧
        (u.core c).tileQ = x.tileQ ++ [q] ∧ (u.core c).replay = { r with pos := r.pos + 1 } ∧ q.owner = k ∧
        q.word = streamed t r.args e ∧ q.replayed = some (r.pos, r.index, r.iword) ∧ q.play = r.play) ∧
      (kind = 4 → isCopy e.word = true → queue.length < 16 → ∃ (u : State) (q : Cmd), exec (.replayStream c) s = .next u ∧
        (u.core c).copyQ = x.copyQ ++ [q] ∧ (u.core c).replay = { r with pos := r.pos + 1 } ∧ q.owner = k ∧
        q.word = streamed t r.args e ∧ q.replayed = some (r.pos, r.index, r.iword) ∧ q.play = r.play) ∧
      (kind = 3 ∨ (kind = 15 ∧ (op r.args 0).getLsbD 0 = true) → ∃ u : State, exec (.replayStream c) s = .next u ∧
        (u.core c).replay = { r with state := .drain } ∧ u.mem = s.mem) ∧
      (kind = 15 → (op r.args 0).getLsbD 0 = false → exec (.replayStream c) s = .next (s.replayReturn c 0)) ∧
      (kind = 1 ∨ kind = 2 → ∃ u : State, exec (.replayStream c) s = .next u ∧
        (u.core c).replay = { r with pos := r.pos + 1 } ∧ u.mem = s.mem))) ∧
    (∀ (t : Tape) (args : List Word) (e : TEntry),
      let field := fun (slot old : Nat) => if slot = 0 then old
        else (old + 2 ^ 56 - (t.slots.get slot (0, 0)).1 + (op args slot).toNat % 2 ^ 56) % 2 ^ 56
      let w := streamed t args e
      w.extractLsb' 0 64 = e.word.extractLsb' 0 64 ∧
        (w.extractLsb' 64 56).toNat = field (e.tag.toNat % 16) (e.word.extractLsb' 64 56).toNat % 2 ^ 56 ∧
        w.extractLsb' 120 16 = e.word.extractLsb' 120 16 ∧
        (w.extractLsb' 136 56).toNat = field (e.tag.toNat / 16 % 16) (e.word.extractLsb' 136 56).toNat % 2 ^ 56 ∧
        (w.extractLsb' 192 56).toNat = field (e.tag.toNat / 256 % 16) (e.word.extractLsb' 192 56).toNat % 2 ^ 56 ∧
        w.extractLsb' 248 8 = e.word.extractLsb' 248 8) ∧
    (r.state = .drain → (∀ q ∈ s.commandsOf k, q.replayed = none ∨ q.play ≠ r.play) → ∀ t, Map.find? (s.cluster cl).tapes r.index = some t →
      ((t.listing[r.pos]?.map fun e => e.tag.toNat / 2 ^ 12) = some 15 →
        exec (.replayDrainEnd c) s = .next (s.replayReturn c 0)) ∧
      ((t.listing[r.pos]?.map fun e => e.tag.toNat / 2 ^ 12) ≠ some 15 → ∃ u : State,
        exec (.replayDrainEnd c) s = .next u ∧ (u.core c).replay = { r with state := .stream, pos := r.pos + 1 } ∧ u.mem = s.mem))

/-- The state registers (R36 to R40, R351): GETS reads the register numbered; an unassigned number traps ILLOP; SETS of a
read-only register changes nothing, of another takes effect or is discarded whole as the maps say; VIGIL and FABCTL are
the monitor's. NOP and BREAK. -/
def Obligations.SystemRegisters : Prop :=
  ∀ (d a : Reg) (n : BitVec 12) (s : State),
    let g : Shape := { dst := some d }
    let sup := decide (n.toNat ∈ [4, 0x100, 0x101, 0x110, 0x111, 0x112])
    let w : Shape := { srcs := [a], full := sup, priv := sup }
    let known := n.toNat ≤ 9 ∨ (0x100 ≤ n.toNat ∧ n.toNat ≤ 0x104) ∨ (0x110 ≤ n.toNat ∧ n.toNat ≤ 0x112)
    let p := s.cur
    let x := s.core s.here
    let cl := clusterOf s.here
    let q := s.pkg (pkgOf s.here)
    (Ready g s →
      (¬known → exec (.gets d n) s = .next (s.trap 0x01 [n.setWidth 64])) ∧
      ∀ e ∈ ([(0, BitVec.ofNat 64 (p.light.toNat + p.supv.toNat * 2 + p.vext.isSome.toNat * 2 ^ 2 + p.sstep.toNat * 2 ^ 3 +
              p.inalt.toNat * 2 ^ 4 + p.recording.toNat * 2 ^ 5 + p.cause.toNat * 2 ^ 8 + p.domain.toNat * 2 ^ 16)),
          (1, p.pid), (2, p.rank.setWidth 64), (3, p.prio.setWidth 64),
          (4, BitVec.ofNat 64 (p.limit.toNat + p.used.toNat * 2 ^ 32)), (5, p.debt.setWidth 64),
          (6, BitVec.ofNat 64 (p.qen.toNat + p.qdir.toNat * 2 ^ 8)), (7, p.pool), (8, p.fmtctl), (9, p.rowprog),
          (0x100, x.slice.setWidth 64), (0x101, BitVec.ofNat 64 (x.fulln + x.lightn * 2 ^ 11 + x.extn * 2 ^ 32)),
          (0x102, (s.cluster cl).loadreg), (0x103, BitVec.ofNat 64 q.heartbeat), (0x104, q.stepno),
          (0x110, x.dlprobe.setWidth 64),
          (0x111, BitVec.ofNat 64 ((s.cluster cl).vigilInterval.toNat +
            min (2 ^ 32 - 1) (q.time - (s.cluster cl).vigilSince) * 2 ^ 32)),
          (0x112, BitVec.ofNat 64 q.fablimit.toNat)] : List (Nat × Word)),
        n.toNat = e.1 → exec (.gets d n) s = .next (s.doneWith g e.2)) ∧
    (Ready w s →
      let v := s.source w 0
      let sets := exec (.sets a n) s
      (¬known → sets = .next (s.trap 0x01 [n.setWidth 64])) ∧
      (n.toNat ∈ [0x111, 0x112] → s.isMonitor s.self = false → sets = .next (s.trap 0x02 [])) ∧
      (n.toNat ∈ [0, 1, 2, 3, 5, 6, 9, 0x102, 0x103, 0x104] → sets = .next (s.done w)) ∧
      (n.toNat = 4 → sets = .next (State.done { s with cur := { p with limit := v.setWidth 32 } } w)) ∧
      (n.toNat = 7 →
        let base := v.toNat / 2 ^ 5 % 2 ^ 14
        let count := v.toNat / 2 ^ 20 % 2 ^ 12
        let bad := v.toNat % 2 ^ 5 ≠ 0 ∨ v.getLsbD 19 = true ∨ v.toNat / 2 ^ 32 ≠ 0 ∨ 2048 < count ∨
          ctxBase x < 32 * base + 32 * count
        let t : State := { s with cur := { p with pool := v } }
        (bad → sets = .next (s.done w)) ∧
        (¬bad → ∀ r, x.recording = some r → r.owner = s.self → sets = .next ((t.abandonRec s.here 3).done w)) ∧
        (¬bad → (∀ r, x.recording = some r → r.owner ≠ s.self) → sets = .next (t.done w))) ∧
      (n.toNat = 8 →
        let bad := v.toNat / 2 ^ 4 % 2 ^ 4 ≠ 0 ∨ v.toNat / 2 ^ 13 ≠ 0
        (bad → sets = .next (s.done w)) ∧
        (¬bad → sets = .next (State.done { s with cur := { p with fmtctl := v } } w))) ∧
      (n.toNat = 0x100 →
        (2 ^ 16 ≤ v.toNat → sets = .next (s.done w)) ∧
        (v.toNat < 2 ^ 16 → sets = .next ((s.setCore s.here { x with slice := v.setWidth 16 }).done w))) ∧
      (n.toNat = 0x101 →
        let f := v.toNat % 2 ^ 9
        let l := v.toNat / 2 ^ 11 % 2 ^ 11
        let e := v.toNat / 2 ^ 32 % 2 ^ 8
        let bad := v.toNat / 2 ^ 9 % 2 ^ 2 ≠ 0 ∨ v.toNat / 2 ^ 22 % 2 ^ 10 ≠ 0 ∨ v.toNat / 2 ^ 40 ≠ 0 ∨ f < 8 ∨ 256 < f ∨
          1024 < l ∨ 262144 < 384 * f + 96 * l + 2240 * e ∨ ∃ k ∈ s.live, coreOf k = s.here ∧ k ≠ s.self
        (bad → sets = .next (s.done w)) ∧
        (¬bad → sets = .next ((s.setCore s.here { x with fulln := f, lightn := l, extn := e }).done w))) ∧
      (n.toNat = 0x110 →
        (2 ^ 32 ≤ v.toNat → sets = .next (s.done w)) ∧
        (v.toNat < 2 ^ 32 → sets = .next ((s.setCore s.here { x with dlprobe := v.setWidth 32 }).done w))) ∧
      (s.isMonitor s.self = true →
        (n.toNat = 0x111 → ∃ t : State, sets = .next (t.done w) ∧ (t.cluster cl).vigilInterval = v.setWidth 32 ∧
          (t.cluster cl).vigilSince = (s.cluster cl).vigilSince ∧ t.cur = p ∧ t.mem = s.mem) ∧
        (n.toNat = 0x112 → 2 ≤ v.toNat → sets = .next (s.done w)) ∧
        (n.toNat = 0x112 → v.toNat < 2 → ∃ t : State, sets = .next (t.done w) ∧
          (t.pkg (pkgOf s.here)).fablimit = v.getLsbD 0 ∧ t.cur = p ∧ t.mem = s.mem))) ∧
    (Ready {} s → exec .nop s = .next (s.done {}) ∧ exec .break s = .next (s.trap 0x16 [0]))

/-- Package-wide maintenance (R237, R238, R346 to R348, R351): the checks of TLBINV and KEYSET in their order, what they and
CFLUSH and CINV do after their drain (the walkers' kept table entries included), their wait with WAITK 14, and what its end does: a reply's entry is freed and its
waiters restart or trap XLATE. -/
def Obligations.Maintenance : Prop :=
  ∀ (d a : Reg) (r g : BitVec 2) (s : State),
    let tl : Shape := { srcs := [a, d], full := true, priv := true }
    let cf : Shape := { srcs := [a], full := true, priv := true }
    let ks : Shape := { srcs := [a], dsrc := some d, full := true, priv := true }
    let kc : Shape := { dsrc := some d, full := true, priv := true }
    let p := pkgOf s.here
    let m := s.isMonitor s.self
    (Ready tl s →
      let va := s.source tl 0
      let c := s.source tl 1
      let dom := c.toNat % 2 ^ 12
      let bad := c.toNat / 2 ^ 12 % 2 ^ 20 ≠ 0 ∨ (g = 2 ∧ dom ≠ 0)
      let foreign := m = false ∧ (g = 2 ∨ dom ≠ s.cur.domain.toNat)
      let high := g = 0 ∧ va.toNat / 2 ^ 52 % 2 ^ 4 ≠ 0
      (bad → exec (.tlbinv d a r g) s = .next (s.trap 0x05 [c])) ∧
      (¬bad → foreign → exec (.tlbinv d a r g) s = .next (s.trap 0x05 [c, 8])) ∧
      (¬bad → ¬foreign → high → exec (.tlbinv d a r g) s = .next (s.trap 0x05 [va])) ∧
      (¬bad → ¬foreign → ¬high → Drained s .package →
        let gone := fun (e : Trans) => g = 2 ∨ (e.domain = dom ∧ (g = 1 ∨ e.page = pageAt (va.toNat % 2 ^ 52) e.level))
        ∃ t : State, exec (.tlbinv d a r g) s =
            .next ((t.parkAfter 14 .remote [va, r.setWidth 64, c] none).keepWords (s.portWords [a, d])) ∧
          (∀ cl, cl / 128 = p → (t.cluster cl).tcache = (s.cluster cl).tcache.filter fun e => !decide (gone e)) ∧
          (∀ cl, cl / 128 ≠ p → t.cluster cl = s.cluster cl) ∧
          (∀ b, b / 4 = p → (t.base b).tables = keptWithout g.toNat dom va (s.base b) ∧
            (t.base b).faults = (s.base b).faults) ∧
          (∀ b, b / 4 ≠ p → t.base b = s.base b) ∧ t.cur = s.cur ∧ t.mem = s.mem)) ∧
    (∀ dom va (x : Base), keptWithout 2 dom va x = [] ∧ (keptWithout 1 dom va x = x.tables.filter fun e => e.domain ≠ dom) ∧
      ∀ e : KeptEntry, e ∈ keptWithout 0 dom va x ↔
        e ∈ x.tables ∧ ¬(e.domain = dom ∧ e.page = pageAt (va.toNat % 2 ^ 52) e.level)) ∧
    (∀ vals v k, Resumed tl s vals v k → exec (.tlbinv d a r g) s = .next (s.done tl)) ∧
    (∀ vals v k, Resumed ks s vals v k → exec (.keyset d a) s = .next (s.done ks)) ∧
    (∀ vals v k, Resumed kc s vals v k → exec (.keysetClr d) s = .next (s.done kc)) ∧
    (∀ vals v k, Resumed cf s vals v k →
      exec (.cflush a r) s = .next (s.done cf) ∧ exec (.cinv a r) s = .next (s.done cf)) ∧
    (let slot := fun (c : Word) => c.toNat % 2 ^ 11
     let dom := fun (c : Word) => c.toNat / 2 ^ 16 % 2 ^ 12
     let bad := fun (c : Word) => c.toNat / 2 ^ 11 % 2 ^ 5 ≠ 0 ∨ c.toNat / 2 ^ 28 ≠ 0 ∨ ((s.pkg p).domain (dom c)).valid = false ∨
       (m = false ∧ dom c ≠ s.cur.domain.toNat)
     let foreign := fun (c : Word) =>
       m = false ∧ ∃ k, Map.find? (s.pkg p).keys (slot c) = some k ∧ k.owner ≠ s.cur.domain.toNat
     (Ready kc s →
       let c := s.cur.reg d
       (bad c → exec (.keysetClr d) s = .next (s.trap 0x05 [c])) ∧
       (¬bad c → foreign c → exec (.keysetClr d) s = .next (s.trap 0x05 [c, 8])) ∧
       (¬bad c → ¬foreign c → Drained s .package → ∃ t : State,
         exec (.keysetClr d) s = .next (t.parkAfter 14 .remote [] none) ∧
         (t.pkg p).keys = (s.pkg p).keys.del (slot c) ∧ t.cur = s.cur ∧ t.mem = s.mem)) ∧
     (Ready ks s →
       let va := s.source ks 0
       let c := s.cur.reg d
       (bad c → exec (.keyset d a) s = .next (s.trap 0x05 [c])) ∧
       (¬bad c → foreign c → exec (.keyset d a) s = .next (s.trap 0x05 [c, 8])) ∧
       (¬bad c → ¬foreign c → ∀ sp t, s.classify s.here s.cur.domain.toNat s.cur.supv va 64 .read = (.ok sp, t) →
         ((∀ loc, sp = .mem loc none → ¬(kindOf loc = .spad ∧ coreOfSpad loc = t.here)) →
           exec (.keyset d a) s = .next (s.trap 0x05 [va])) ∧
         (∀ loc, sp = .mem loc none → kindOf loc = .spad → coreOfSpad loc = t.here →
           (va.toNat % 64 ≠ 0 → exec (.keyset d a) s = .next (s.trap 0x03 [va])) ∧
           (va.toNat % 64 = 0 → ∀ bss u, ReadsAll t ((List.range 8).map fun j =>
               { ea := addAddr va ((8 * j : Nat) : Int), n := 8, spot := .mem (loc + 8 * j) none }) bss u →
             let k := leVal bss.flatten
             (k % 2 ^ 256 = k / 2 ^ 256 → exec (.keyset d a) s = .next (u.trap 0x05 [c, 7])) ∧
             (k % 2 ^ 256 ≠ k / 2 ^ 256 → Drained u .package → ∃ v : State,
               exec (.keyset d a) s = .next ((v.parkAfter 14 .remote [] none).keepWords (s.portWords [a])) ∧
               (v.pkg (pkgOf u.here)).keys =
                 Map.put (u.pkg (pkgOf u.here)).keys (slot c) { material := BitVec.ofNat 512 k, owner := dom c } ∧
               v.cur = u.cur ∧ v.mem = u.mem)))))) ∧
    (Ready cf s →
      let va := s.source cf 0
      let go := fun (lo n : Nat) (t : State) (f : State → Nat → State) => State.keepWords ((((t.dirty.filter fun e =>
        decide (e.2.cluster / 128 = p) && decide (lo ≤ e.1) && decide (e.1 < lo + n)).map (·.1)).foldl f t).parkAfter
          14 .remote [va] none) (s.portWords [a])
      (r = 2 → Drained s .package → exec (.cflush a r) s = .next (go 0 (2 ^ 60) s State.writeBack) ∧
        exec (.cinv a r) s = .next (go 0 (2 ^ 60) s State.dropLine)) ∧
      (r ≠ 2 → va.toNat / 2 ^ 52 % 2 ^ 4 ≠ 0 →
        exec (.cflush a r) s = .next (s.trap 0x05 [va]) ∧ exec (.cinv a r) s = .next (s.trap 0x05 [va])) ∧
      (r ≠ 2 → va.toNat / 2 ^ 52 % 2 ^ 4 = 0 → ∀ t,
        (∀ port addr io, s.translate s.here s.cur.domain.toNat va .nothing = (.ok (.port port addr io), t) →
          exec (.cflush a r) s = .next (t.done cf) ∧ exec (.cinv a r) s = .next (t.done cf)) ∧
        (∀ loc rule key, s.translate s.here s.cur.domain.toNat va .nothing = (.ok (.mem loc key), t) ∨
            (∃ k, s.translate s.here s.cur.domain.toNat va .nothing = (.ok (.step loc rule k), t)) ∨
            (∃ k, s.translate s.here s.cur.domain.toNat va .nothing = (.ok (.atomic loc k), t)) →
          Drained t .package → pkgOf t.here = p →
          let n := if r = 0 then 1 else 1024
          exec (.cflush a r) s = .next (go (loc / 64 / n * n) n t State.writeBack) ∧
            exec (.cinv a r) s = .next (go (loc / 64 / n * n) n t State.dropLine)))) ∧
    (∀ l x, Map.find? s.dirty l = some x →
      Map.find? (s.dropLine l).dirty l = none ∧ Map.find? (s.writeBack l).dirty l = none ∧
      (s.Inv → x.bytes.length = 64 → (s.dropLine l).mem.read (64 * l) 64 = x.bytes) ∧ (s.writeBack l).mem = s.mem) ∧
    (∀ k vals v x i w, (s.proc k).state = .parked → (s.proc k).waitk = 14 → (s.proc k).inflight = some (i, w) →
      (s.proc k).phase = .after vals v x →
      (i = .keyset d a ∨ i = .keysetClr d ∨ i = .cflush a r ∨ i = .cinv a r ∨ (i = .tlbinv d a r g ∧ op vals 1 = 0) →
        exec (.maintenanceComplete k) s = .next (s.wake k 0 1)) ∧
      (i = .tlbinv d a r g → op vals 1 ≠ 0 →
        let tag := (op vals 2).toNat / 2 ^ 32
        let dom := (op vals 2).toNat % 2 ^ 12
        let b := pkgOf (coreOf k) * 4 + tag / 2 ^ 30
        let named := fun (f : FaultEntry) => Map.find? (s.base b).faults (tag % 2 ^ 8) = some f ∧
          f.serial = tag / 2 ^ 8 % 2 ^ 22 ∧ f.domain = dom
        ((∀ f, ¬named f) → exec (.maintenanceComplete k) s = .next (s.wake k 0 1)) ∧
        (∀ f, named f → ∃ u : State, exec (.maintenanceComplete k) s = .next ((f.waiters.foldl (fun (t : State) y =>
            if op vals 1 = 1 then t.replayWaiter y else t.failWaiter y) u).wake k 0 1) ∧ u.cur = s.cur ∧ u.procs = s.procs ∧
          ((s.base b).waiting = [] → Map.find? (u.base b).faults (tag % 2 ^ 8) = none)))) ∧
    (∀ y : FaultWaiter, y.engine = false →
      ((s.proc y.slot).pid = y.pid → (s.proc y.slot).waitk = 9 →
        s.replayWaiter y = s.wake y.slot 0 0 ∧ s.failWaiter y = s.trapOf y.slot 0x07 [y.va]) ∧
      ((s.proc y.slot).pid ≠ y.pid → s.replayWaiter y = s ∧ s.failWaiter y = s))

/-- The nine tile commands complete (R146, R150, R151, R153, R155 to R159, R162 to R164). The event of a core's first tile
command that may run starts it, ends the restart unit in progress and carries it on: TNOP, TZ and TMOV are done at once;
TMMA, TSMMA, TLDACC, TEW and TST run their units up to 32, TRED its one, and then the command leaves its queue. A format, a
function, a sparsity or an alignment that the command does not admit is an engine error; a unit that meets an engine error
or a missing translation stops the command at that unit, and one that meets a home applying a calends waits there. -/
def Obligations.TileCommands : Prop :=
  ∀ (s : State) (c : CoreId) (q : Cmd), s.nextTile c = some q →
    let q1 := (s.startCmd c q).1
    let p := (q1, (s.startCmd c q).2)
    let q2 := (p.2.flushUnit c p.1).1
    let s2 := (p.2.flushUnit c p.1).2
    let f := fun (lo n : Nat) => q.word.toNat / 2 ^ lo % 2 ^ n
    let tile := f 8 3
    let fa := f 11 5
    let fb := f 16 5
    let fo := f 21 5
    let kk := f 32 16
    let a := f 64 56
    let b := f 136 56
    let ss := f 192 56
    let slay := f 248 8
    let tb := q.word.getLsbD 29
    let narrow := fun (x : Nat) => 5 ≤ x ∧ x ≤ 9
    let L := if q.word.getLsbD 250 = true then 16 else 32
    let scA := q.word.getLsbD 248 = true ∧ narrow fa
    let x := s2.core c
    let errors := fun (e : Instr) (cause v : Nat) => exec e s = .next (s2.engineError c q2 q2.units cause (BitVec.ofNat 64 v))
    let runs := fun (e : Instr) (unit : Units) (n : Nat) (u : State) =>
      (∀ t, RunsUnits c q2 unit (n - q2.units) q2.units u t → exec e s = .next (t.complete c q2)) ∧
      (∀ m t, q2.units + m < n → RunsUnits c q2 unit m q2.units u t →
        (∀ cause v, unit (q2.units + m) t = .err cause v → exec e s = .next (t.engineError c q2 (q2.units + m) cause v)) ∧
        (∀ va l g w, unit (q2.units + m) t = .miss va l g w →
          exec e s = .next (t.engineFault c q2 (q2.units + m) va l g w)) ∧
        (unit (q2.units + m) t = .held →
          exec e s = .next (t.modCmd c q2 fun y => { y with units := q2.units + m })))
    (q2.word = q.word ∧ q2.tag = q.tag ∧ q2.owner = q.owner ∧ q2.pid = q.pid ∧ q2.pending = [] ∧
      (q.lutCopy = none → q2.lutCopy = some ((List.range 256).map (s.lutTable c (slay / 8 % 4)))) ∧
      (∀ l, q.lutCopy = some l → q2.lutCopy = some l) ∧
      q2.units = q.units ∧ (q.pending = [] → s2.mem = s.mem ∧ x.acc = (s.core c).acc ∧ x.accPoison = (s.core c).accPoison)) ∧
    (∀ e ∈ ((s2.complete c q2).core c).tileQ, e.same q2 = false) ∧
    (f 0 8 = 0 → exec (.tnop c) s = .next (s2.complete c q2)) ∧
    (f 0 8 = 1 → ∃ t : State, exec (.tz c) s = .next (t.complete c q2) ∧ t.cur = s2.cur ∧ t.mem = s2.mem ∧
      ∀ n i j, i < 32 → j < 32 →
        (t.core c).accAt n i j = (if n = tile then 0 else x.accAt n i j) ∧
        (t.core c).accBad n i j = (if n = tile then false else x.accBad n i j)) ∧
    (f 0 8 = 8 → ∃ t : State, exec (.tmov c) s = .next (t.complete c q2) ∧ t.cur = s2.cur ∧ t.mem = s2.mem ∧
      ∀ n i j, i < 32 → j < 32 →
        (t.core c).accAt n i j = (if n ≠ slay % 8 then x.accAt n i j else if tb = true then x.accAt tile j i
          else x.accAt tile i j) ∧
        (t.core c).accBad n i j = (if n ≠ slay % 8 then x.accBad n i j else if tb = true then x.accBad tile j i
          else x.accBad tile i j)) ∧
    (∀ e ∈ [(2, Instr.tmma c), (3, .tsmma c)], f 0 8 = e.1 →
      let legal := fun (n : Nat) => n ∈ [3, 4, 5, 6, 7, 8, 9, 10, 11, 12, 16]
      let sparse := e.1 = 3 ∧ f 30 2 ≠ 0
      let fits := legal fa ∧ legal fb ∧ ¬(sparse ∧ kk % 24 ≠ 0)
      (¬legal fa → errors e.2 0x04 fa) ∧
      (legal fa → ¬legal fb → errors e.2 0x04 fb) ∧
      (legal fa → legal fb → sparse → kk % 24 ≠ 0 → errors e.2 0x01 4) ∧
      (fits → kk = 0 → exec e.2 s = .next (s2.complete c q2)) ∧
      (fits → kk ≠ 0 → a % 16 ≠ 0 → errors e.2 0x03 a) ∧
      (fits → kk ≠ 0 → a % 16 = 0 → b % 16 ≠ 0 → errors e.2 0x03 b) ∧
      (fits → kk ≠ 0 → a % 16 = 0 → b % 16 = 0 → sparse → ss % 8 ≠ 0 → errors e.2 0x03 ss) ∧
      (fits → kk ≠ 0 → a % 16 = 0 → b % 16 = 0 → ¬(sparse ∧ ss % 8 ≠ 0) → ∀ rows t sc u,
        State.engRows c q2 b (f 120 16) (rowBytes fb (if tb = true then kk else 32))
          (List.range (if tb = true then 32 else kk)) [] s2 = .ok rows t →
        (let nb := (kk + L - 1) / L
         let s0 := if sparse then ss + 256 * (kk / 24) else ss
         t.engScales c q2 (decide (q.word.getLsbD 249 = true ∧ narrow fb)) (if scA then s0 + 32 * nb else s0)
           (32 * nb) = .ok sc u) →
        runs e.2 (State.mmaRow c q2 (decide sparse) ((List.range 32).map fun j => q2.columnB rows sc j)) 32 u)) ∧
    (f 0 8 = 4 →
      let legal := 1 ≤ fa ∧ fa ≤ 16 ∧ fa ≠ 13
      (¬legal → errors (.tldacc c) 0x04 fa) ∧
      (legal → a % 16 ≠ 0 → errors (.tldacc c) 0x03 a) ∧
      (legal → a % 16 = 0 → runs (.tldacc c) (State.ldRow c q2) 32 s2)) ∧
    (f 0 8 = 6 →
      (10 ≤ slay % 16 → errors (.tew c) 0x01 4) ∧
      (slay % 16 < 10 → a % 16 ≠ 0 → errors (.tew c) 0x03 a) ∧
      (slay % 16 < 10 → a % 16 = 0 → b % 16 ≠ 0 → errors (.tew c) 0x03 b) ∧
      (slay % 16 < 10 → a % 16 = 0 → b % 16 = 0 → runs (.tew c) (State.ewRow c q2) 32 s2)) ∧
    (let legal := 1 ≤ fo ∧ fo ≤ 16 ∧ fo ≠ 13
     (f 0 8 = 5 →
       (¬legal → errors (.tst c) 0x04 fo) ∧
       (legal → a % 16 ≠ 0 → errors (.tst c) 0x03 a) ∧
       (legal → a % 16 = 0 → runs (.tst c) (State.stRow c q2) 32 s2)) ∧
     (f 0 8 = 7 →
       (¬legal → errors (.tred c) 0x04 fo) ∧
       (legal → slay % 4 = 3 → errors (.tred c) 0x01 4) ∧
       (legal → slay % 4 ≠ 3 → a % 16 ≠ 0 → errors (.tred c) 0x03 a) ∧
       (legal → slay % 4 ≠ 3 → a % 16 = 0 → runs (.tred c) (State.redUnit c q2) 1 s2)))

/-- What one restart unit of a tile command computes and which poison it carries (R86, R100, R101, R150 to R154, R156 to
R159): a column of B and a row of TMMA and TSMMA, the sparse operand decompressed; a row of TLDACC, dequantised or not; a
row of TEW; a row of TST, quantised or not; the 32 values of TRED. -/
def Obligations.TileResults : Prop :=
  ∀ (s : State) (c : CoreId) (q : Cmd),
    let f := fun (lo n : Nat) => q.word.toNat / 2 ^ lo % 2 ^ n
    let tile := f 8 3
    let fa := f 11 5
    let fb := f 16 5
    let fo := f 21 5
    let rm := Rm.ofCode (f 26 2)
    let sat := q.word.getLsbD 28
    let tb := q.word.getLsbD 29
    let kk := f 32 16
    let a := f 64 56
    let b := f 136 56
    let ss := f 192 56
    let slay := f 248 8
    let narrow := fun (x : Nat) => 5 ≤ x ∧ x ≤ 9
    let L := if q.word.getLsbD 250 = true then 16 else 32
    let nb := (kk + L - 1) / L
    let scA := q.word.getLsbD 248 = true ∧ narrow fa
    let scB := q.word.getLsbD 249 = true ∧ narrow fb
    let x := s.core c
    let canon := fun (v : Nat) => if (FFmt.fp32.decode v).isNaN = true then 0x7FC00000 else v
    let scaled := fun (k : Nat) (y : XVal) => if k = 255 then XVal.qnan else y.scale ((k : Int) - 127)
    let poisoned := fun (l : List (Byte × Bool)) => ∃ y ∈ l, y.2 = true
    (∀ rows sc j k F, Fmt.ofCode fb = some F → k < kk →
      let e := F.val q.lut (if tb = true then packedCode (fmtWidth fb) (rows.getD j []) k
        else packedCode (fmtWidth fb) (rows.getD k []) j)
      (q.columnB rows sc j).1.getD k .qnan =
        (if scB then scaled (sc.getD (nb * j + k / L) (0, false)).1.toNat e else e)) ∧
    (∀ (n word : Nat) (e : Nat → XVal) (p : Nat), p < 24 →
      let at_ := fun (i : Nat) => word / 2 ^ (5 * i) % 32 = p
      ((∀ i, i < n → ¬at_ i) → (decompress n word e).getD p .qnan = .zero false) ∧
      (∀ i, i < n → at_ i → (∀ j, i < j → j < n → ¬at_ j) → (decompress n word e).getD p .qnan = e i)) ∧
    (∀ sparse cols i row t me u sa v F, cols.length = 32 → Fmt.ofCode fa = some F →
      let n := if f 30 2 = 1 then 12 else if f 30 2 = 2 then 8 else 6
      let elems := if sparse = true then kk / 24 * n else kk
      let s0 := if f 0 8 = 3 ∧ sparse = true then ss + 256 * (kk / 24) else ss
      s.engRead c q (a + 16 * f 48 16 * i) (rowBytes fa elems) = .ok row t →
      t.engScales c q sparse (ss + 8 * (i * (kk / 24))) (8 * (kk / 24)) = .ok me u →
      u.engScales c q (decide scA) (s0 + nb * i) nb = .ok sa v →
      let elem := fun (k : Nat) => F.val q.lut (packedCode (fmtWidth fa) row k)
      let plain := if sparse = true then (List.range (kk / 24)).flatMap fun g =>
          decompress n (leVal (((me.drop (8 * g)).take 8).map (·.1))) fun e => elem (g * n + e)
        else (List.range kk).map elem
      let A := if scA then (plain.zip (List.range kk)).map fun y => scaled (sa.getD (y.2 / L) (0, false)).1.toNat y.1 else plain
      ∃ w, State.mmaRow c q sparse cols i s = .ok [] w ∧ w.mem = v.mem ∧ ∀ j, j < 32 →
        (w.core c).accAt tile i j =
          chunks ((kk + 31) / 32) ((v.core c).accAt tile i j) (A.zip (cols.getD j ([], false)).1) % 2 ^ 32 ∧
        ((w.core c).accBad tile i j = true ↔ (v.core c).accBad tile i j = true ∨ poisoned row ∨ poisoned me ∨ poisoned sa ∨
          (cols.getD j ([], false)).2 = true)) ∧
    (∀ i row t sc u F, Fmt.ofCode fa = some F → s.engRead c q (a + 16 * f 48 16 * i) (rowBytes fa 32) = .ok row t →
      t.engScales c q (decide scA) (ss + 32 / L * i) (32 / L) = .ok sc u →
      let elem := fun (j : Nat) => F.val q.lut (packedCode (fmtWidth fa) row j)
      ∃ v, State.ldRow c q i s = .ok [] v ∧ v.mem = u.mem ∧ ∀ j, j < 32 →
        (v.core c).accAt tile i j = canon (round .fp32 rm false
          (if scA then scaled (sc.getD (j / L) (0, false)).1.toNat (elem j) else elem j)).1 % 2 ^ 32 ∧
        ((v.core c).accBad tile i j = true ↔ poisoned row ∨ poisoned sc)) ∧
    (∀ i, a = 0 → b = 0 → ∃ v, State.ewRow c q i s = .ok [] v ∧ v.mem = s.mem ∧ ∀ j, j < 32 →
      let y := (farith .mul .fp32 rm false (x.accAt tile i j) 0x3F800000 0).1
      (v.core c).accBad tile i j = x.accBad tile i j ∧
      (slay % 16 = 0 → (v.core c).accAt tile i j = canon y % 2 ^ 32) ∧
      (slay % 16 = 9 → (v.core c).accAt tile i j =
        (if (FFmt.fp32.decode y).isNaN = true then 0x7FC00000 else if y / 2 ^ 31 % 2 = 1 then 0 else y) % 2 ^ 32)) ∧
    (∀ F, Fmt.ofCode fo = some F →
      let code := fun (v : Nat) => (F.enc q.lut rm sat (FFmt.fp32.decode (canon v))).1
      (∀ i, ¬(q.word.getLsbD 248 = true ∧ narrow fo) → ∃ bs : List (Byte × Bool), bs.length = 4 * fmtWidth fo ∧
        State.stRow c q i s = s.engWrite c q [(a + 16 * f 48 16 * i, bs)] ∧
        (∀ j, j < 32 → packedCode (fmtWidth fo) bs j = code (x.accAt tile i j) % 2 ^ fmtWidth fo) ∧
        ∀ m, m < 4 * fmtWidth fo → ((bs.getD m (0, false)).2 = true ↔
          ∃ j, j < 32 ∧ fmtWidth fo * j < 8 * (m + 1) ∧ 8 * m < fmtWidth fo * (j + 1) ∧ x.accBad tile i j = true)) ∧
      (∀ i, ∃ bs : List (Byte × Bool), bs.length = 4 * fmtWidth fo ∧
        State.redUnit c q i s = s.engWrite c q [(a, bs)] ∧
        ∀ j, j < 32 → packedCode (fmtWidth fo) bs j = code (treeReduce (redOp (slay % 4) 1 rm false) 5
          ((List.range 32).map fun m => if q.word.getLsbD 250 = true then x.accAt tile m j else x.accAt tile j m) .none).1 %
            2 ^ fmtWidth fo)) ∧
    (∀ i F, Fmt.ofCode fo = some (.float F) → q.word.getLsbD 248 = true → narrow fo →
      let block := fun (n : Nat) => mxQuant F sat ((List.range L).map fun k =>
        FFmt.fp32.decode (canon (x.accAt tile i (L * n + k))))
      ∃ bs sc : List (Byte × Bool), bs.length = 4 * fmtWidth fo ∧ sc.length = 32 / L ∧
        State.stRow c q i s = s.engWrite c q [(a + 16 * f 48 16 * i, bs), (ss + 32 / L * i, sc)] ∧
        (∀ j, j < 32 → packedCode (fmtWidth fo) bs j = (block (j / L)).2.1.getD (j % L) 0 % 2 ^ fmtWidth fo) ∧
        ∀ n, n < 32 / L → (sc.getD n (0, false)).1 = BitVec.ofNat 8 (block n).1 ∧
          ((sc.getD n (0, false)).2 = true ↔ ∃ k, k < L ∧ x.accBad tile i (L * n + k) = true))

/-- CPL, CP2D and CPG complete (R146, R160 to R164). The event of a core's first copy command that may run starts it, ends the
restart unit in progress and carries it on: its barrier is checked before a byte moves; once every unit has run the
command credits its barrier with the bytes it moved and leaves its queue. A misaligned barrier, and one in no scratchpad
class, is an engine error; a unit that meets an engine error or a missing translation stops the command there without a
credit. A unit moves 64 bytes, a row, or a record found through its index, with the poison of the bytes it moves. -/
def Obligations.CopyCommands : Prop :=
  ∀ (s : State) (c : CoreId) (q : Cmd), s.nextCopy c = some q →
    let q1 := (s.startCmd c q).1
    let p := (q1, (s.startCmd c q).2)
    let q2 := (p.2.flushUnit c p.1).1
    let s2 := (p.2.flushUnit c p.1).2
    let f := fun (lo n : Nat) => q.word.toNat / 2 ^ lo % 2 ^ n
    let kk := f 32 16
    let a := f 64 56
    let b := f 136 56
    let ss := f 192 56
    let slay := f 248 8
    let n := 65536 * slay + kk
    let size := 16 * f 120 16
    let cpl := fun (m : Moves) (q0 : Cmd) (i : Nat) (t : State) =>
      t.copyUnit c q0 m (a + 64 * i, b + 64 * i, min 64 (n - 64 * i))
    let cp2d := fun (m : Moves) (q0 : Cmd) (r : Nat) (t : State) =>
      t.copyUnit c q0 m (a + 16 * f 48 16 * r, b + size * r, kk)
    let cpg := fun (m : Moves) (q0 : Cmd) (r : Nat) (t : State) =>
      (t.engRead c q0 b 8).bind fun y u => (u.engRead c q0 (b + 8 + 4 * r) 4).bind fun x v =>
        v.copyUnit c q0 m (a + 16 * f 48 16 * r, leVal (y.map (·.1)) % 2 ^ 56 + size * leVal (x.map (·.1)), size)
    (q2.word = q.word ∧ q2.tag = q.tag ∧ q2.owner = q.owner ∧ q2.pid = q.pid ∧ q2.pending = [] ∧
      q2.units = q.units ∧ (q.pending = [] → s2.mem = s.mem)) ∧
    (∀ e ∈ ((s2.complete c q2).core c).copyQ, e.same q2 = false) ∧
    (∀ y ∈ [(0x40, Instr.cpl c, (n + 63) / 64, n, cpl), (0x41, .cp2d c, slay + 1, (slay + 1) * kk, cp2d),
        (0x42, .cpg c, kk, size * kk, cpg)], f 0 8 = y.1 →
      let m := if y.1 = 0x42 then s2.cpgMoves c q2 else s2.copyMoves c q2
      let done := fun (loc : Option Nat) (u t : State) =>
        let q0 := (u.keepBefore c q2 m).1
        let v := (u.keepBefore c q2 m).2
        RunsUnits c q2 (y.2.2.2.2 m q0) (y.2.2.1 - q2.units) q2.units v t →
          exec y.2.1 s = .next (State.complete (match loc with | some l => t.credit c l y.2.2.2.1 | none => t) c q2)
      (ss ≠ 0 → ss % 32 ≠ 0 → exec y.2.1 s = .next (s2.engineError c q2 q2.units 0x03 (BitVec.ofNat 64 ss))) ∧
      (ss ≠ 0 → ss % 32 = 0 → ss < 12 * 2 ^ 52 →
        exec y.2.1 s = .next (s2.engineError c q2 q2.units 0x05 (BitVec.ofNat 64 ss))) ∧
      (ss = 0 → ∀ t, done none s2 t) ∧
      (∀ loc key u, 12 * 2 ^ 52 ≤ ss → ss % 32 = 0 → s2.engLocate c q2 ss 32 .both = .ok (.mem loc key) u →
        kindOf loc ≠ .hbm → ∀ t, done (some loc) u t) ∧
      (ss = 0 →
        let q0 := (s2.keepBefore c q2 m).1
        let v := (s2.keepBefore c q2 m).2
        ∀ k t, q2.units + k < y.2.2.1 → RunsUnits c q2 (y.2.2.2.2 m q0) k q2.units v t →
          (∀ cause w, y.2.2.2.2 m q0 (q2.units + k) t = .err cause w →
            exec y.2.1 s = .next (t.engineError c q2 (q2.units + k) cause w)) ∧
          (∀ va l g w, y.2.2.2.2 m q0 (q2.units + k) t = .miss va l g w →
            exec y.2.1 s = .next (t.engineFault c q2 (q2.units + k) va l g w)))) ∧
    (∀ m, m.overlaps = false → s2.keepBefore c q2 m = (q2, s2)) ∧
    (∀ q0 m dst src len t u new ws, (∀ r ∈ s.movesOf c q0 (dst, src, len), ∀ i, i < r.n → m.source (r.src + i) = none) →
      s.engRead c q0 src len = .ok new t → t.engWrite c q0 [(dst, new)] = .ok ws u →
      s.copyUnit c q0 m (dst, src, len) = .ok ws u) ∧
    (∀ (t : State) loc key va (bs : List (Byte × Bool)), t.Inv → t.ordadds = [] → (t.core c).storeQ = [] → bs ≠ [] →
      kindOf loc ≠ .hbm →
      let u := t.engPut c q2 { target := .mem loc, key := key, bytes := bs, va := va }
      u.mem.read loc bs.length = bs.map (·.1) ∧
      (∀ x, (x < loc ∨ loc + bs.length ≤ x) → u.mem.get x = t.mem.get x) ∧
      ∀ g, natMem u.poison g = true ↔ ((∃ i, i < bs.length ∧ (loc + i) / 8 = g ∧ (bs.getD i (0, false)).2 = true) ∨
        (natMem t.poison g = true ∧ ¬(loc ≤ 8 * g ∧ 8 * g + 8 ≤ loc + bs.length))))

/-- The messages of channels (R253 to R257, R290, R293, R375, R377): an offer stored or handed to the receiver that waits, an
ACK, a block that lands, a withdrawal, BIND and its reply, COMMIT and RETURN with the checks of R256, DESYNC, CHSYNC at
both ends, TIMEOUT, and a peer that is lost. -/
def Obligations.ChannelMessages : Prop :=
  ∀ (s : State) (n : Nat) (m : Msg),
    let t := s.taken n m
    (Arrives s n m →
      (∀ e o, m.body = .offer e o → (t.ep e).state ≠ 0 → (t.ep e).offer = none →
          (∀ x ∈ t.msgs.take n, ∀ k pid, x.body ≠ .withdraw e k pid) →
        let waits := fun (r : Slot) (vals : List Word) => (t.ep e).waiter = some r ∧ (t.proc r).state = .parked ∧
          (t.proc r).wait = .endpoint e ∧ ∃ w, (t.proc r).phase = .after vals w 0
        ((∀ r vals, ¬waits r vals) →
          exec (.offer n) s = .next ((t.modEp e fun x => { x with offer := some o }).wakeEp e)) ∧
        (∀ r vals k pid v, waits r vals → o = .word k pid v → exec (.offer n) s =
          .next ((t.wake r v 1).send (.core (coreOfEp e)) (.core (coreOf k)) .control (.ack k pid))) ∧
        (∀ r vals k pid loc len q, waits r vals → o = .block k pid loc len → (t.core (coreOf k)).storeQ = [] → len % 8 = 0 →
          ownOffset (coreOfEp e) (op vals 1) = some q → ∃ (u : State) (gs : List (Nat × List Byte × Bool)),
          exec (.offer n) s = .next u ∧ u.msgs = t.msgs ++
            [{ src := .core (coreOf k), dst := .core (coreOfEp e), cls := .channel,
               body := .block r (t.proc r).pid len gs },
             { src := .core (coreOfEp e), dst := .core (coreOf k), cls := .control, body := .ack k pid }] ∧
          gs.flatMap (·.2.1) = t.mem.read loc len ∧
          (∀ i, i < len / 8 → ∃ bs, gs[i]? = some (locSpad (coreOfEp e) q + 8 * i, bs, natMem t.poison ((loc + 8 * i) / 8))) ∧
          (u.proc r).state = .parked ∧ (u.proc r).phase = .after vals 0 3 ∧ u.mem = t.mem)) ∧
      (∀ k pid, m.body = .ack k pid →
        ((t.proc k).pid = pid → (t.proc k).state = .parked → exec (.ack n) s = .next (t.wake k 0 1)) ∧
        ((t.proc k).pid ≠ pid ∨ (t.proc k).state ≠ .parked → exec (.ack n) s = .next t)) ∧
      (∀ c k pid len gs, m.src = .core c → m.body = .block k pid len gs →
        let u := t.land c gs
        ((u.proc k).pid = pid → (u.proc k).state = .parked →
          exec (.blockTransferDone n) s = .next (u.wake k (BitVec.ofNat 64 len) 1)) ∧
        ((u.proc k).pid ≠ pid ∨ (u.proc k).state ≠ .parked → exec (.blockTransferDone n) s = .next u)) ∧
      (∀ e k pid, m.body = .withdraw e k pid → (∀ x ∈ t.msgs.take n, ∀ o, x.body = .offer e o → o.sender ≠ (k, pid)) →
        exec (.withdraw n) s = .next (t.modEp e fun x => { x with offer := x.offer.filter fun o => o.sender ≠ (k, pid) })) ∧
      (∀ a b k pid mine peer, m.src = .core a → m.dst = .core b → m.body = .bind k pid mine peer → pid ≠ 0 →
        let e := epOfHandle mine
        let r := epOfHandle peer
        let x := t.ep e
        let y := t.ep r
        let answers := fun (u : State) (v : Answer) => exec (.bind n) s =
          .next (u.send (.core b) (.core a) .channel (.bindReply k pid v))
        let ok := t.accepts peer (t.proc k).domain = true
        let same := x.cls = y.cls ∧ x.fmt = y.fmt ∧ x.shape = y.shape
        let any := y.mode = 2 ∧ y.dir = false
        (¬ok → answers (t.countRefusal peer) (.trap 0x0A [peer, 0])) ∧
        (ok → ¬same → answers t (.trap 0x0B [peer, 5])) ∧
        (ok → same → x.mode ≠ y.mode → answers t (.trap 0x0B [peer, 2])) ∧
        (ok → same → x.mode = y.mode → x.dir = y.dir → answers t (.trap 0x0B [peer, 3])) ∧
        (ok → same → x.mode = y.mode → x.dir ≠ y.dir →
          (x.state = 1 → y.state = 1 → ∃ u, answers u (.value 0) ∧ u.mem = t.mem ∧
            (u.ep e).state = 2 ∧ (u.ep r).state = 2 ∧ (¬(x.mode = 2 ∧ x.dir = false) → (u.ep e).peer = peer) ∧
            (¬any → (u.ep r).peer = mine) ∧ (any → (u.ep r).peer = 0) ∧
            (x.dir = true → x.mode = 1 ∨ x.mode = 2 → (u.ep e).rbase = y.rbase ∧ (u.ep e).rlen = y.rlen)) ∧
          (x.state = 2 → x.peer ≠ 0 → x.peer ≠ peer → answers t (.value 1)) ∧
          (y.state = 2 → (y.peer = mine ∨ any) → x.state = 1 ∨ (x.state = 2 ∧ (x.peer = 0 ∨ x.peer = peer)) →
            ∃ u, answers u (.value 0) ∧ u.mem = t.mem ∧ (u.ep e).state = 2 ∧
              (¬(x.mode = 2 ∧ x.dir = false) → (u.ep e).peer = peer) ∧ u.ep r = y) ∧
          (y.state = 2 → y.peer ≠ mine → ¬any → answers t (.value 1)))) ∧
      (∀ k pid, (t.proc k).pid = pid → (t.proc k).state = .parked →
        (∀ v, m.body = .bindReply k pid (.value v) → exec (.bindReply n) s = .next (t.wake k v 1)) ∧
        (∀ cause ds, m.body = .bindReply k pid (.trap cause ds) →
          exec (.bindReply n) s = .next (t.trapOf k cause ds))) ∧
      (∀ c e h k gs tk, m.src = .core c → m.body = .commit e h k gs tk →
        let x := t.ep e
        let u := t.land c gs
        (x.state ≠ 2 → ¬(x.state = 1 ∧ x.mode = 2) → exec (.commitMessage n) s = .next t) ∧
        (x.state = 2 →
          (tk = none → (x.tail.toNat + k) % 2 ^ 16 = h → (h + 2 ^ 16 - x.head.toNat) % 2 ^ 16 ≤ x.rlen →
            exec (.commitMessage n) s = .next ((u.modEp e fun y => { y with tail := BitVec.ofNat 16 h }).wakeEp e)) ∧
          (tk = none → ¬((x.tail.toNat + k) % 2 ^ 16 = h ∧ (h + 2 ^ 16 - x.head.toNat) % 2 ^ 16 ≤ x.rlen) →
            exec (.commitMessage n) s = .next (u.failCheck e (BitVec.ofNat 64 (h % 2 ^ 16 + k % 2 ^ 16 * 2 ^ 16)))) ∧
          (∀ i, tk = some i → exec (.commitMessage n) s = .next ((u.modEp e fun y =>
            { y with slots := y.slots ++ [i], tail := y.tail + BitVec.ofNat 16 k }).wakeEp e)))) ∧
      (∀ e h k, m.body = .ret e h k →
        let x := t.ep e
        (x.state ≠ 2 → exec (.returnMessage n) s = .next t) ∧
        (x.state = 2 → (x.head.toNat + k) % 2 ^ 16 = h → k ≤ (x.tail.toNat + 2 ^ 16 - x.head.toNat) % 2 ^ 16 →
          exec (.returnMessage n) s = .next ((t.modEp e fun y => { y with head := BitVec.ofNat 16 h }).wakeEp e)) ∧
        (x.state = 2 → ¬((x.head.toNat + k) % 2 ^ 16 = h ∧ k ≤ (x.tail.toNat + 2 ^ 16 - x.head.toNat) % 2 ^ 16) →
          exec (.returnMessage n) s =
            .next (t.failCheck e (BitVec.ofNat 64 (h % 2 ^ 16 + k % 2 ^ 16 * 2 ^ 16 + 2 ^ 32))))) ∧
      (∀ e bad, m.body = .desync e bad →
        ((t.ep e).state = 2 → exec (.desync n) s =
          .next (((t.dropTickets e).modEp e fun x => { x with state := 3, badCount := bad }).wakeEp e)) ∧
        ((t.ep e).state ≠ 2 → exec (.desync n) s = .next t)) ∧
      (∀ e r, m.body = .chsync e r → e ≠ r →
        let x := t.ep e
        (x.state ≠ 3 → exec (.chsyncArrival n) s =
          .next ((t.ep r).syncing.foldl (fun u k => u.wake k 0 1) (t.modEp r Endpoint.restored))) ∧
        (x.state = 3 → x.syncing = [] → r ∉ x.syncPeer →
          exec (.chsyncArrival n) s = .next (t.modEp e fun y => { y with syncPeer := y.syncPeer ++ [r] })) ∧
        (x.state = 3 → x.syncing ≠ [] →
          let ends := e :: (x.syncPeer ++ [r])
          let first := (x.syncPeer ++ [r]).headD e
          ∃ u : State, exec (.chsyncArrival n) s = .next u ∧ u.mem = t.mem ∧
            (∀ f ∈ ends, let y := t.ep f
              u.ep f = { y with
                state := 2, head := 0, tail := 0, reserved := 0, ticket := none, slots := [], nextt := 0,
                called := if y.mode = 2 ∧ y.dir = false then BitVec.ofNat 32 y.slotCount else 0,
                syncing := [], syncPeer := [], badCount := 0 }) ∧
            ∀ f ∈ ends, ∀ k ∈ (t.ep f).syncing, (t.proc k).state = .parked → (t.proc k).waitk ≠ 9 →
              (u.proc k).state = .ready ∧
              ∀ vals v mk, (t.proc k).phase = .after vals v mk → (u.proc k).phase = .after vals (BitVec.ofNat 64
                (let y := if x.dir = true then t.ep first else x
                 (y.tail.toNat + 2 ^ 16 - y.head.toNat) % 2 ^ 16)) 1))) ∧
    (∀ c loc bs bad, s.Inv → s.ordadds = [] → bs ≠ [] → kindOf loc ≠ .hbm →
      (s.land c [(loc, bs, bad)]).mem.read loc bs.length = bs ∧
        (∀ a, (a < loc ∨ loc + bs.length ≤ a) → (s.land c [(loc, bs, bad)]).mem.get a = s.mem.get a) ∧
        (bad = true → natMem (s.land c [(loc, bs, bad)]).poison (loc / 8) = true)) ∧
    (∀ e bad f, (s.ep e).peer ≠ 0 → epOfHandle (s.ep e).peer = f → e ≠ f →
      let u := s.failCheck e bad
      (u.ep e).state = 3 ∧ (u.ep e).badCount = bad ∧ u.msgs = s.msgs ++
        [{ src := .core (coreOfEp e), dst := .core (coreOfEp f), cls := .channel, body := .desync f bad }]) ∧
    (∀ k e d, (s.proc k).deadline = some d → (s.proc k).wait = .endpoint e → (s.proc k).state = .parked →
      ((s.proc k).waitk = 2 ∨ (s.proc k).waitk = 1) → d ≤ s.now (coreOf k) → exec (.timeout k) s =
        .next (s.trapOf k 0x0E [s.epHandle e, (s.ep e).head.setWidth 64, (s.ep e).tail.setWidth 64])) ∧
    (∀ e reason, 2 ≤ (s.ep e).state → (s.ep e).peer ≠ 0 →
      let c := coreOfEp (epOfHandle (s.ep e).peer)
      (reason = 1 ∧ s.routed (coreOfEp e) c = false) ∨ (reason = 2 ∧ s.dieUp (dieOfCore c) = false) ∨
        (reason = 3 ∧ (s.pkg (pkgOf c)).withdrawn = true) →
      ∃ u : State, exec (.peerUnreachable e reason) s = .next u ∧ u.mem = s.mem ∧ (u.ep e).linkReason = some reason ∧
        (u.ep e).offer = none ∧ (∀ x ∈ u.msgs, x.body.actsOn e = false) ∧
        ∀ k, (s.ep e).waiter = some k ∨ k ∈ (s.ep e).queue ∨ k ∈ (s.ep e).syncing → (s.proc k).state = .parked →
          (u.proc k).state = .stopped ∧ (u.proc k).cause = 0x0C)

/-- Messages between cores about processes (R248, R249, R284, R285, R303, R308 to R312, R323, R328, R334): a migrating context
accepted into the arrival queue or refused, its source freed or parked on, the resends; a spawn and the supervisor's
operations at the target's core with their answers; the counts of a chunk; a device launch at the master distributor. -/
def Obligations.RemoteMessages : Prop :=
  ∀ (s : State) (n : Nat) (m : Msg),
    let t := s.taken n m
    let answered := fun (u : State) (c : CoreId) (k : Slot) (pid : Word) (v : Answer) (job : Nat) =>
      u.send (.core c) (.core (coreOf k)) .channel (.reply v k pid job)
    let free := fun (c : CoreId) (job : Nat) (u : State) =>
      job = 0 ∨ ((u.core c).drainFor.contains job = false)
    (Arrives s n m →
      (∀ c p src, m.dst = .core c → m.body = .migrate p src → p.pid ≠ 0 →
        let takes := (t.core c).cdom = p.domain ∧ (t.core c).busy = false
        let refuses := fun (u : State) (listed : Bool) => exec (.migrationArrival n) s =
          .next (u.send (.core c) (.core (coreOf src)) .control (.refuse src p.pid listed p.jobKey))
        (¬takes ∨ t.freeSlot c true = none →
          ((t.core c).refusals.length < 64 →
            refuses (t.modCore c fun x => { x with refusals := x.refusals ++ [src] }) true) ∧
          (64 ≤ (t.core c).refusals.length → refuses t false)) ∧
        (∀ k, takes → t.freeSlot c true = some k → p.sstep = false → (p.job = 0 ∨ (t.core c).cancels.contains p.jobKey = false) →
          (t.core c).arrivals.length < 48 → coreOf k = c → ∃ u : State, exec (.migrationArrival n) s = .next u ∧
            u.proc k = { p with state := .arriving, since := t.now c } ∧
            (u.core c).arrivals = (t.core c).arrivals ++ [k] ∧ (u.core c).ready p.prio = (t.core c).ready p.prio ++ [k] ∧
            u.msgs = t.msgs ++ [{ src := .core c, dst := .core (coreOf src), cls := .control,
                                  body := .accept src p.pid p.jobKey }] ∧ u.mem = t.mem) ∧
        (∀ k, takes → t.freeSlot c true = some k → p.sstep = false → (p.job = 0 ∨ (t.core c).cancels.contains p.jobKey = false) →
          48 ≤ (t.core c).arrivals.length → coreOf k = c → t.armed = [] → (t.core c).recording = none → ∃ u : State, exec (.migrationArrival n) s = .next u ∧
            u.proc k = { p with state := .ready, since := t.now c } ∧
            (u.core c).arrivals = (t.core c).arrivals ∧ (u.core c).ready p.prio = (t.core c).ready p.prio ++ [k])) ∧
      (∀ k pid job, m.body = .accept k pid job → free (coreOf k) job t → (t.proc k).pid = pid →
        (t.proc k).state = .parked → (t.proc k).waitk = 10 → ∃ u : State, exec (.accept n) s = .next u ∧
          u.proc k = Proc.empty ∧ u.mem = t.mem ∧
          (∀ o rest, (t.core (coreOf k)).refusals = o :: rest → (u.core (coreOf k)).refusals = rest ∧
            u.msgs = t.msgs ++ [{ src := .core (coreOf k), dst := .core (coreOf o), cls := .control, body := .space o (u.proc o).pid }]) ∧
          ((t.core (coreOf k)).refusals = [] → u.msgs = t.msgs)) ∧
      (∀ k pid listed job, m.body = .refuse k pid listed job → free (coreOf k) job t → (t.proc k).pid = pid →
        (t.proc k).state = .parked → (t.proc k).waitk = 10 → ∃ u : State, exec (.refuse n) s = .next u ∧
          u.proc k = { t.proc k with deadline := if listed = true then none else some (t.now (coreOf k) + 1024) } ∧
          u.mem = t.mem) ∧
      (∀ k pid, m.body = .space k pid → (t.proc k).pid ≠ pid → exec (.space n) s = .next t) ∧
      (∀ k c, m.body = .space k (t.proc k).pid → (t.proc k).state = .parked → (t.proc k).wait = .migration c →
        ∃ u : State, exec (.space n) s = .next u ∧ (u.proc k).state = .parked ∧ (u.proc k).deadline = none ∧
          ∃ p : Proc, u.msgs = t.msgs ++ [{ src := .core (coreOf k), dst := .core c, cls := .channel, body := .migrate p k }] ∧
            p.pid = (t.proc k).pid ∧ p.rank = (t.proc k).rank ∧ p.g = (t.proc k).g ∧ p.pc = nextPc (t.proc k).pc) ∧
      (∀ c child k pid, m.dst = .core c → m.body = .remote (.spawn child) k pid →
        let takes := (t.core c).cdom = child.domain ∧ (t.core c).busy = false ∧
          (child.jobKey = 0 ∨ (t.core c).cancels.contains child.jobKey = false)
        (¬takes ∨ t.freeSlot c child.light = none →
          exec (.remoteOperation n) s = .next (answered t c k pid (.value 0) child.jobKey)) ∧
        (∀ j, takes → t.freeSlot c child.light = some j → coreOf j = c → ∃ u : State,
          (u.proc j) = { child with pid := pidOf c (t.core c).nextSerial, since := t.now c } ∧
          (u.core c).ready child.prio = (t.core c).ready child.prio ++ [j] ∧ u.mem = t.mem ∧
          (child.chv = false → exec (.remoteOperation n) s =
            .next (answered u c k pid (.value (u.handleOf j)) child.jobKey)) ∧
          (child.chv = true → exec (.remoteOperation n) s = .next (u.send (.core c) (.core child.chunkHome) .control
            (.increment child.chidx.toNat child.chunkHome k pid (.value (u.handleOf j)) child.job))))) ∧
      (∀ c k pid, m.dst = .core c →
        let ends := fun (op : RemoteOp) (u : State) (v : Answer) => m.body = .remote op k pid →
          exec (.remoteOperation n) s = .next (answered u c k pid v 0)
        (∀ h sel dom, (t.accepts h dom = true →
            ends (.chstat h sel dom) t (.value ((t.ep (epOfHandle h)).word sel))) ∧
          (t.accepts h dom = false → ends (.chstat h sel dom) (t.countRefusal h) (.trap 0x0A [h, 0]))) ∧
        (∀ e, ends (.tkt e) (t.modEp e fun x => { x with nextt := x.nextt + 1 }) (.value ((t.ep e).nextt.setWidth 64))) ∧
        (∀ h l sup mon dom, (t.dead h = true → ends (.setpri h l sup mon dom) t .nothing) ∧
          (t.dead h = false → t.rightOver sup mon dom (slotOfHandle h) = false →
            ends (.setpri h l sup mon dom) t (.trap 0x02 [])) ∧
          (t.dead h = false → t.rightOver sup mon dom (slotOfHandle h) = true →
            ends (.setpri h l sup mon dom) (t.setLevel (slotOfHandle h) (BitVec.ofNat 2 l.toNat)) .nothing)) ∧
        (∀ h x mon dom, let j := slotOfHandle h
          let right := mon = true ∨ (t.proc j).domain = dom
          (t.dead h = true → ends (.resume h x mon dom) t (.value 2) ∧ ends (.peek h x mon dom) t (.value 0)) ∧
          (t.dead h = false → ¬right → ends (.resume h x mon dom) t (.trap 0x02 []) ∧
            ends (.peek h x mon dom) t (.trap 0x02 [])) ∧
          (t.dead h = false → right →
            ((t.proc j).state ≠ .stopped → ends (.resume h x mon dom) t (.value 1)) ∧
            ((t.proc j).state = .stopped → ends (.resume h x mon dom) (t.resumeProc j (x.getLsbD 3)) (.value 0)) ∧
            (t.badSelector j x = true → ends (.peek h x mon dom) t (.trap 0x05 [x])) ∧
            (t.badSelector j x = false → x.toNat % 4 = 0 →
              ends (.peek h x mon dom) t (.value (t.recordWord j (x.toNat / 8 % 2 ^ 12)))) ∧
            (∀ v, (t.proc j).state ≠ .stopped → t.badSelector j x = false →
              (x.toNat % 4 = 2 → t.tileOwner (coreOf j) (x.toNat / 2 ^ 15 % 8) = none) → ends (.poke h x v mon dom) t (.trap 0x05 [x, 4])))) ∧
        (∀ h mon dom, let j := slotOfHandle h
          (t.dead h = true ∨ t.leftFor j = true → ends (.kill h mon dom) t (.value 2)) ∧
          (t.dead h = false → t.leftFor j = false → ¬(mon = true ∨ (t.proc j).domain = dom) →
            ends (.kill h mon dom) t (.trap 0x02 [])) ∧
          (t.dead h = false → t.leftFor j = false → (mon = true ∨ (t.proc j).domain = dom) →
            ∃ u : State, ends (.kill h mon dom) u (.value 0) ∧ u.proc j = Proc.empty))) ∧
      (∀ k pid job, free (coreOf k) job t → (t.proc k).pid = pid → (t.proc k).state = .parked →
        let u := State.payOwed (if job = 0 then t else t.modCore (coreOf k) fun x =>
          { x with inFlight := removeFirst (fun j => decide (j = job)) x.inFlight }) (coreOf k)
        (∀ v, m.body = .reply (.value v) k pid job → exec (.remoteOperationReply n) s = .next (u.wake k v 1)) ∧
        (m.body = .reply .nothing k pid job → exec (.remoteOperationReply n) s = .next (u.wake k 0 2)) ∧
        (∀ cause ds, m.body = .reply (.trap cause ds) k pid job →
          exec (.remoteOperationReply n) s = .next (u.trapOf k cause ds))) ∧
      (∀ i home k pid a job e, m.body = .increment i home k pid a job → Map.find? (t.core home).chunks i = some e →
        e.launch = job.setWidth 64 → exec (.countIncrement n) s = .next (answered
          (t.modCore home fun x => { x with chunks := Map.put x.chunks i { e with live := e.live + 1 } }) home k pid a
          (if job = 0 then 0 else pkgOf home * 2 ^ 48 + job.toNat))) ∧
      (∀ i home job, m.body = .decrement i home job →
        (Map.find? (t.core home).chunks i = none → exec (.countDecrement n) s = .next t) ∧
        (∀ e, Map.find? (t.core home).chunks i = some e → e.launch = job.setWidth 64 →
          (1 < e.live → exec (.countDecrement n) s = .next (t.modCore home fun x =>
            { x with chunks := Map.put x.chunks i { e with live := e.live - 1 } })) ∧
          (e.live ≤ 1 → exec (.countDecrement n) s = .next ((t.modCore home fun x => { x with
              chunks := Map.del x.chunks i
              unreported := x.unreported ++ [(e.launch, e.first, t.now home)] }).send (.core home)
            (.dist (pkgOf home) (t.pkg (pkgOf home)).master) .control (.chunkReport e.launch e.first home))))) ∧
      (∀ l k pid sup dom p b, m.dst = .dist p b → m.body = .device l k pid sup dom →
        let field := fun (at_ n : Nat) => l.toNat / 2 ^ (8 * at_) % 2 ^ (8 * n)
        let allowed := goodLaunch l = true ∧ field 0x1A 2 = dom.toNat ∧
          (sup = true ∨ (l.getLsbD 227 = false ∧ 2 ≤ field 0x1C 1 % 4))
        let answers := fun (u : State) (v : Word) => exec (.deviceLaunch n) s =
          .next (u.send (.dist p (t.pkg p).master) (.core (coreOf k)) .channel (.reply (.value v) k pid 0))
        let led := (t.pkg p).failover = none
        (¬led → exec (.deviceLaunch n) s = .next s) ∧
        (led → ¬allowed ∨ (t.pkg p).freeDevice = none → answers t 0) ∧
        (∀ i, led → allowed → (t.pkg p).freeDevice = some i →
          let id : Word := BitVec.ofNat 64 (i + 2 ^ 15 + (t.pkg p).devSerial.toNat * 2 ^ 16)
          ∃ u, answers u id ∧ (u.pkg p).launches = (t.pkg p).launches ++ [launchOf l id] ∧
            (u.pkg p).devSerial = (if (t.pkg p).devSerial + 1 = 0 then 1 else (t.pkg p).devSerial + 1) ∧ u.mem = t.mem))) ∧
    (∀ k c d, (s.proc k).state = .parked → (s.proc k).wait = .migration c → (s.proc k).waitk = 10 →
      (s.proc k).deadline = some d → d ≤ s.now (coreOf k) → ∃ (u : State) (p : Proc),
        exec (.migrationResend k) s = .next u ∧ (u.proc k).deadline = none ∧ u.msgs = s.msgs ++
          [{ src := .core (coreOf k), dst := .core c, cls := .channel, body := .migrate p k }] ∧ p.pid = (s.proc k).pid)

/-- Deadlock waves, the vigil, and the delivery of records (R260 to R262, R364 to R367, R374): the wait edges, the wave a
parked process starts, a probe that engages, is echoed or dropped, an echo that counts down, the DEADLOCK trap of the
origin with its handles, an engagement that expires, a hang report, a record that takes a
ticket at its sink and is committed once it is called. -/
def Obligations.WavesAndRecords : Prop :=
  ∀ (s : State) (n : Nat) (m : Msg),
    let t := s.taken n m
    let ctl := fun (a b : CoreId) (y : Body) => ({ src := .core a, dst := .core b, cls := .control, body := y } : Msg)
    (∀ k e i w, (s.proc k).state = .parked → (s.proc k).waitk ≠ 9 → (s.proc k).wait = .endpoint e → (s.ep e).state = 2 → (s.ep e).peer ≠ 0 →
      (s.proc k).inflight = some (i, w) →
      (∃ a b d x, i = .outWord a b ∨ i = .inWord a b ∨ i = .outBlock d a b ∨ i = .inBlock d a b ∨ i = .claim d a b x ∨
        i = .await d a b x) → s.edges k = some [s.operatorOf (epOfHandle (s.ep e).peer)]) ∧
    (∀ k r x, (s.proc k).state = .parked → (s.proc k).waitk ≠ 9 → (s.proc k).wait = .ticket r x → s.edges k = some [s.operatorOf r]) ∧
    (∀ e j pid, (s.ep e).lastOp = some (j, pid) →
      s.operatorOf e = if (s.proc j).state ≠ .free ∧ (s.proc j).pid = pid then some j else none) ∧
    (∀ k gs, (s.proc k).state = .parked → (s.proc k).wait = .alt gs true → s.edges k = none) ∧
    (∀ k, (s.proc k).state ≠ .parked ∨ (s.proc k).waitk = 9 → s.edges k = none) ∧
    (∀ k j, s.edges k = some [some j] → (s.proc k).engaged = none → (s.core (coreOf k)).dlprobe ≠ 0 →
      (s.proc k).since + (s.core (coreOf k)).dlprobe.toNat ≤ s.now (coreOf k) →
      ∃ u : State, exec (.probeOriginate k) s = .next u ∧
        (let x := ((s.core (coreOf k)).probeSerial + 1) % 2 ^ 16
         (u.core (coreOf k)).probeSerial = x ∧ (u.proc k).engaged = some ⟨k, (s.proc k).pid, x, none, 1, s.now (coreOf k), [], 0⟩ ∧ u.msgs = s.msgs ++ [ctl (coreOf k) (coreOf j)
              (.probe j k (s.proc k).pid x k [s.handleOf k] 1)] ∧ u.mem = s.mem)) ∧
    (Arrives s n m →
      (∀ j origin pid serial sender path len, m.body = .probe j origin pid serial sender path len →
        (t.edges j = none → exec (.probe n) s = .next t) ∧
        (∀ es, t.edges j = some es →
          let back := j = origin ∧ (t.proc j).pid = pid
          let engages := ∃ u : State, exec (.probe n) s = .next u ∧
            (u.proc j).engaged = some ⟨origin, pid, serial, some sender, es.length, t.now (coreOf j),
              if back then path else [], if back then len else 0⟩ ∧
            u.msgs = t.msgs ++ (es.filterMap fun x => x).map fun x => ctl (coreOf j) (coreOf x)
              (.probe x origin pid serial j ((path ++ [t.handleOf j]).take 16) (len + 1))
          (t.engagedIn j = none → engages) ∧
          (∀ g, t.engagedIn j = some g →
            (g.origin = origin → g.serial = serial → ∃ u : State, exec (.probe n) s = .next u ∧
              u.msgs = t.msgs ++ [ctl (coreOf j) (coreOf sender) (.echo sender origin serial path len)] ∧
              (back → g.pathLen = 0 → (u.proc j).engaged = some { g with path := path, pathLen := len })) ∧
            (origin < g.origin → engages) ∧
            (g.origin < origin ∨ (g.origin = origin ∧ g.serial ≠ serial) → exec (.probe n) s = .next t)))) ∧
      (∀ j origin serial path len, m.body = .echo j origin serial path len →
        (t.engagedIn j = none → exec (.echo n) s = .next t) ∧
        (∀ g, t.engagedIn j = some g → g.origin = origin → g.serial = serial → (t.proc j).state = .parked →
          (1 < g.left → exec (.echo n) s = .next (t.modProc j fun p => { p with engaged := some { g with left := g.left - 1 } })) ∧
          (∀ k, g.left ≤ 1 → ¬(j = origin ∧ (t.proc j).pid = g.pid) → g.sender = some k → exec (.echo n) s =
            .next ((t.modProc j fun p => { p with engaged := some { g with left := 0 } }).send (.core (coreOf j))
              (.core (coreOf k)) .control (.echo k origin serial [] 0))) ∧
          (g.left ≤ 1 → j = origin → (t.proc j).pid = g.pid → ∃ (u : State) (r : Rec), exec (.echo n) s = .next u ∧ (u.proc j).state = .stopped ∧
            (u.proc j).cause = 0x10 ∧ (u.proc j).pc = (t.proc j).pc ∧
            (u.core (coreOf j)).records = (t.core (coreOf j)).records ++ [r] ∧
            r.words.drop 4 = [BitVec.ofNat 64 g.path.length, BitVec.ofNat 64 g.serial, BitVec.ofNat 64 (min 255 g.pathLen), 0] ++
              (g.path ++ List.replicate 16 0).take 16)))) ∧
    (∀ k g, (s.proc k).engaged = some g → g.since + (s.core (coreOf k)).dlprobe.toNat ≤ s.now (coreOf k) →
      exec (.engagementExpiry k) s = .next (s.modProc k fun p => { p with engaged := none })) ∧
    (∀ cl, let x := s.cluster cl
      let count := min (2 ^ 32 - 1) (s.now (cl * 16) - x.vigilSince)
      (x.vigilInterval = 0 ∨ count % x.vigilInterval.toNat ≠ 0 → exec (.hangReport cl) s = .next s) ∧
      (x.vigilInterval ≠ 0 → count ≠ 0 → count % x.vigilInterval.toNat = 0 → ∃ (u : State) (r : Rec),
        exec (.hangReport cl) s = .next u ∧ u.cur = s.cur ∧ u.mem = s.mem ∧ r.dest = .monitor ∧
        (u.pkg (pkgOf (cl * 16))).outbox = (s.pkg (pkgOf (cl * 16))).outbox ++ [r] ∧
        r.words.take 6 = [BitVec.ofNat 64 (2 ^ 10 + 2 ^ 32), 0, 0, 0, 4, BitVec.ofNat 64 (cl % 128 + count * 2 ^ 32)])) ∧
    (∀ p r, let e := s.recordSink p r
      (r.ticket = none → (s.ep e).takesRecords = true → ∃ u : State,
        s.ticketRec p r = (u, { r with ticket := some (e, (s.ep e).nextt.toNat) }) ∧ (u.ep e).nextt = (s.ep e).nextt + 1) ∧
      (r.ticket ≠ none ∨ (s.ep e).takesRecords = false → s.ticketRec p r = (s, r))) ∧
    (∀ c t xs, s.ticketRecs (pkgOf c) ((s.core c).records.take 16) = (t, xs) →
      let v := t.modCore c fun x => { x with records := xs ++ (s.core c).records.drop 16 }
      ∀ i r e x, xs[i]? = some r → r.ticket = some (e, x) → (v.ep e).hasCalled x = true → v.released r e = true →
        (∀ j y, j < i → xs[j]? = some y → v.sendable y = false ∧ y.ticket.map (·.1) ≠ some e) →
        ∃ u : State, exec (.trapRecord c) s = .next u ∧
          (u.core c).records = dropAt (xs ++ (s.core c).records.drop 16) i ∧ (u.ep e).slots = (v.ep e).slots ++ [x]) ∧
    (∀ p r d, r.dest = .domain d →
      let h := ((s.pkg p).domain d).supep
      let x := s.ep (epOfHandle h)
      (h ≠ 0 → s.accepts h (BitVec.ofNat 12 d) = true → x.state = 1 ∨ x.state = 2 → x.mode = 2 → x.dir = false → x.cls = 1 →
        x.shape = 192 → s.recordSink p r = epOfHandle h) ∧
      (h = 0 ∨ s.accepts h (BitVec.ofNat 12 d) = false ∨ x.state = 3 ∨ x.shape ≠ 192 → s.recordSink p r = monitorEp p))

/-- The calends (R193, R199 to R205, R207, R387): sealing sends ARRIVE and the streams, each ended by DONE; the root's CALL; a
CALL that closes a step without an enrolled process; STEPLATE; the entries a home keeps and the granules it applies
once every stream has passed them; APPLIED up the tree, RELEASE down it, which wakes the processes in STEP; the new bytes
of a granule under RULE 0, 1, 2, 6 and 7; the forming of the pod. -/
def Obligations.CalendsEvents : Prop :=
  ∀ (s : State) (n p : Nat) (m : Msg),
    let t := s.taken n m
    let x := s.pkg p
    let y := t.pkg p
    let msg := fun (a b : Nat) (z : MsgClass) (v : Body) => ({ src := .unit a, dst := .unit b, cls := z, body := v } : Msg)
    (x.phase = 1 → x.closing = true → s.stepPending p = false → x.doneFrom = [] → s.members ≠ [] →
      ∃ (u : State) (rest : List Msg), exec (.stepSeal p) s = .next u ∧ u.pkg p = { x with closing := false } ∧
        u.mem = s.mem ∧ u.cur = s.cur ∧ u.msgs = s.msgs ++ msg p x.root .control (.arrive p (x.openStep - 1)) :: rest ∧
        ∀ h ∈ s.members, ∀ k, k < 4 → msg p h .bulk (.done p k) ∈ rest ∧
          ∀ e ∈ x.entries, e.step < x.openStep → pkgOfLoc (8 * e.gran) = h → unitOf e.gran = k →
            ∃ es, e ∈ es ∧ msg p h .bulk (.entries p k es) ∈ rest) ∧
    (x.phase ≠ 1 ∨ x.closing = false ∨ s.stepPending p = true → exec (.stepSeal p) s = .next s) ∧
    (Arrives s n m → m.dst = .unit p →
      (∀ q st, m.body = .arrive q st →
        let released := if y.phase = 0 then y.openStep else y.openStep - 1
        (st < released → exec (.arrive n) s = .next t) ∧
        (released ≤ st → y.arrives ≠ [] → exec (.arrive n) s = .next (t.modPkg p fun x => { x with arrives := natInsert x.arrives q })) ∧
        (released ≤ st → y.arrives = [] → ∃ u : State, exec (.arrive n) s = .next u ∧ (u.pkg p).arrives = [q] ∧ (u.pkg p).firstArrive = y.time ∧
          (u.pkg p).lateSent = 0 ∧
          u.msgs = t.msgs ++ t.members.map fun c => msg p c .control (.call st))) ∧
      (∀ st, m.body = .call st →
        (st ≠ y.openStep → exec (.call n) s = .next t) ∧
        (st = y.openStep → y.phase = 0 → t.enrolledOn p ≠ [] → exec (.call n) s = .next t) ∧
        (st = y.openStep → y.phase = 0 → t.enrolledOn p = [] → ∃ u : State, exec (.call n) s = .next u ∧
          (u.pkg p).openStep = y.openStep + 1 ∧ (u.pkg p).phase = 1 ∧ (u.pkg p).closing = true ∧ u.mem = t.mem ∧ u.cur = t.cur) ∧
        (st = y.openStep → y.phase ≠ 0 →
          exec (.call n) s = .next (t.modPkg p fun x => { x with called := some st }))) ∧
      (∀ q u es, m.body = .entries q u es → exec (.entryStream n) s = .next (State.applyReady (t.modPkg p fun x =>
        { x with streamed := x.streamed.put u (x.streamed.get u [] ++ es)
                 passed := x.passed.put (q * 4 + u) (es.foldl (fun g e => max g e.gran) 0) }) p u)) ∧
      (∀ q u, m.body = .done q u → exec (.streamDone n) s = .next (State.tryApplied (State.applyReady (t.modPkg p fun x =>
        { x with doneFrom := natInsert x.doneFrom (q * 4 + u) }) p u) p)) ∧
      (∀ q st, m.body = .applied q st →
        (y.openStep ≠ st ∨ y.phase ≠ 1 → exec (.applied n) s = .next t) ∧
        (y.openStep = st → y.phase = 1 → exec (.applied n) s = .next (State.tryApplied (t.modPkg p fun x =>
          { x with appliedFrom := natInsert x.appliedFrom q }) p))) ∧
      (m.body = .release →
        (y.phase ≠ 2 → exec (.release n) s = .next t) ∧
        (y.phase = 2 → y.called = none → y.arrivedSince = false → ∃ u : State, exec (.release n) s = .next u ∧
          (u.pkg p).phase = 0 ∧ (u.pkg p).stepno = y.stepno + 1 ∧ (u.pkg p).openStep = y.openStep ∧
          (u.pkg p).entries = y.entries.filter (fun e => decide (y.openStep ≤ e.step)) ∧ u.mem = t.mem ∧
          (y.newStepctl = none → (u.pkg p).steplim = y.steplim ∧ (u.pkg p).root = y.root) ∧
          u.msgs = t.msgs ++ (t.childrenOf p).map (fun c => msg p c .control .release) ∧
          ∀ k ∈ t.live, pkgOf (coreOf k) = p → (t.proc k).wait = .step → (t.proc k).state = .parked → (t.proc k).parkedAs = 7 →
            (t.proc k).waitk ≠ 9 → ∀ vals v w, (t.proc k).phase = .after vals v w →
            ((t.proc k).arrivedIn = some (y.openStep - 1) →
              (u.proc k).state = .ready ∧ (u.proc k).phase = .after vals (y.stepno + 1) 1) ∧
            ((t.proc k).arrivedIn ≠ some (y.openStep - 1) → u.proc k = t.proc k)))) ∧
    (let ended := ∀ q ∈ s.members, ∀ k, k < 4 → q * 4 + k ∈ x.doneFrom
     let below := ∀ c ∈ s.childrenOf p, c ∈ x.appliedFrom
     let agreed := x.root ≠ p ∨ ∀ q ∈ s.members, (s.pkg q).root = x.root
     (¬(x.phase = 1 ∧ x.closing = false ∧ ended ∧ below ∧ agreed) → s.tryApplied p = s) ∧
     (agreed → x.phase = 1 → x.closing = false → ended → below → x.conflicts ≤ 1024 →
       (∀ q, s.parentOf x.root p = some q → (s.tryApplied p).msgs =
           s.msgs ++ [msg p q .control (.applied p x.openStep)] ∧ ((s.tryApplied p).pkg p).phase = 2 ∧
           (s.tryApplied p).mem = s.mem) ∧
       (s.parentOf x.root p = none → ((s.tryApplied p).pkg p).stepno = x.stepno + 1 ∧ (s.tryApplied p).mem = s.mem))) ∧
    (∀ u, (∃ q ∈ s.members, q * 4 + u ∉ x.doneFrom ∧ Map.find? x.passed (q * 4 + u) = none) → s.applyReady p u = s) ∧
    (∀ u, (∀ q ∈ s.members, q * 4 + u ∈ x.doneFrom) → ((s.applyReady p u).pkg p).streamed.get u [] = []) ∧
    (let late := s.members.filter fun q => !x.arrives.contains q
     let due := x.arrives ≠ [] ∧ x.steplim ≠ 0 ∧ late ≠ [] ∧
       x.firstArrive + (x.lateSent + 1) * x.steplim.toNat * 2500 ≤ x.time
     (¬due → exec (.steplimExpiry p) s = .next s) ∧
     (due → ∃ (u : State) (rs : List Rec), exec (.steplimExpiry p) s = .next u ∧ u.cur = s.cur ∧ u.mem = s.mem ∧
       (u.pkg p).outbox = x.outbox ++ rs ∧ (u.pkg p).lateSent = x.lateSent + 1 ∧ (∀ r ∈ rs, r.dest = .pod) ∧
       rs.map (fun r => r.words.drop 4) = late.map fun q =>
         [BitVec.ofNat 64 q, x.stepno, BitVec.ofNat 64 ((x.time - x.firstArrive) / 2500), 0])) ∧
    (∀ (image : List Byte) (es : List StepEntry) i rule, es ≠ [] → (∀ e ∈ es, e.rule = rule) → i < 8 →
      let on := covering es i
      let vals := on.map fun c => c.2.1
      let old := image.getD i 0
      (on = [] → applyByte image es i = (old, false)) ∧
      (rule = 0 → ∀ v, vals = [v] → applyByte image es i = (v, false)) ∧
      (rule = 0 → 2 ≤ vals.length → applyByte image es i = (old, true)) ∧
      (∀ v r, vals = v :: r → (rule = 1 → applyByte image es i = (v, false)) ∧
        (rule = 2 → applyByte image es i = ((v :: r).getLastD v, false)) ∧
        (rule = 6 → applyByte image es i = ((v :: r).foldl (fun a b => a ||| b) old, false)) ∧
        (rule = 7 → applyByte image es i = ((v :: r).foldl (fun a b => a &&& b) old, false)))) ∧
    (∀ es : List StepEntry, (sortEntries es).Perm es ∧
      (sortEntries es).Pairwise fun a b => a.rank < b.rank ∨ (a.rank = b.rank ∧ a.die ≤ b.die)) ∧
    (∀ q x cfg, s.podFormed = false →
      (s.pkgs.filter fun e => e.2.member && decide (e.2.root = e.1)).head? = some (q, x) → x.config = some cfg →
      (∀ i, i < 512 → cfg.getLsbD (128 + i) = true → (s.pkg i).member = true ∧ 7 ≤ (s.pkg i).bringup) →
      ∃ u : State, exec .podFormation s = .next u ∧ u.podFormed = true ∧ u.mem = s.mem ∧
        (∀ i, i < 512 → cfg.getLsbD (128 + i) = true → (u.pkg i).stepno = 0 ∧ (u.pkg i).bringup = 8) ∧
        ∀ k ∈ s.live, (s.proc k).wait = .pod → cfg.getLsbD (128 + pkgOf (coreOf k)) = true → pkgOf (coreOf k) < 512 →
          u.proc k = { s.proc k with wait := .step, arrivedIn := some 0 })

/-- Launches (R318 to R334, R418, R419): the checks of a launch message in their order and its acceptance; the host's DEPDEC,
CANCEL and QCTL writes; slot reports; the chunk that goes out and its core; the mirror before the chunk; a chunk accepted
whole or refused; its report, resent every 10 µs; the completion message; both phases of a cancellation; a new master. -/
def Obligations.LaunchEvents : Prop :=
  ∀ (s : State) (n p port q : Nat) (m : Msg),
    let t := s.taken n m
    let x := s.pkg p
    let y := t.pkg p
    let h := x.queues.get q HostQueue.atReset
    let ctl := fun (a b : Agent) (v : Body) => ({ src := a, dst := b, cls := .control, body := v } : Msg)
    let dist := Agent.dist p
    let setQ := fun (g : HostQueue) => s.modPkg p fun x => { x with queues := x.queues.put q g }
    let own := fun (v : Word) (l : Launch) => v.toNat % 2 ^ 16 = q ∧ x.launches.find? (fun l => l.id = v) = some l
    (∀ (al : Bool) (l : BitVec 512),
      let f := fun (at_ n : Nat) => l.toNat / 2 ^ (8 * at_) % 2 ^ (8 * n)
      let rejects := fun (g : HostQueue → HostQueue) => exec (.launchWindowWrite p port q al l) s =
        .next (setQ { g h with rejects := min 65535 (h.rejects + 1) })
      let right := h.en = true ∧ (if h.port = true then 1 else 0) = port
      let good := f 0 8 % 4 = 0 ∧ 1 ≤ f 0x14 4 ∧ f 0x10 4 + f 0x14 4 ≤ 2 ^ 32 ∧ 1 ≤ f 0x18 2 ∧ f 0x18 2 ≤ 256 ∧
        f 0x1A 2 < 2 ^ 12 ∧ f 0x1C 1 < 16 ∧ f 0x1D 1 = 0 ∧ f 0x30 16 = 0 ∧ f 0x1A 2 = h.domain ∧
        (l.getLsbD 227 = true → h.supv = true)
      (al = false → rejects fun h => { h with badmsg := true }) ∧
      (al = true → ¬right → rejects fun h => { h with badport := true }) ∧
      (al = true → right → h.free = 0 → rejects fun h => { h with full := true }) ∧
      (al = true → right → h.free ≠ 0 → ¬good → rejects fun h => { h with badmsg := true }) ∧
      (al = true → right → h.free ≠ 0 → good → ∃ (u : State) (a : Launch), exec (.launchWindowWrite p port q al l) s = .next u ∧
        (u.pkg p).launches = x.launches ++ [a] ∧ (u.pkg p).mirror = x.launches ++ [a] ∧
        (u.pkg p).queues.get q HostQueue.atReset = { h with free := h.free - 1, nextser := if h.nextser + 1 = 0 then 1 else h.nextser + 1 } ∧
        a.id = BitVec.ofNat 64 (q + h.nextser.toNat * 2 ^ 16) ∧ a.entry.toNat = f 0 8 ∧ a.arg.toNat = f 8 8 ∧ a.first = f 0x10 4 ∧
        a.count = f 0x14 4 ∧ a.chunk = f 0x18 2 ∧ a.domain = f 0x1A 2 ∧ a.prio = f 0x1C 1 % 4 ∧ a.light = l.getLsbD 226 ∧
        a.supv = l.getLsbD 227 ∧ a.deps = f 0x1E 2 ∧ a.compl.toNat = f 0x20 8 ∧ a.user.toNat = f 0x28 8 ∧ a.next = a.first ∧
        a.sent = [] ∧ a.stage = 0 ∧ u.cur = s.cur ∧ u.mem = s.mem)) ∧
    (∀ v : Word, q < 2 ^ 15 →
      let bad : Out := .next (setQ { h with badmsg := true })
      ((∀ l, ¬own v l) → exec (.depdecWrite p port q v) s = bad ∧ exec (.cancelWrite p port q v) s = bad) ∧
      (∀ l, own v l →
        (0 < l.deps → exec (.depdecWrite p port q v) s = .next (s.setLaunches p fun ls => ls.map fun a =>
          if a.id = v then { a with deps := a.deps - 1 } else a)) ∧
        (l.deps = 0 → exec (.depdecWrite p port q v) s =
          .next (setQ { h with depunder := true, depser := BitVec.ofNat 32 (v.toNat / 2 ^ 16 % 2 ^ 32) })) ∧
        (l.stage = 3 → l.status = 0 → exec (.cancelWrite p port q v) s = bad) ∧
        (l.stage ≠ 0 → ¬(l.stage = 3 ∧ l.status = 0) → exec (.cancelWrite p port q v) s = .next s) ∧
        (l.stage = 0 → l.deps ≠ 0 ∨ l.begun = false → ∃ u : State, exec (.cancelWrite p port q v) s = .next u ∧
          (u.pkg p).queues.get q HostQueue.atReset = { h with free := h.free + 1, done := h.done + 1 } ∧
          (∀ a ∈ (u.pkg p).launches, a.id = v → a.stage = 3 ∧ a.status = 1 ∧ a.freeThen = h.free + 1) ∧
          u.msgs = s.msgs ∧ u.mem = s.mem) ∧
        (let cs := s.coresOf p l.domain
         l.stage = 0 → l.deps = 0 → l.begun = true → cs ≠ [] → ∃ (u : State) (a : Launch),
          exec (.cancelWrite p port q v) s = .next u ∧ u.mem = s.mem ∧
          (u.pkg p).launches.find? (fun l => l.id = v) = some a ∧ a.stage = 1 ∧ a.status = 1 ∧ a.awaiting = cs ∧
          (cs.Nodup → (∀ c ∈ cs, s.cancelRoom c (p * 2 ^ 48 + v.toNat % 2 ^ 48) = true) →
            u.msgs = s.msgs ++ cs.map fun c => ctl (dist x.master) (.core c) (.cancel v l.domain)) ∧
          ((∀ c ∈ cs, s.cancelRoom c (p * 2 ^ 48 + v.toNat % 2 ^ 48) = false) → u.msgs = s.msgs ∧ a.held = cs))) ∧
      (let pending := ∃ l ∈ x.launches, l.id.getLsbD 15 = false ∧ l.id.toNat % 2 ^ 15 = q
       let rsv := v.toNat / 2 ^ 5 % 2 ^ 11 ≠ 0 ∨ v.toNat / 2 ^ 28 ≠ 0
       let moves := v.toNat / 2 ^ 16 % 2 ^ 12 ≠ h.domain ∨ v.getLsbD 1 ≠ h.port
       (rsv ∨ (pending ∧ moves) → exec (.qctlWrite p port q v) s = .next s) ∧
       (¬rsv → ¬(pending ∧ moves) → exec (.qctlWrite p port q v) s = .next (setQ { h with
         en := v.getLsbD 0, port := v.getLsbD 1, qpri := v.toNat / 2 ^ 2 % 2 ^ 2, supv := v.getLsbD 4,
         domain := v.toNat / 2 ^ 16 % 2 ^ 12 })))) ∧
    (∀ b, b < 4 → (s.base (p * 4 + b)).fenced = none → x.time % 256 = 0 → ∃ u : State, exec (.slotReport p b) s = .next u ∧
      u.cur = s.cur ∧ u.mem = s.mem ∧
      (∀ c v, (c, v) ∈ (u.base (p * 4 + b)).slots → c / 512 = p * 4 + b ∧ v = s.slotReport c) ∧
      (∀ c, c / 512 = p * 4 + b → s.dieUp (dieOfCore c) = true → Map.find? (u.base (p * 4 + b)).slots c = some (s.slotReport c)) ∧
      (b ≠ x.master → u.msgs = s.msgs ++ [ctl (dist b) (dist x.master) (.slots b (u.base (p * 4 + b)).slots)]) ∧
      (b = x.master → u.msgs = s.msgs ∧ ∀ c, c / 512 = p * 4 + b → s.dieUp (dieOfCore c) = true →
        Map.find? (u.pkg p).report c = some (s.slotReport c))) ∧
    (∀ c, let z := s.core c
      let full := ((s.live.filter fun k => decide (coreOf k = c)).filter fun k => decide (ctxOf k < z.fulln)).length
      s.slotReport c = (z.fulln - full, z.lightn - ((s.live.filter fun k => decide (coreOf k = c)).length - full),
        z.fulln, z.lightn)) ∧
    (∀ l size c, s.chunkCore p l size = some c → ∃ v, (c, v) ∈ x.report ∧ (s.core c).cdom.toNat = l.domain ∧
      s.isService c = false ∧ s.dieUp (dieOfCore c) = true ∧ size ≤ freeIn l.light v ∧
      ∀ d w, (d, w) ∈ x.report → (s.core d).cdom.toNat = l.domain → s.isService d = false → s.dieUp (dieOfCore d) = true →
        freeIn l.light w ≤ freeIn l.light v) ∧
    (∀ l, l.again = [] → (∃ e ∈ s.usable p l, l.chunk ≤ limitIn l.light e.2) → s.cut p l =
      (l.next, min l.chunk (l.first + l.count - l.next))) ∧
    (x.toSend = none → x.failover = none →
      (s.nextChunk p = none → exec (.mirrorWrite p) s = .next s) ∧
      (∀ l first size c, s.nextChunk p = some (l, first, size, c) → ∃ u : State, exec (.mirrorWrite p) s = .next u ∧
        (u.pkg p).toSend = some (l.id, first, size, c) ∧ (u.pkg p).mirror = (u.pkg p).launches ∧
        (u.pkg p).launches = x.launches.map (fun a => if a.id = l.id then { a with again := a.again.drop 1, next := (if a.again = [] then first + size else a.next), sent := a.sent ++ [{ core := c, first := first, size := size }] } else a) ∧
        u.msgs = s.msgs ++ [ctl (dist x.mirrorAt) (dist x.master) (.mirrorAck l.id)] ∧ u.mem = s.mem)) ∧
    (Arrives s n m →
      let hears := fun (b : Nat) => y.failover = none ∧ b = y.master
      (∀ b id c mp first size, m.dst = .dist p b → ¬hears b →
        (m.body = .slots c mp → exec (.slotReportForward n) s = .next t) ∧
        (m.body = .mirrorAck id → exec (.mirrorAck n) s = .next t) ∧
        (m.body = .chunkRefused id first size c → exec (.chunkRefused n) s = .next t) ∧
        (m.body = .chunkReport id first c → exec (.chunkReport n) s = .next t) ∧
        (m.body = .cancelAck id c → exec (.cancelAck n) s = .next t) ∧
        (m.body = .drained id c → exec (.drained n) s = .next t)) ∧
      (∀ b c mp, m.body = .slots b mp → m.dst = .dist p c → hears c → exec (.slotReportForward n) s =
        .next (t.modPkg p fun x => { x with report := mp.foldl (fun r e => Map.put r e.1 e.2) x.report })) ∧
      (∀ b id l first size c, m.dst = .dist p b → hears b → m.body = .mirrorAck id → y.toSend = some (id, first, size, c) →
        y.launches.find? (fun l => l.id = id) = some l → l.stage = 0 → exec (.mirrorAck n) s =
          .next (State.send (State.modLaunch (t.modPkg p fun x => { x with toSend := none }) p id
              fun l => { l with begun := true }) (.dist p b) (.core c) .control (.chunk id first size
            { l with prio := if l.dev = true then l.prio else max l.prio (y.queues.get (l.id.toNat % 2 ^ 15) HostQueue.atReset).qpri }))) ∧
      (∀ c id first size l, m.dst = .core c → m.body = .chunk id first size l →
        let full := ∀ i, i < 1024 → ∃ e, Map.find? (t.core c).chunks i = some e
        let takes := (t.core c).cdom = BitVec.ofNat 12 l.domain ∧ (t.core c).busy = false ∧
          (pkgOf c * 2 ^ 48 + id.toNat % 2 ^ 48 = 0 ∨
            (t.core c).cancels.contains (pkgOf c * 2 ^ 48 + id.toNat % 2 ^ 48) = false) ∧ size ≤ t.freeSlots c l.light
        (full ∨ ¬takes → exec (.chunk n) s = .next (t.send (.core c) (.dist (pkgOf c) (t.pkg (pkgOf c)).master) .control
          (.chunkRefused id first size c))) ∧
        (∀ k, ¬full → takes → size = 1 → t.freeSlot c l.light = some k → coreOf k = c → ∃ (u : State) (i : Nat),
          exec (.chunk n) s = .next u ∧ i < 1024 ∧ Map.find? (t.core c).chunks i = none ∧
          Map.find? (u.core c).chunks i = some { launch := id, first := first, live := 1 } ∧ u.mem = t.mem ∧
          (let a := u.proc k
           a.state = .ready ∧ a.pc.toNat = l.entry.toNat % 2 ^ 56 ∧ a.reg 1 = l.arg ∧ a.reg 2 = BitVec.ofNat 64 first ∧
             a.reg 3 = l.id ∧ a.reg 4 = l.user ∧ (∀ r : Reg, 5 ≤ r.toNat → a.reg r = 0) ∧ a.rank = BitVec.ofNat 32 first ∧
             a.light = l.light ∧ a.supv = l.supv ∧ a.domain = BitVec.ofNat 12 l.domain ∧ a.prio = BitVec.ofNat 2 l.prio ∧
             a.chv = true ∧ a.chidx = BitVec.ofNat 10 i ∧ a.chome = BitVec.ofNat 11 c ∧ a.chpkg = pkgOf c ∧
             a.job = BitVec.ofNat 48 l.id.toNat))) ∧
      (∀ b id first size c l, m.dst = .dist p b → hears b → m.body = .chunkRefused id first size c →
        y.launches.find? (fun l => l.id = id) = some l → ∃ u : State, exec (.chunkRefused n) s = .next u ∧ u.mem = t.mem ∧
          (u.pkg p).launches = y.launches.map (fun a => if a.id = id then { a with
              sent := a.sent.filter (fun e => !(decide (e.first = first) && decide (e.core = c)))
              again := if a.stage = 0 then (first, size) :: a.again else a.again } else a) ∧
          ∀ d v, (d, v) ∈ (u.pkg p).report → ∃ w, (d, w) ∈ y.report ∧
            (d = c → freeIn l.light v = 0) ∧ (d ≠ c → v = w)) ∧
      (∀ b id first c, m.dst = .dist p b → hears b → m.body = .chunkReport id first c → ∃ u : State, exec (.chunkReport n) s = .next u ∧
        u.mem = t.mem ∧ (u.core c).unreported = (t.core c).unreported.filter (fun e => !(decide (e.1 = id) && decide (e.2.1 = first))) ∧
        ∀ l, y.launches.filter (fun a => decide (a.id = id)) = [l] → l.stage = 0 → l.again = [] → l.first + l.count ≤ l.next →
          (∀ e ∈ l.sent, e.first = first ∧ e.core = c) →
          (∃ a ∈ (u.pkg p).launches, a.id = id ∧ a.stage = 3 ∧ a.status = 0 ∧ a.sent = []) ∧
          (l.dev = false → (u.pkg p).queue l.queue =
            { y.queue l.queue with free := (y.queue l.queue).free + 1, done := (y.queue l.queue).done + 1 })) ∧
      (∀ b c id dom, m.src = .dist p b → m.dst = .core c → m.body = .cancel id dom →
        let key := p * 2 ^ 48 + id.toNat % 2 ^ 48
        let acked := fun (u : State) => u.send (.core c) (.dist p b) .control (.cancelAck id c)
        ((t.core c).cancels.contains key = true → exec (.jobCancel n) s = .next (acked t)) ∧
        ((t.core c).cancels.contains key = false → 64 ≤ (t.core c).cancels.length → exec (.jobCancel n) s = .next s) ∧
        ((t.core c).cancels.contains key = false → (t.core c).cancels.length < 64 → ∃ (u : State) (r : Rec),
          exec (.jobCancel n) s = .next (acked u) ∧ (u.core c).cancels = (t.core c).cancels ++ [key] ∧
          (∀ k ∈ t.live, coreOf k = c → (t.proc k).jobKey = key → t.leftFor k = false → u.proc k = Proc.empty) ∧
          r ∈ (u.core c).records ∧ r.dest = .domain dom ∧ r.words.headD 0 = BitVec.ofNat 64 (0x18 + 2 * 2 ^ 8 + dom * 2 ^ 16 + 2 ^ 32) ∧
          op r.words 4 = id)) ∧
      (∀ b c id, m.src = .dist p b → m.dst = .core c → m.body = .drain id →
        let key := p * 2 ^ 48 + id.toNat % 2 ^ 48
        ((t.core c).inFlight.contains key = false → exec (.drain n) s =
          .next (t.send (.core c) (.dist p b) .control (.drained id c))) ∧
        ((t.core c).inFlight.contains key = true → exec (.drain n) s =
          .next (t.modCore c fun z => { z with drainFor := natInsert z.drainFor key }))) ∧
      (∀ b c id l, m.dst = .dist p b → hears b → y.launches.filter (fun a => decide (a.id = id)) = [l] →
        (m.body = .cancelAck id c → l.stage = 1 → ∃ u : State, exec (.cancelAck n) s = .next u ∧ u.mem = t.mem ∧
          (natErase l.awaiting c ≠ [] → { l with awaiting := natErase l.awaiting c } ∈ (u.pkg p).launches) ∧
          (natErase l.awaiting c = [] → l.cores ≠ [] → { l with stage := 2, awaiting := l.cores } ∈ (u.pkg p).launches ∧
            u.msgs = t.msgs ++ l.cores.map fun d => ctl (dist y.master) (.core d) (.drain id))) ∧
        (m.body = .drained id c → l.stage = 2 → l.awaiting = [c] →
          (t.chunkOnWay id = true → exec (.drained n) s = .next s) ∧
          (t.chunkOnWay id = false → ∃ u : State, exec (.drained n) s = .next u ∧ u.mem = t.mem ∧
            (∃ a ∈ (u.pkg p).launches, a.id = id ∧ a.stage = 3 ∧ a.status = l.status ∧ a.awaiting = []) ∧
            ∀ d ∈ l.cores, (u.core d).cancels.contains (p * 2 ^ 48 + id.toNat % 2 ^ 48) = false)) ∧
        (m.body = .drained id c → l.stage = 2 → natErase l.awaiting c ≠ [] → ∃ u : State, exec (.drained n) s = .next u ∧
          { l with awaiting := natErase l.awaiting c } ∈ (u.pkg p).launches))) ∧
    (∀ c i id first at_, (s.core c).unreported[i]? = some (id, first, at_) →
      (s.now c < at_ + 25000 → exec (.chunkReportResend c i) s = .next s) ∧
      (at_ + 25000 ≤ s.now c → ∃ u : State, exec (.chunkReportResend c i) s = .next u ∧
        (u.core c).unreported[i]? = some (id, first, s.now c) ∧ u.msgs = s.msgs ++
          [ctl (.core c) (.dist (pkgOf c) (s.pkg (pkgOf c)).master) (.chunkReport id first c)])) ∧
    (x.failover = none → ∀ l, x.launches = [l] →
      (l.stage ≠ 3 → exec (.completionSend p) s = .next s) ∧
      (l.stage = 3 →
        let e := epOfHandle l.compl
        let z := s.ep e
        let ws : List Word := [l.id, l.user, BitVec.ofNat 64 (l.status + l.freeThen * 2 ^ 8 + l.reissued * 2 ^ 32), 0]
        let ends := fun (u : State) => exec (.completionSend p) s = .next u ∧ (u.pkg p).launches = []
        let tells := ∃ u r, ends u ∧ r.dest = .monitor ∧ (u.pkg p).outbox = x.outbox ++ [r] ∧ r.words.drop 4 = 5 :: ws.take 3
        let any := z.mode = 2 ∧ z.dir = false ∧ z.cls ≤ 1 ∧ (z.state = 1 ∨ z.state = 2)
        let hosts := z.mode = 3 ∧ z.dir = true ∧ z.state = 2 ∧ (s.hostEpOf e).isSome = true
        (l.compl = 0 → ∃ u, ends u ∧ u.msgs = s.msgs ∧ u.mem = s.mem) ∧
        (l.compl ≠ 0 → s.accepts l.compl (BitVec.ofNat 12 l.domain) = false → tells) ∧
        (l.compl ≠ 0 → s.accepts l.compl (BitVec.ofNat 12 l.domain) = true →
          (any → l.ticket = none → ∃ u : State, exec (.completionSend p) s = .next u ∧ (u.ep e).nextt = z.nextt + 1 ∧
            (u.pkg p).launches = [{ l with ticket := some (e, z.nextt.toNat) }]) ∧
          (∀ i, any → l.ticket = some i → z.hasCalled i.2 = false → exec (.completionSend p) s = .next s) ∧
          (∀ i, any → l.ticket = some i → z.hasCalled i.2 = true → ∃ u, ends u ∧ (u.ep e).slots = z.slots ++ [i.2]) ∧
          (hosts → z.reserved ≠ 0 ∨ z.freeGranules = 0 → exec (.completionSend p) s = .next s) ∧
          (hosts → z.reserved = 0 → 1 ≤ z.freeGranules → ∃ u, ends u ∧ (u.ep e).tail = z.tail + 1 ∧ u.mem = s.mem) ∧
          (¬any → ¬hosts → tells)))) ∧
    (∀ at_, x.failover = some at_ →
      (x.time < at_ + 25000 → exec (.masterFailover p) s = .next s) ∧
      (at_ + 25000 ≤ x.time → ∃ u : State, exec (.masterFailover p) s = .next u ∧ (u.pkg p).failover = none ∧ u.mem = s.mem ∧
        (∀ b, b < 4 → (s.base (p * 4 + b)).fenced = none → (u.pkg p).master ≤ b ∧
          (s.base (p * 4 + (u.pkg p).master)).fenced = none) ∧
        ((s.base (p * 4 + x.mirrorAt)).fenced = none →
          (∀ l ∈ x.mirror, l.stage = 0 ∧ ∀ e ∈ l.sent, s.chunkKnown p l.id e = true) → (u.pkg p).launches = x.mirror) ∧
        (∀ l, (s.base (p * 4 + x.mirrorAt)).fenced ≠ none → x.mirror = [l] → l.stage ≠ 3 → ∃ a, (u.pkg p).launches = [a] ∧
          a.id = l.id ∧ a.stage ≠ 0 ∧ a.status = 2)))

/-- The shared register map (R208, R336 to R339, R356 to R358, R360): semaphores, core reassignment, common-store windows,
domain descriptors, host endpoints, the step-unit registers, the offsets of BAR0, and package memory accessed from a
host. The data a receiving host endpoint reads from its host, and a host's read of a poisoned granule, are free values
(log 9). -/
def Obligations.HostRegisters : Prop :=
  ∀ (s : State) (p : Nat),
    let x := s.pkg p
    (∀ who i, who ≤ 2 →
      let old := x.sem i
      (∃ u : State, exec (.semRead p who i) s = .next u ∧ u.cur = s.cur ∧ u.mem = s.mem ∧
        (∀ j, (u.pkg p).sem j = if j = i ∧ old % 2 = 0 then 1 + 2 * who else x.sem j) ∧
        (who < 2 → ((u.pkg p).port who).completion = leBytes old 8) ∧ (who = 2 → (u.pkg p).monitorData = leBytes old 8)) ∧
      (old = 1 + 2 * who → ∃ u : State, exec (.semWrite p who i 0) s = .next u ∧ u.cur = s.cur ∧ u.mem = s.mem ∧
        (∀ j, (u.pkg p).sem j = if j = i then 0 else x.sem j) ∧
        ∀ n, n < 2 → ((u.pkg p).port n).interrupts = (x.port n).interrupts ++ if i = 0 then [] else [i]) ∧
      (∀ v, ¬(v = 0 ∧ old = 1 + 2 * who) →
        (who < 2 → exec (.semWrite p who i v) s =
          .next (s.modPort p who fun y => { y with semerr := min 255 (y.semerr + 1) })) ∧
        (who = 2 → exec (.semWrite p who i v) s = .next s))) ∧
    (∀ who i, 2 < who → exec (.semRead p who i) s = .next s) ∧
    (∀ port, port < 2 →
      (let trains := (s.base (p * 4 + if port = 0 then 0 else 2)).fenced = none ∧ (x.thermtrip = true ∨ 3 ≤ x.bringup)
       (trains → exec (.pcieLinkUp p port) s = .next (s.modPort p port fun y => { y with linkup := true })) ∧
       (¬trains → exec (.pcieLinkUp p port) s = .next s)) ∧
      ((∀ e ∈ x.sems, x.sem e.1 = e.2) → ∃ u : State, exec (.pcieLinkDown p port) s = .next u ∧ u.cur = s.cur ∧ u.mem = s.mem ∧
        ((u.pkg p).port port).linkup = false ∧ (∀ i, (u.pkg p).sem i = if x.sem i = 1 + 2 * port then 0 else x.sem i) ∧
        (∀ i, i ≠ 0 → x.sem i = 1 + 2 * port → ∀ n, n < 2 → i ∈ ((u.pkg p).port n).interrupts) ∧
        (u.pkg p).upload = x.upload.filter fun up => decide (up.port ≠ port))) ∧
    (∀ c v,
      let z := s.core c
      let bad := v.toNat / 2 ^ 13 ≠ 0 ∨ ((s.pkg (c / 2048)).domain (v.toNat % 2 ^ 12)).valid = false ∨ c % 2048 = 255 ∨
        (∃ k ∈ s.live, coreOf k = c) ∨ z.tileQ ≠ [] ∨ z.copyQ ≠ [] ∨ z.replay.state ≠ .idle ∨ z.recording ≠ none ∨ z.busy = true
      (bad → exec (.cdomWrite c v) s = .next s) ∧
      (¬bad → exec (.cdomWrite c v) s = .next (s.modCore c fun z => { z with busy := true, newDom := v.setWidth 12 })) ∧
      (z.busy = false → exec (.cdomClearDone c) s = .next s) ∧
      (z.busy = true → ∃ u : State, exec (.cdomClearDone c) s = .next u ∧ (u.core c).busy = false ∧ (u.core c).cdom = z.newDom ∧
        (u.core c).acc = [] ∧ (u.core c).accPoison = [] ∧ (u.core c).lut = [] ∧ (u.core c).slice = z.slice ∧
        (u.core c).fulln = z.fulln ∧ (u.core c).lightn = z.lightn ∧ (u.core c).extn = z.extn ∧ (u.core c).dlprobe = z.dlprobe ∧
        (s.eps.Pairwise (fun a b => a.1 < b.1) → ∀ e, e / 1024 = c → (u.ep e).state = 0 ∧ (u.ep e).gen = (s.ep e).gen + 1) ∧
        ((∀ e, e / 1024 = c → (s.ep e).ticket = none) →
          (∀ o, o < 393216 → u.mem.get (locSpad c o) = 0) ∧ ∀ g ∈ u.poison, 8 * g < locSpad c 0 ∨ locSpad c 393216 ≤ 8 * g))) ∧
    (∀ die w (v : Word), die < 8 → w < 16 →
      let e := p * 8 + die
      let z := s.die e
      let base := v.toNat % 2 ^ 10
      let size := v.toNat / 2 ^ 11 % 2 ^ 11
      let dom := v.toNat / 2 ^ 32 % 2 ^ 12
      let n : Window := { base := base, size := size, domain := dom, valid := v.getLsbD 63 }
      let bad := v.getLsbD 10 = true ∨ v.toNat / 2 ^ 22 % 2 ^ 10 ≠ 0 ∨ v.toNat / 2 ^ 44 % 2 ^ 19 ≠ 0 ∨ 1024 < base + size ∨
        (v.getLsbD 63 = true ∧ ((x.domain dom).valid = false ∨ ∃ i, i < 16 ∧ i ≠ w ∧ (z.window i).valid = true ∧
          (z.window i).domain ≠ dom ∧ size ≠ 0 ∧ (z.window i).size ≠ 0 ∧ base < (z.window i).base + (z.window i).size ∧ (z.window i).base < base + size))
      let leaves := fun (u : Nat) => (z.window w).covers u &&
        !({ z with windows := z.windows.put w n, clearing := none } : Die).gives (z.window w).domain u
      let busy := s.writesTo fun loc => (unitOfDie e loc).any leaves
      (z.clearing = none → z.windowQ = [] → bad → exec (.windowWrite p die w v) s = .next s) ∧
      (z.clearing = none → z.windowQ = [] → ¬bad → exec (.windowWrite p die w v) s =
        .next (s.modDie e fun z => { z with clearing := some (w, n) })) ∧
      (z.clearing ≠ none → exec (.windowWrite p die w v) s =
        .next (s.modDie e fun z => { z with windowQ := z.windowQ ++ [(w, v)] })) ∧
      (z.clearing = none → exec (.windowClearDone p die) s = .next s) ∧
      (z.clearing = some (w, n) → busy = true → exec (.windowClearDone p die) s = .next s) ∧
      (z.clearing = some (w, n) → busy = false → ∃ u : State, exec (.windowClearDone p die) s = .next u ∧
        (z.windowQ = [] → (u.die e).clearing = none) ∧
        (∀ w' v' r, z.windowQ = (w', v') :: r → ∃ t : State, u = t.startWindow e ((w', v') :: r) ∧ (t.die e).clearing = none) ∧
        (∀ i, i < 16 → (u.die e).window i = if i = w then n else z.window i) ∧
        (∀ o, o < 2 ^ 26 → n.covers (o / 65536) = true → z.gives dom (o / 65536) = false →
          u.mem.get (locCommon p die o) = 0) ∧
        (∀ a : OrdAdd, a ∈ u.ordadds → ∀ o, o < 2 ^ 26 → 8 * a.gran = locCommon p die o →
          (z.window w).covers (o / 65536) = true → (u.die e).gives (z.window w).domain (o / 65536) = true) ∧
        (∀ o k, o < 2 ^ 26 → s.barriers = [(locCommon p die o, k)] → s.armed = [] → (s.proc k).state = .parked →
          (z.window w).covers (o / 65536) = true → (u.die e).gives (z.window w).domain (o / 65536) = false →
          (u.proc k).state = .stopped ∧ (u.proc k).cause = 5))) ∧
    (∀ dom i (v : Word),
      let set := fun (f : Domain → Domain) => exec (.descriptorWrite p dom i v) s = .next (s.modDomain p dom f)
      let used := (∃ c, c / 2048 = p ∧ ((s.core c).cdom.toNat = dom ∨ ((s.core c).busy = true ∧ (s.core c).newDom.toNat = dom))) ∨
        (∃ e w, e / 8 = p ∧ w < 16 ∧ ((s.die e).window w).valid = true ∧ ((s.die e).window w).domain = dom) ∨
        (∃ e w n, e / 8 = p ∧ (s.die e).clearing = some (w, n) ∧ n.valid = true ∧ n.domain = dom) ∨
        (∃ k ∈ x.keys, k.2.owner = dom) ∨ ∃ l ∈ x.launches, l.domain = dom
      let bad := (i = 0 ∧ (v.toNat / 2 ≠ 0 ∨ (v.getLsbD 0 = false ∧ (dom = 0 ∨ used)))) ∨
        (i = 1 ∧ (v.toNat % 2 ^ 12 ≠ 0 ∨ 768 * 2 ^ 30 ≤ v.toNat)) ∨ 6 ≤ i
      (bad → exec (.descriptorWrite p dom i v) s = .next s) ∧
      (¬bad → (i = 0 → set fun d => { d with valid := v.getLsbD 0 }) ∧ (i = 1 → set fun d => { d with root := v }) ∧
        (i = 2 → set fun d => { d with secret := BitVec.ofNat 128 (d.secret.toNat / 2 ^ 64 * 2 ^ 64 + v.toNat) }) ∧
        (i = 3 → set fun d => { d with secret := BitVec.ofNat 128 (d.secret.toNat % 2 ^ 64 + v.toNat * 2 ^ 64) }) ∧
        (i = 4 → set fun d => { d with supep := v }) ∧ (i = 5 → set fun d => { d with pager := v }))) ∧
    (∀ j i (v : Word),
      let h := x.hostEp j
      let e := epOfHandle h.handle
      let bound := h.valid = true ∧ (s.hostEpOf e).isSome = true
      let len := v.toNat / 4 % 2 ^ 12
      let set := fun (t : State) => t.modHostEp p j fun h => { h with valid := v.getLsbD 0, port := v.getLsbD 1, rlen := len }
      let good := s.accepts h.handle (s.ep e).domain = true ∧ (s.ep e).state = 1 ∧ (s.ep e).mode = 3
      let old := h.hostidx
      let t := s.modHostEp p j fun h => { h with hostidx := v.setWidth 16 }
      let n := (v.setWidth 16 - old : BitVec 16).toNat
      let write := exec (.hostEndpointWrite p j i v) s
      (i = 0 → write = .next (s.modHostEp p j fun h => { h with handle := v })) ∧
      (i = 1 → (v.toNat % 2 ^ 6 ≠ 0 ∨ 2 ^ 48 ≤ v.toNat → write = .next s) ∧
        (v.toNat % 2 ^ 6 = 0 → v.toNat < 2 ^ 48 → write = .next (s.modHostEp p j fun h => { h with ring := v }))) ∧
      (i = 2 → (2 ^ 14 ≤ v.toNat → write = .next s) ∧
        (v.toNat < 2 ^ 14 → v.getLsbD 0 = true → ¬good → write = .next (s.shown h.handle (s.ep e).domain)) ∧
        (v.toNat < 2 ^ 14 → v.getLsbD 0 = true → good → write = .next (((set s).modEp e fun y =>
          { y with state := 2, rlen := len + 1, head := 0, tail := 0, linkReason := none, linkWords := [] }).wakeEp e)) ∧
        (v.toNat < 2 ^ 14 → v.getLsbD 0 = false → ¬bound → write = .next (set s)) ∧
        (v.toNat < 2 ^ 14 → v.getLsbD 0 = false → bound → (s.ep e).mode = 3 → (s.ep e).state = 2 → ∃ u : State,
          write = .next u ∧ (u.ep e).state = 1 ∧ (u.ep e).head = 0 ∧ (u.ep e).tail = 0 ∧ (u.ep e).linkReason = some 4 ∧ ((u.pkg p).hostEp j).valid = false ∧
          ∀ k, (s.ep e).waiter = some k ∨ k ∈ (s.ep e).queue ∨ k ∈ (s.ep e).syncing → (s.proc k).state = .parked →
            s.acked k = false →
            (u.proc k).state = .stopped ∧ (u.proc k).cause = 12)) ∧
      (i = 3 → write = exec (.hostidxWrite p j v) s) ∧ (4 ≤ i → write = .next s) ∧
      (2 ^ 16 ≤ v.toNat → exec (.hostidxWrite p j v) s = .next s) ∧
      (v.toNat < 2 ^ 16 → ¬(bound ∧ (s.ep e).state = 2) → exec (.hostidxWrite p j v) s = .next t) ∧
      (v.toNat < 2 ^ 16 → bound → (s.ep e).state = 2 →
        let free := (s.ep e).rlen - (s.ep e).committed
        ((s.ep e).dir = true → n ≤ (s.ep e).committed → exec (.hostidxWrite p j v) s =
          .next ((t.modEp e fun y => { y with head := y.head + BitVec.ofNat 16 n }).wakeEp e)) ∧
        (((s.ep e).dir = true ∧ (s.ep e).committed < n) ∨ ((s.ep e).dir = false ∧ free < n) → ∃ u : State,
          exec (.hostidxWrite p j v) s = .next u ∧ (u.ep e).state = 3 ∧ u.mem = s.mem) ∧
        ((s.ep e).dir = false → n ≤ free → ∃ u : State, exec (.hostidxWrite p j v) s = .next u ∧
          (u.ep e).tail = (s.ep e).tail + BitVec.ofNat 16 n ∧ (u.ep e).head = (s.ep e).head ∧ (u.ep e).state = 2 ∧
          (∀ j', s.hostEpOf e = some j' → n = 1 → (s.core (coreOfEp e)).storeQ = [] →
            let q := fun (y : State) => ((y.pkg (pkgOf (coreOfEp e))).port (if j'.port = true then 1 else 0)).requests
            q u = q s ++ [.read (j'.granule ((s.ep e).tail.toNat % (s.ep e).rlen)) 64]) ∧
          (s.Inv → n = 1 → (s.core (coreOfEp e)).storeQ = [] →
            let o := 64 * ((s.ep e).rbase + (s.ep e).tail.toNat % (s.ep e).rlen)
            o + 64 ≤ ctxBase (s.core (coreOfEp e)) → u.mem.read (locSpad (coreOfEp e) o) 64 =
              (upTo 8).flatMap fun k => leBytes (Config.freeWord (s.draws + k)).toNat 8)))) ∧
    (∀ v : Word,
      (2 ^ 41 ≤ v.toNat → exec (.stepctlWrite p v) s = .next s) ∧
      (v.toNat < 2 ^ 41 → x.phase = 0 → exec (.stepctlWrite p v) s =
        .next (s.modPkg p fun x => { x with steplim := v.setWidth 32, root := v.toNat / 2 ^ 32 })) ∧
      (v.toNat < 2 ^ 41 → x.phase ≠ 0 → exec (.stepctlWrite p v) s = .next (s.modPkg p fun x => { x with newStepctl := some v })) ∧
      (let bad := 2 ^ 58 ≤ v.toNat ∨ 131072 < v.toNat / 2 ^ 40 ∨ ∃ e ∈ x.entries, e.overflow = true
       (bad → exec (.stepovfWrite p v) s = .next s) ∧
       (¬bad → exec (.stepovfWrite p v) s =
         .next (s.modPkg p fun x => { x with ovfBase := v.toNat % 2 ^ 40, ovfSize := v.toNat / 2 ^ 40 })))) ∧
    (∀ port off (v : Word), port < 2 →
      let write := exec (.registerWrite p port off v) s
      let at_ := fun (lo n size : Nat) => lo ≤ off ∧ off < lo + n * size ∧ off % 8 = 0
      (off % 8 ≠ 0 ∨ 0x500000 ≤ off ∨ at_ 0x60000 1 0x20000 → write = .next (s.badAccess p port)) ∧
      (off = 8 → write = exec (.pkgevtClear p v) s) ∧
      (off = 0x1000 → write = exec (.stepctlWrite p v) s) ∧ (off = 0x1008 → write = exec (.stepovfWrite p v) s) ∧
      (off = 0x1010 → write = .next (s.modPkg p fun x => { x with hostdrop := BitVec.ofNat 16 (v.toNat / 2 ^ 32 % 2 ^ 16) })) ∧
      (off = 0x1018 → write = .next (s.modPkg p fun x => { x with podsupv := v })) ∧
      (at_ 0x2000 64 8 → write = exec (.semWrite p port ((off - 0x2000) / 8) v) s) ∧
      (off = 0x5030 → 6 ≤ v.toNat → write = exec (.unknownCommand p port v) s) ∧
      (at_ 0x10000 2048 8 → write = exec (.cdomWrite (p * 2048 + (off - 0x10000) / 8) v) s) ∧
      (at_ 0x14000 8 128 → write = exec (.windowWrite p ((off - 0x14000) / 128) ((off - 0x14000) % 128 / 8) v) s) ∧
      (at_ 0x20000 4096 64 → write = exec (.descriptorWrite p ((off - 0x20000) / 64) ((off - 0x20000) % 64 / 8) v) s) ∧
      (at_ 0x80000 1024 32 → write = exec (.hostEndpointWrite p ((off - 0x80000) / 32) ((off - 0x80000) % 32 / 8) v) s) ∧
      (at_ 0x100000 32768 128 →
        let q := (off - 0x100000) / 128
        (off % 128 = 0x40 → write = exec (.qctlWrite p port q v) s) ∧ (off % 128 = 0x58 → write = exec (.depdecWrite p port q v) s) ∧
        (off % 128 = 0x60 → write = exec (.cancelWrite p port q v) s) ∧ (0x60 < off % 128 → write = .next (s.badAccess p port)))) ∧
    (∀ port off n, port < 2 →
      let read := s.hostAccess p port off n none
      let gives := fun (v : Nat) => read = s.answerPort p port (leBytes (BitVec.ofNat 64 v : Word).toNat 8)
      let reg := fun (lo n size : Nat) => lo ≤ off ∧ off < lo + n * size ∧ off % 8 = 0
      (n ≠ 8 ∨ off % 8 ≠ 0 ∨ 0x500000 ≤ off ∨ reg 0x60000 1 0x20000 →
        read = (s.badAccess p port).answerPort p port (List.replicate n 0)) ∧
      (n = 8 → reg 0x2000 64 8 → exec (.semRead p port ((off - 0x2000) / 8)) s = .next read) ∧
      (n = 8 → reg 0x10000 2048 8 → let z := s.core (p * 2048 + (off - 0x10000) / 8)
        gives (z.cdom.toNat + z.busy.toNat * 2 ^ 12)) ∧
      (n = 8 → reg 0x14000 8 128 → let z := (s.die (p * 8 + (off - 0x14000) / 128)).window ((off - 0x14000) % 128 / 8)
        gives (z.base + z.size * 2 ^ 11 + z.domain * 2 ^ 32 + z.valid.toNat * 2 ^ 63)) ∧
      (n = 8 → reg 0x20000 4096 64 → let z := x.domain ((off - 0x20000) / 64)
        let i := (off - 0x20000) % 64 / 8
        (i = 0 → gives z.valid.toNat) ∧ (i = 1 → gives z.root.toNat) ∧ (i = 2 ∨ i = 3 ∨ i = 7 → gives 0) ∧
          (i = 4 → gives z.supep.toNat) ∧ (i = 5 → gives z.pager.toNat) ∧ (i = 6 → gives z.chrefuse.toNat)) ∧
      (∀ w : BitVec 512, let write := s.hostAccess p port off n (some w)
        (n = 8 → off % 8 = 0 → exec (.registerWrite p port off (w.truncate 64)) s = .next write) ∧
        (n = 64 → reg 0x100000 32768 128 → off % 128 = 0 →
          exec (.launchWindowWrite p port ((off - 0x100000) / 128) true w) s = .next write) ∧
        (¬(n = 8 ∧ off % 8 = 0) →
          let a := off - 0x100000
          let reject := fun (q : Nat) => exec (.launchWindowWrite p port q (decide (n = 64 ∧ off % 128 = 0)) w) s = .next write
          (off < 0x100000 ∨ 0x500000 ≤ off → write = s.badAccess p port) ∧
          (0x100000 ≤ off → off < 0x500000 →
            (a % 128 < 64 → reject (a / 128)) ∧
            (64 ≤ a % 128 → 128 < a % 128 + n → a / 128 + 1 < 32768 → reject (a / 128 + 1)) ∧
            (64 ≤ a % 128 → ¬(128 < a % 128 + n ∧ a / 128 + 1 < 32768) → write = s.badAccess p port))))) ∧
    (∀ port loc n mode key (v : Word), port < 2 →
      let read := exec (.hostMemoryRead p port loc n mode key) s
      let write := exec (.hostMemoryWrite p port loc n mode key v) s
      (s.hostReaches p loc n = false → write = .next (s.badAccess p port) ∧ ∃ u : State, read = .next u ∧ u.mem = s.mem ∧
        ((u.pkg p).port port).completion = List.replicate n 0 ∧
        ((u.pkg p).port port).badacc = min 65535 ((x.port port).badacc + 1)) ∧
      (s.hostReaches p loc n = true → mode ≠ 0 → ∃ u : State, write = .next u ∧ u.mem = s.mem ∧ u.cur = s.cur ∧
        (u.pkg p).hostdrop.toNat = min 65535 (x.hostdrop.toNat + 1)) ∧
      (s.hostReaches p loc n = true → mode = 0 → s.Inv → s.ordadds = [] → kindOf loc ≠ .hbm → ∃ u : State, write = .next u ∧
        u.mem.read loc n = leBytes v.toNat n ∧ ∀ a, (a < loc ∨ loc + n ≤ a) → u.mem.get a = s.mem.get a) ∧
      (s.hostReaches p loc n = true → (mode = 1 → x.applying = false) → s.ordadds = [] → kindOf loc ≠ .hbm →
        (∀ g, g ∈ granules loc n → natMem s.poison g = false) → read = .next (s.answerPort p port (s.mem.read loc n))))

/-- The mailbox and bring-up (R23, R48, R330, R361 to R363, R385, R386, R414): a command while one is in progress is counted, every
other clears STATUS and runs; the attestation report; the first good configuration; the firmware upload with its
refusals; each phase of bring-up, its failures and its end; the monitor's start; what reset and the loss of refresh power
leave. Whether an image's signature verifies, the key and the signature are constants of the model without a value (log 7),
the monitor's entry and ring too (log 10). -/
def Obligations.BringUp : Prop :=
  ∀ (s : State) (p port : Nat), port < 2 →
    let x := s.pkg p
    let y := x.port port
    let word := fun (detail : Nat) => (BitVec.ofNat 64 (if detail = 0 then 1 else 3 + detail * 2 ^ 8) : Word)
    let ends := fun (t : State) (detail : Nat) => t.modPort p port fun y => { y with command := none, status := word detail }
    let ups := fun (u : Option Upload) => s.modPkg p fun x => { x with upload := u }
    let n := y.arg.toNat
    let cfg := fun (at_ n : Nat) => y.config.toNat / 2 ^ (8 * at_) % 2 ^ (8 * n)
    let good := cfg 0 2 = 1 ∧ cfg 2 2 < 512 ∧ cfg 4 2 < 512 ∧ cfg 6 1 % 2 = 0 ∧ cfg 7 1 = 0 ∧ cfg 8 8 < 2 ^ 58 ∧
      cfg 8 8 / 2 ^ 40 ≤ 131072 ∧ y.config.getLsbD (128 + cfg 2 2) = true ∧ cfg 0x50 48 = 0
    let commands := [(Instr.attestation p port), (.configuration p port), (.beginImage p port), (.imageBlock p port), (.endImage p port)]
    let held := x.thermtrip = true ∨ x.bringup = 0
    (held → (∀ i ∈ commands, exec i s = .next s) ∧ ∀ v : Word, 6 ≤ v.toNat → exec (.unknownCommand p port v) s = .next s) ∧
    (¬held → y.command ≠ none → (∀ i ∈ commands, exec i s = .next (s.badAccess p port)) ∧
      ∀ v : Word, 6 ≤ v.toNat → exec (.unknownCommand p port v) s = .next (s.badAccess p port)) ∧
    (¬held → y.command = none →
      let busy := fun (t : State) (n : Nat) => t.modPort p port fun y => { y with command := some n, status := 0 }
      exec (.attestation p port) s = .next (busy s 1) ∧
      (∀ v : Word, (v = 0 ∨ 6 ≤ v.toNat) → exec (.unknownCommand p port v) s = .next (ends s 7)) ∧
      (let go := exec (.configuration p port) s
       let m := cfg 2 2
       (x.config ≠ none → go = .next (ends s 9)) ∧ (x.config = none → ¬good ∨ (m ≠ p ∧ (s.pkg m).config ≠ none) → go = .next (ends s 8)) ∧
       (x.config = none → good → m ≠ p → (s.pkg m).config = none → s.pkgs.Pairwise (fun a b => a.1 < b.1) →
         ∃ u : State, go = .next u ∧ ((u.pkg m).port port).status = 1 ∧ (u.pkg m).config = some y.config ∧
           (u.pkg m).member = true ∧ (u.pkg m).part = x.part ∧ (u.pkg m).image = x.image ∧
           (u.pkg p).part = (s.pkg m).part ∧ (u.pkg p).config = none) ∧
       (x.config = none → good → m = p → ∃ u : State, go = .next u ∧ u.mem = s.mem ∧
         ((u.pkg p).port port).status = 1 ∧ (u.pkg p).config = some y.config ∧ (u.pkg p).member = true ∧ (u.pkg p).report = [] ∧ (u.pkg p).root = cfg 4 2 ∧
         (u.pkg p).ovfBase = cfg 8 8 % 2 ^ 40 ∧ (u.pkg p).ovfSize = cfg 8 8 / 2 ^ 40 ∧
         (u.pkg p).m1 = Aes.sha384 (byteNums y.config.toNat 128) ∧
         (u.pkg p).bringup = if x.bringup = 5 then 6 else x.bringup)) ∧
      (let go := exec (.beginImage p port) s
       (x.recovery = false → go = .next (ends s 5)) ∧
       (x.recovery = true → n % 256 ≠ 0 ∨ n < 256 ∨ 2 ^ 24 < n → go = .next (ends s 6)) ∧
       (x.recovery = true → n % 256 = 0 → 256 ≤ n → n ≤ 2 ^ 24 →
         (∀ up, x.upload = some up → up.port ≠ port → go = .next (ends s 1)) ∧
         ((∀ up, x.upload = some up → up.port = port) → go = .next (ends (ups (some { port := port, length := n, blocks := [] })) 0)))) ∧
      ((∀ up, x.upload = some up → up.port ≠ port) → exec (.imageBlock p port) s = .next (ends s 1) ∧
        exec (.endImage p port) s = .next (ends s 1)) ∧
      (∀ up, x.upload = some up → up.port = port →
        let k := up.blocks.length
        (n ≠ k ∨ up.length ≤ 256 * k → exec (.imageBlock p port) s = .next (ends s 2)) ∧
        (n = k → 256 * k < up.length → exec (.imageBlock p port) s =
          .next (ends (ups (some { up with blocks := up.blocks ++ [y.block] })) 0)) ∧
        (256 * k ≠ up.length → exec (.endImage p port) s = .next (ends s 3)) ∧
        (256 * k = up.length → exec (.endImage p port) s = .next (busy (s.modPkg p fun x =>
          { x with verifying := some (port, up.blocks.flatMap fun b => leBytes b.toNat 256) }) 5)))) ∧
    ((y.command ≠ some 1 → exec (.attestationComplete p port) s = .next s) ∧
     (y.command = some 1 → ∃ u : State, exec (.attestationComplete p port) s = .next u ∧ u.mem = s.mem ∧
       ((u.pkg p).port port).status = 1 ∧ ((u.pkg p).port port).command = none ∧
       ∀ i, i < 344 → ((u.pkg p).port port).report.toNat / 2 ^ (8 * i) % 256 =
         if i < 8 then (if i = 0 then 1 else 0)
         else if i < 56 then y.nonce.toNat / 2 ^ (8 * (i - 8)) % 256
         else if i < 104 then x.m0.toNat / 2 ^ (8 * (103 - i)) % 256
         else if i < 152 then x.m1.toNat / 2 ^ (8 * (151 - i)) % 256
         else if i < 248 then (Config.publicKey x.part).toNat / 2 ^ (8 * (247 - i)) % 256
         else (Config.signature x.part (Aes.sha384 (s.reportBody p port))).toNat / 2 ^ (8 * (343 - i)) % 256)) ∧
    ((x.verifying = none → exec (.imageVerifyComplete p) s = .next s) ∧
     (∀ img, x.verifying = some (port, img) →
       (Config.imageVerifies img = true → ∃ u : State, exec (.imageVerifyComplete p) s = .next u ∧ (u.pkg p).image = img ∧
         (u.pkg p).recovery = false ∧ (u.pkg p).m0 = Aes.sha384 (img.map BitVec.toNat) ∧ ((u.pkg p).port port).status = 1 ∧
         (u.pkg p).bringup = (if x.config = none then 5 else 6) ∧ u.mem = s.mem) ∧
       (Config.imageVerifies img = false → exec (.imageVerifyComplete p) s =
         .next (ends (s.modPkg p fun x => { x with verifying := none, upload := none }) 4)))) ∧
    (∀ unit (ok : Bool), x.thermtrip = false → x.recovery = false →
      let go := exec (.bringupPhaseComplete p unit ok) s
      let late := exec (.bringupPhaseTimeout p unit) s
      let phase := fun (n : Nat) => s.modPkg p fun x => { x with bringup := n, attempts := [] }
      let again := s.modPkg p fun x => { x with attempts := x.attempts.put unit (x.attempts.get unit 0 + 1) }
      (x.bringup = 1 → go = .next (phase (if ok = true then 2 else 0)) ∧ late = .next (s.modPkg p fun x => { x with bringup := 0 })) ∧
      (x.bringup = 2 ∨ x.bringup = 3 → ok = true → go = .next (phase (x.bringup + 1))) ∧
      (x.bringup = 2 ∨ (x.bringup = 3 ∧ 2 ≤ unit) → ok = false → x.attempts.get unit 0 < 2 → go = .next again ∧ late = .next again) ∧
      (x.bringup = 2 → ok = false → 2 ≤ x.attempts.get unit 0 → go = late ∧ ∃ u : State, go = .next u ∧
        (let b := unit / 3 % 4
         (u.base (p * 4 + b)).fenced = some 5 ∧ (u.die (p * 8 + 2 * b)).fenced = some 4 ∧ (u.die (p * 8 + 2 * b + 1)).fenced = some 4) ∧
        u.mem = s.mem ∧ (u.pkg p).bringup = 2) ∧
      (x.bringup = 3 → ok = false → unit < 2 → go = late ∧ go = .next (again.modPort p unit fun y => { y with linkup := false })) ∧
      (x.bringup = 3 → ok = false → 2 ≤ unit → 2 ≤ x.attempts.get unit 0 →
        let t := again.modPkg p fun x => { x with links := x.links.put (unit - 2) 2 }
        let cut := fun (e : Nat) => ∀ l ∈ linksOfDie e, (t.pkg p).links.get l 0 = 2
        go = late ∧ ((∀ e, e < 8 → ¬cut e) → go = .next t) ∧
        ∃ u : State, go = .next u ∧ u.mem = s.mem ∧ u.cur = s.cur ∧ ∀ e, e < 8 → cut e → (u.die (p * 8 + e)).fenced = some 2) ∧
      (x.bringup = 4 → late = .next (s.modPkg p fun x => { x with recovery := true }) ∧
        (Config.imageVerifies x.image = false → go = .next (s.modPkg p fun x => { x with recovery := true })) ∧
        (Config.imageVerifies x.image = true → ∃ u : State, go = .next u ∧ (u.pkg p).m0 = Aes.sha384 (x.image.map BitVec.toNat) ∧
          (u.pkg p).bringup = if x.config = none then 5 else 6)) ∧
      (x.bringup = 5 → (x.config = none → go = .next s) ∧ (x.config ≠ none → go = .next (phase 6)) ∧ late = .next s) ∧
      (x.bringup = 6 → s.self = (p * 2048 + 255) * 2048 → s.cur = Proc.empty → s.live = [] → s.core (p * 2048 + 255) = Core.atReset →
        ∃ u : State, go = .next u ∧ (u.pkg p).bringup = 7 ∧
        (∀ a, p * 2 ^ 42 + 2 ^ 41 ≤ a → a < (p + 1) * 2 ^ 42 → u.mem.get a = 0 ∧ natMem u.poison (a / 8) = false) ∧
        (∀ a, a < p * 2 ^ 42 + 2 ^ 41 ∨ (p + 1) * 2 ^ 42 ≤ a → u.mem.get a = s.mem.get a) ∧
        u.cur.state = .ready ∧ u.cur.supv = true ∧ u.cur.light = false ∧ u.cur.domain = 0 ∧
        u.cur.pc.toNat = (Config.monitorEntry p).toNat % 2 ^ 56 / 4 * 4 ∧ (u.pkg p).monitorPid = some u.cur.pid ∧
        (let e := u.ep (monitorEp p)
         e.state = 1 ∧ e.mode = 2 ∧ e.cls = 1 ∧ e.shape = 192 ∧ e.rbase = (Config.monitorRing p).1 % 3000) ∧
        (∀ c i, x.config = some c → 1 ≤ i → i < 8 → c.getLsbD (48 + i) = true →
          (u.core (p * 2048 + 256 * i + 255)).reserved = false))) ∧
    (∃ u : State, exec (.packageReset p) s = .next u ∧
      (u.pkg p).bringup = 1 ∧ (u.pkg p).image = x.image ∧ (u.pkg p).part = x.part ∧ (u.pkg p).config = none ∧ (u.pkg p).time = 0 ∧ (u.pkg p).stepno = 0 ∧
      (u.pkg p).entries = [] ∧ (u.pkg p).domains = [] ∧ (u.pkg p).keys = [] ∧ (u.pkg p).queues = [] ∧ (u.pkg p).launches = [] ∧
      (∀ k, pkgOf (coreOf k) = p → u.proc k = Proc.empty) ∧ (∀ c, pkgOf c = p → u.core c = Core.atReset) ∧
      (∀ e, pkgOf (coreOfEp e) = p → u.ep e = Endpoint.empty) ∧ (∀ c, c / 128 = p → u.cluster c = Cluster.atReset) ∧
      (∀ e, e / 8 = p → u.die e = Die.atReset) ∧ (∀ b, b / 4 = p → u.base b = Base.atReset) ∧
      (∀ a, p * 2 ^ 42 + 2 ^ 41 ≤ a → a < (p + 1) * 2 ^ 42 → u.mem.get a = 0) ∧
      (s.Inv → s.dirty = [] → x.inPod = false ∨ s.podFormed = false → ∀ a, pkgOfLoc a = p → kindOf a = .hbm → u.mem.get a = s.mem.get a)) ∧
    ((x.thermtrip = false → ∀ v, exec (.pkgevtClear p v) s = .next s) ∧
     (x.thermtrip = true → exec (.pkgevtClear p 0) s = .next s ∧ exec (.pkgevtClear p 1) s = exec (.packageReset p) s)) ∧
    ((x.thermtrip = false → exec (.hbmRefreshPowerLoss p) s = .next s) ∧
     (x.thermtrip = true → ∃ u : State, exec (.hbmRefreshPowerLoss p) s = .next u ∧
       ∀ a, p * 2 ^ 42 ≤ a → a < p * 2 ^ 42 + 768 * 2 ^ 30 → u.mem.get a = 0 ∧ natMem u.poison (a / 8) = false ∧
         Map.find? u.seals (a / 64) = none))

/-- Errors, links, heat and fenced dies (R22, R23, R212, R328, R330, R331, R368 to R377, R380 to R383): throttling and the
thermal trip; replays and retrains of links; corrected and uncorrectable errors by their place; the scrubber; what the
fence of a compute die or a base die takes with it, whom it stops and what it reports; an unreachable package. -/
def Obligations.Recovery : Prop :=
  ∀ (s : State) (p : Nat),
    let x := s.pkg p
    let report := fun (u : State) (ds : List Word) => ∃ r : Rec, (u.pkg p).outbox = x.outbox ++ [r] ∧ r.dest = .monitor ∧
      r.words.headD 0 = BitVec.ofNat 64 (4 * 2 ^ 8 + 2 ^ 32) ∧ r.words.drop 4 = ds
    (∀ cl temp,
      (∀ i ∈ [Instr.thermalThrottle cl temp, .thermalUnthrottle cl temp],
        (110 ≤ temp → exec i s = exec (.thermalTrip cl temp) s) ∧
        (95 < temp → temp < 110 → exec i s = .next (s.modCluster cl fun z => { z with temp := temp, throttled := true })) ∧
        (90 < temp → temp ≤ 95 → exec i s = .next (s.modCluster cl fun z => { z with temp := temp })) ∧
        (temp ≤ 90 → exec i s = .next (s.modCluster cl fun z => { z with temp := temp, throttled := false }))) ∧
      (temp < 110 → exec (.thermalTrip cl temp) s = .next s) ∧
      (110 ≤ temp → cl / 128 = p → ∃ u : State, exec (.thermalTrip cl temp) s = .next u ∧ (u.pkg p).thermtrip = true ∧
        (u.pkg p).bringup = 0 ∧ (u.pkg p).entries = [] ∧ (u.cluster cl).temp = temp ∧
        (∀ n, n < 2 → ((u.pkg p).port n).interrupts = (x.port n).interrupts ++ [0]) ∧
        (∀ k, pkgOf (coreOf k) = p → u.proc k = Proc.empty) ∧ (∀ c, pkgOf c = p → u.core c = Core.atReset) ∧
        ∀ a, p * 2 ^ 42 + 2 ^ 41 ≤ a → a < (p + 1) * 2 ^ 42 → u.mem.get a = 0)) ∧
    (∀ link (bad : Bool) us,
      let lately := fun (span : Nat) => (x.linkReplays.get link []).filter fun t => decide (x.time < t + span)
      let replay := fun (i : Instr) (span : Nat) =>
        (3 ≤ (lately span).length → exec i s = exec (.linkRetrain p link) s) ∧
        ((lately span).length < 3 → exec i s =
          .next (s.modPkg p fun x => { x with linkReplays := x.linkReplays.put link (lately span ++ [x.time]) }))
      let id : Word := BitVec.ofNat 64 (if link < 24 then link + 2 ^ 16 else (link - 24) / 2)
      let event := fun (u : State) (what us : Nat) => report u [3, id, BitVec.ofNat 64 what, BitVec.ofNat 64 us]
      let done := fun (ok : Bool) => exec (.retrainComplete p link ok us) s
      (link < 24 → exec (.linkCrcFail p link) s = .next s) ∧ (24 ≤ link → replay (.linkCrcFail p link) 1024) ∧
      (24 ≤ link ∨ bad = false → exec (.delanFrame p link bad) s = .next s) ∧
      (link < 24 → replay (.delanFrame p link true) 250000) ∧
      (x.links.get link 0 ≠ 0 → exec (.linkRetrain p link) s = .next s) ∧
      (x.links.get link 0 = 0 → ∃ u : State, exec (.linkRetrain p link) s = .next u ∧ (u.pkg p).links.get link 0 = 1 ∧
        event u 0 0 ∧ u.msgs = s.msgs ∧ u.cur = s.cur ∧ u.mem = s.mem) ∧
      (x.links.get link 0 ≠ 1 → done bad = .next s) ∧
      (x.links.get link 0 = 1 → x.links.Pairwise (fun a b => a.1 < b.1) → ∃ u : State, done true = .next u ∧
        (u.pkg p).links.get link 0 = 0 ∧ event u 1 us ∧ u.msgs = s.msgs ∧ u.cur = s.cur ∧ u.mem = s.mem) ∧
      (x.links.get link 0 = 1 → x.linkFails.get link 0 < 2 → ∃ u : State, done false = .next u ∧
        (u.pkg p).links.get link 0 = 1 ∧ (u.pkg p).linkFails.get link 0 = x.linkFails.get link 0 + 1 ∧ event u 0 us ∧
        u.msgs = s.msgs ∧ u.cur = s.cur ∧ u.mem = s.mem) ∧
      (x.links.get link 0 = 1 → 2 ≤ x.linkFails.get link 0 → ∃ u : State, done false = .next u ∧
        (u.pkg p).links.get link 0 = 2 ∧
        (∃ r ∈ (u.pkg p).outbox, r.words.drop 4 = [3, id, 2, BitVec.ofNat 64 us]) ∧
        ∀ e, e < 8 → (∀ l ∈ linksOfDie e, (u.pkg p).links.get l 0 = 2) → (u.die (p * 8 + e)).fenced ≠ none)) ∧
    (∀ unit (loc : Word) at_,
      let n := min (2 ^ 64 - 1) (x.corrected.get unit 0 + 1)
      ∃ u : State, exec (.correctedError p unit loc) s = .next u ∧ (u.pkg p).corrected.get unit 0 = n ∧ u.cur = s.cur ∧ u.mem = s.mem ∧
        (Map.find? x.lastCorrected unit = none → report u [1, loc, BitVec.ofNat 64 unit, BitVec.ofNat 64 n]) ∧
        (Map.find? x.lastCorrected unit = some at_ →
          (at_ + 25000000 ≤ x.time → report u [1, loc, BitVec.ofNat 64 unit, BitVec.ofNat 64 n]) ∧
          (x.time < at_ + 25000000 → (u.pkg p).outbox = x.outbox))) ∧
    (∀ unit loc,
      exec (.patrolScrub p unit loc .clean) s = .next s ∧
      exec (.patrolScrub p unit loc .corrected) s = exec (.correctedError p unit (addrOf loc)) s ∧
      ∃ u : State, exec (.patrolScrub p unit loc .uncorrectable) s = .next u ∧ u.mem = s.mem ∧ loc / 8 ∈ u.poison ∧
        report u [2, addrOf (loc / 8 * 8), BitVec.ofNat 64 unit, 0]) ∧
    (let err := fun (e : ErrPlace) => exec (.uncorrectableError p e) s
     (∀ loc,
       (s.barriers = [] → err (.memory loc) = .next { s with poison := natInsert s.poison (loc / 8) }) ∧
       ∃ u : State, err (.memory loc) = .next u ∧ loc / 8 ∈ u.poison ∧ u.mem = s.mem ∧
         ∀ b k, s.barriers = [(b, k)] → (b / 8 = loc / 8 ∨ b / 8 + 1 = loc / 8) → (s.proc k).state = .parked →
           (u.proc k).state = .stopped ∧ (u.proc k).cause = 8) ∧
     (∀ loc, (Map.find? s.dirty (loc / 64) = none → err (.cacheLine loc) = exec (.correctedError p 3 (addrOf loc)) s) ∧
       (Map.find? s.dirty (loc / 64) ≠ none → ∃ u : State, err (.cacheLine loc) = .next u ∧ loc / 8 ∈ u.poison)) ∧
     (∀ k o,
       let z := s.core (coreOf k)
       let lost := fun (i : ErrPlace) (base : Nat) => ∃ (u : State) (r : Rec), err i = .next u ∧ u.proc k = Proc.empty ∧
         r ∈ (u.core (coreOf k)).records ∧ r.dest = .domain (s.proc k).domain.toNat ∧
         r.words.drop 4 = [addrOf (locSpad (coreOf k) ((base + o) / 8 * 8)), 2, 0, 0] ∧
         r.words.headD 0 = BitVec.ofNat 64 (8 + (s.proc k).domain.toNat * 2 ^ 16 + 2 ^ 32)
       ((s.proc k).state = .free → err (.context k o) = .next s) ∧
       ((s.proc k).state ≠ .free → lost (.context k o) (z.recordOffset k)) ∧
       ((s.proc k).vext = none → err (.extension k o) = .next s) ∧
       ∀ v, (s.proc k).vext = some v → (s.proc k).state ≠ .free → lost (.extension k o) (z.extOffset v.slot)) ∧
     (∀ e (counts : Bool), ((s.ep e).state = 0 → err (.endpoint e counts) = .next s) ∧
       ((s.ep e).state ≠ 0 → ∃ u : State, err (.endpoint e true) = .next u ∧ (u.ep e).state = 3) ∧
       ((s.ep e).state ≠ 0 → err (.endpoint e false) = .next (s.freeEp e 4))) ∧
     (∀ n, ∃ u : State, err (.stepEntry n) = .next u ∧ u.cur = s.cur ∧ u.mem = s.mem ∧ ∀ m, (u.pkg p).entries[m]? =
       if m = n then (x.entries[m]?).map fun e => { e with poisoned := true } else x.entries[m]?) ∧
     (∀ cl i entry, ∃ u : State, err (.almanac cl i entry) = .next u ∧ u.mem = s.mem ∧
       (∀ t : Tape, Map.find? (s.cluster cl).tapes i = some t → t.state = 2 → (s.cluster cl).tapes.Pairwise (fun a b => a.1 < b.1) →
         ∀ v, Map.find? (u.cluster cl).tapes i = some v → v.state = 3) ∧
       ∀ c k, c / 16 = cl → coreOf k = c → (s.core c).replay.state = .stream → (s.core c).replay.index = i →
         (s.core c).replay.pos = entry → (s.core c).replay.owner = k → (s.core c).replay.waiting = [] →
         (u.core c).replay.state = .idle ∧ (u.proc k).state = .stopped ∧ (u.proc k).cause = 0x14) ∧
     (∀ die, (die < 8 → err (.dieState die) = exec (.dieFence p die 1) s) ∧ (8 ≤ die → err (.dieState die) = .next s))) ∧
    (∀ die reason,
      let e := p * 8 + die
      let fence := exec (.dieFence p die reason) s
      let on := fun (c : Nat) => c / 256 = e
      let cause := reason = 1 ∨ reason = 3 ∨ (reason = 2 ∧ ∀ l ∈ linksOfDie die, x.links.get l 0 = 2) ∨
        (reason = 4 ∧ (s.base (p * 4 + die / 2)).fenced ≠ none)
      (8 ≤ die ∨ ¬cause ∨ (s.die e).fenced ≠ none → fence = .next s) ∧
      (die < 8 → cause → (s.die e).fenced = none → ∃ u : State, fence = .next u ∧
        (u.die e).fenced = some reason ∧ (∀ k, on (coreOf k) → (u.proc k).state = .free) ∧
        (∀ c, on c → (u.core c).tileQ = [] ∧ (u.core c).copyQ = [] ∧ (u.core c).replay.state = .idle) ∧
        (∀ o, o < 2 ^ 26 → u.mem.get (locCommon p die o) = 0) ∧ (∀ c o, on c → o < 393216 → u.mem.get (locSpad c o) = 0) ∧
        (∀ f h, on (coreOfEp h) → ¬on (coreOfEp f) → (s.ep h).state ≠ 0 → 2 ≤ (s.ep f).state → (s.ep f).peer ≠ 0 →
          epOfHandle (s.ep f).peer = h → (u.ep h).state = 0 ∧ (u.ep f).linkReason = some 2) ∧
        (∀ k ∈ s.live, ¬on (coreOf k) → (s.proc k).state = .parked → (s.proc k).chv = false →
          (∀ f ∈ s.eps, f.2.waiter ≠ some k ∧ k ∉ f.2.queue) →
          (∀ c ∈ s.cores, ∀ q ∈ c.2.tileQ ++ c.2.copyQ, q.owner ≠ k) →
          (∃ c o n, (s.proc k).wait = .line n ∧ on c ∧ o < 393216 ∧ locSpad c o = 64 * n) ∨
            (∃ o, (s.proc k).wait = .barrier (locCommon p die o) ∧ o < 2 ^ 26) →
          (u.proc k).state = .stopped ∧ (u.proc k).cause = 0x19) ∧
        (∀ k ∈ s.live, on (coreOf k) → ∃ r ∈ (u.pkg p).outbox, r.dest = .domain (s.proc k).domain.toNat ∧
          r.words.headD 0 = BitVec.ofNat 64 (0x19 + 3 * 2 ^ 8 + (s.proc k).domain.toNat * 2 ^ 16 + 2 ^ 32) ∧
          op r.words 4 = BitVec.ofNat 64 die ∧ op r.words 6 = BitVec.ofNat 64 reason) ∧
        (∀ (l : Launch) (c : SentChunk), s.pkgs.Pairwise (fun a b => a.1 < b.1) → x.launches = [l] → l.stage = 0 → l.sent = [c] → on c.core →
          ∃ a, (u.pkg p).launches = [a] ∧ a.id = l.id ∧ a.sent = [] ∧ a.again = (c.first, c.size) :: l.again ∧
            (∀ z, x.toSend = some (l.id, c.first, z, c.core) → a.reissued = l.reissued) ∧
            ((∀ z, x.toSend ≠ some (l.id, c.first, z, c.core)) → a.reissued = l.reissued + 1)))) ∧
    (∀ b reason,
      let fence := exec (.baseDieFence p b reason) s
      let cause := reason = 1 ∨ reason = 3 ∨ reason = 5
      (4 ≤ b ∨ ¬cause ∨ (s.base (p * 4 + b)).fenced ≠ none → fence = .next s) ∧
      (b < 4 → cause → (s.base (p * 4 + b)).fenced = none → ∃ u : State, fence = .next u ∧
        (u.base (p * 4 + b)).fenced = some reason ∧
        (∀ e, e / 2 = p * 4 + b → (s.die e).fenced = none → (u.die e).fenced = some 4) ∧
        (b = 0 → (u.pkg p).port0.linkup = false) ∧ (b = 2 → (u.pkg p).port1.linkup = false) ∧
        (x.master = b → x.failover = none → (u.pkg p).failover = some x.time) ∧
        (x.member = true → (u.pkg p).withdrawn = true))) ∧
    (let leaves := x.inPod = true ∧ s.podFormed = true ∧ x.root ≠ p
     (¬leaves → exec (.packageUnreachable p) s = .next s) ∧
     (leaves → x.withdrawn = false → ∃ u : State, exec (.packageUnreachable p) s = .next u ∧ (u.pkg p).withdrawn = true ∧
       (u.pkg p).phase = 3))
end

