-- ==== Sys2Proof/Laws/Memory.lean ====
section
/-! SUPPORT. Sys2Proof/Laws/Memory.lean: the canonical form of memory is kept by every operation on it, a byte written
is read back, and every other byte is left alone. -/

namespace Sys2Proof.Laws

open Sys2Proof.Machine

/-- A memory that starts later also starts earlier. -/
theorem wfFrom_mono (m : Mem) {lo hi : Nat} (h : lo ≤ hi) (w : m.wfFrom hi = true) : m.wfFrom lo = true := by
  cases m with
  | nil => rfl
  | cons e r =>
    obtain ⟨a, v⟩ := e
    simp only [Mem.wfFrom, Bool.and_eq_true, decide_eq_true_eq, BitVec.ofNat_eq_ofNat] at w ⊢
    exact ⟨⟨by omega, w.1.2⟩, w.2⟩

/-- Below its first location a memory reads as an unlisted byte. -/
theorem get_below (m : Mem) {lo a : Nat} (w : m.wfFrom lo = true) (h : a < lo) : m.get a = 0 := by
  cases m with
  | nil => rfl
  | cons e r =>
    obtain ⟨b, v⟩ := e
    simp only [Mem.wfFrom, Bool.and_eq_true, decide_eq_true_eq, BitVec.ofNat_eq_ofNat] at w
    have : a < b := by omega
    simp [Mem.get, this]

/-- Setting a byte keeps the canonical form. -/
theorem wfFrom_set (m : Mem) : ∀ {lo a : Nat} (v : Byte), m.wfFrom lo = true → lo ≤ a → (m.set a v).wfFrom lo = true := by
  induction m with
  | nil =>
    intro lo a v _ h
    by_cases hv : v = 0#8 <;> simp [Mem.set, hv, Mem.wfFrom, h]
  | cons e r ih =>
    intro lo a v w h
    obtain ⟨b, x⟩ := e
    simp only [Mem.wfFrom, Bool.and_eq_true, decide_eq_true_eq, BitVec.ofNat_eq_ofNat] at w
    obtain ⟨⟨w1, w2⟩, w3⟩ := w
    unfold Mem.set
    by_cases h1 : a < b
    · by_cases hv : v = 0#8
      · simp [h1, hv, Mem.wfFrom, w1, w2, w3]
      · simp only [BitVec.ofNat_eq_ofNat, h1, hv, if_true, if_false, Mem.wfFrom, Bool.and_eq_true, decide_eq_true_eq]
        exact ⟨⟨h, hv⟩, ⟨by omega, w2⟩, w3⟩
    · by_cases h2 : b = a
      · subst h2
        by_cases hv : v = 0#8
        · simp only [BitVec.ofNat_eq_ofNat, h1, hv, if_true, if_false]
          exact wfFrom_mono r (by omega) w3
        · simp only [BitVec.ofNat_eq_ofNat, h1, hv, if_true, if_false, Mem.wfFrom, Bool.and_eq_true, decide_eq_true_eq]
          exact ⟨⟨h, hv⟩, w3⟩
      · simp only [h1, h2, if_false, Mem.wfFrom, Bool.and_eq_true, decide_eq_true_eq, BitVec.ofNat_eq_ofNat]
        exact ⟨⟨w1, w2⟩, ih v w3 (by omega)⟩

/-- Setting a byte keeps the canonical form. -/
theorem wf_set (m : Mem) (a : Nat) (v : Byte) (w : m.wf = true) : (m.set a v).wf = true :=
  wfFrom_set m v w (Nat.zero_le a)

/-- Writing bytes keeps the canonical form. -/
theorem wf_write (bs : List Byte) : ∀ (m : Mem) (a : Nat), m.wf = true → (m.write a bs).wf = true := by
  induction bs with
  | nil => intro m a w; exact w
  | cons b r ih => intro m a w; exact ih _ _ (wf_set m a b w)

/-- Leaving entries out keeps the canonical form. -/
theorem wfFrom_filter (p : Host.Cell → Bool) (m : Mem) : ∀ {lo : Nat}, m.wfFrom lo = true → Mem.wfFrom (m.filter p) lo = true := by
  induction m with
  | nil => intro lo _; rfl
  | cons e r ih =>
    intro lo w
    obtain ⟨b, x⟩ := e
    simp only [Mem.wfFrom, Bool.and_eq_true, decide_eq_true_eq, BitVec.ofNat_eq_ofNat] at w
    obtain ⟨⟨w1, w2⟩, w3⟩ := w
    by_cases h : p (b, x) = true
    · rw [List.filter_cons_of_pos h]
      simp only [Mem.wfFrom, Bool.and_eq_true, decide_eq_true_eq]
      exact ⟨⟨w1, w2⟩, ih w3⟩
    · rw [List.filter_cons_of_neg h]
      exact wfFrom_mono _ (by omega) (ih w3)

/-- Clearing a range keeps the canonical form. -/
theorem wf_clear (m : Mem) (lo hi : Nat) (w : m.wf = true) : (m.clear lo hi).wf = true := wfFrom_filter _ m w

/-- Leaving entries out keeps the canonical form. -/
theorem wf_filter (p : Host.Cell → Bool) (m : Mem) (w : m.wf = true) : Mem.wf (m.filter p) = true := wfFrom_filter p m w

/-- A byte set is read back. -/
theorem get_set_same (m : Mem) : ∀ {lo a : Nat} (v : Byte), m.wfFrom lo = true → (m.set a v).get a = v := by
  induction m with
  | nil =>
    intro lo a v _
    by_cases hv : v = 0#8 <;> simp [Mem.set, hv, Mem.get]
  | cons e r ih =>
    intro lo a v w
    obtain ⟨b, x⟩ := e
    simp only [Mem.wfFrom, Bool.and_eq_true, decide_eq_true_eq, BitVec.ofNat_eq_ofNat] at w
    obtain ⟨⟨w1, w2⟩, w3⟩ := w
    unfold Mem.set
    by_cases h1 : a < b
    · by_cases hv : v = 0#8 <;> simp [h1, hv, Mem.get]
    · by_cases h2 : b = a
      · subst h2
        by_cases hv : v = 0#8
        · simp only [BitVec.ofNat_eq_ofNat, h1, hv, if_true, if_false]
          exact get_below r w3 (by omega)
        · simp [hv, Mem.get]
      · simp only [h1, h2, if_false, Mem.get]
        exact ih v w3

/-- Every other byte is left alone. -/
theorem get_set_other (m : Mem) : ∀ {lo a c : Nat} (v : Byte), m.wfFrom lo = true → c ≠ a → (m.set a v).get c = m.get c := by
  induction m with
  | nil =>
    intro lo a c v _ h
    by_cases hv : v = 0#8
    · simp [Mem.set, hv]
    · simp [Mem.set, hv, Mem.get, Ne.symm h]
  | cons e r ih =>
    intro lo a c v w h
    obtain ⟨b, x⟩ := e
    simp only [Mem.wfFrom, Bool.and_eq_true, decide_eq_true_eq, BitVec.ofNat_eq_ofNat] at w
    obtain ⟨⟨w1, w2⟩, w3⟩ := w
    unfold Mem.set
    by_cases h1 : a < b
    · by_cases hv : v = 0#8
      · simp [h1, hv]
      · simp only [BitVec.ofNat_eq_ofNat, h1, hv, if_true, if_false, Mem.get, Ne.symm h]
        by_cases hc : c < a
        · simp [hc, Nat.lt_trans hc h1]
        · simp [hc]
    · by_cases h2 : b = a
      · subst h2
        by_cases hv : v = 0#8
        · simp only [BitVec.ofNat_eq_ofNat, h1, hv, if_true, if_false, Mem.get, Ne.symm h]
          by_cases hc : c < b
          · simp only [hc, if_true]; exact get_below r w3 (by omega)
          · simp [hc]
        · simp [hv, Mem.get, Ne.symm h]
      · simp only [h1, h2, if_false, Mem.get]
        split
        · rfl
        · split
          · rfl
          · exact ih v w3 h

/-- Bytes outside a written range are left alone. -/
theorem get_write_outside (bs : List Byte) : ∀ (m : Mem) (a c : Nat), m.wf = true → (c < a ∨ a + bs.length ≤ c) →
    (m.write a bs).get c = m.get c := by
  induction bs with
  | nil => intro m a c _ _; rfl
  | cons b r ih =>
    intro m a c w h
    simp only [List.length_cons] at h
    rw [Mem.write, ih _ _ _ (wf_set m a b w) (by omega), get_set_other m b w (by omega)]

/-- Bytes inside a written range are those written. -/
theorem get_write_inside (bs : List Byte) : ∀ (m : Mem) (a i : Nat), m.wf = true → i < bs.length →
    (m.write a bs).get (a + i) = bs.getD i 0 := by
  induction bs with
  | nil => intro m a i _ h; simp at h
  | cons b r ih =>
    intro m a i w h
    rw [Mem.write]
    cases i with
    | zero =>
      rw [get_write_outside r _ _ _ (wf_set m a b w) (by omega), Nat.add_zero, get_set_same m b w]
      rfl
    | succ j =>
      have := ih (m.set a b) (a + 1) j (wf_set m a b w) (by simpa using h)
      rw [show a + (j + 1) = a + 1 + j by omega, this]
      rfl

/-- `n` bytes are read in order. -/
theorem read_eq_map (n : Nat) : ∀ (m : Mem) (a : Nat), m.read a n = (fromTo a n).map m.get := by
  induction n with
  | zero => intro m a; rfl
  | succ n ih => intro m a; simp [Mem.read, fromTo, ih]

/-- Bytes written are read back. -/
theorem read_write_same (bs : List Byte) : ∀ (m : Mem) (a : Nat), m.wf = true → (m.write a bs).read a bs.length = bs := by
  induction bs with
  | nil => intro m a _; rfl
  | cons b r ih =>
    intro m a w
    simp only [List.length_cons, Mem.read, Mem.write]
    rw [ih _ _ (wf_set m a b w), get_write_outside r _ _ _ (wf_set m a b w) (by omega), get_set_same m b w]

/-- The little-endian bytes of a value stand for it (R2). -/
theorem leVal_leBytes (n : Nat) : ∀ v, leVal (leBytes v n) = v % 256 ^ n := by
  induction n with
  | zero => intro v; simp [leBytes, leVal, Nat.mod_one]
  | succ n ih =>
    intro v
    rw [leBytes, leVal, ih, BitVec.toNat_ofNat, Nat.pow_succ' (m := 256), Nat.mod_mul]

@[simp] theorem length_leBytes (n : Nat) : ∀ v, (leBytes v n).length = n := by
  induction n with
  | zero => intro v; rfl
  | succ n ih => intro v; simp [leBytes, ih]

@[simp] theorem length_read (n : Nat) : ∀ (m : Mem) (a : Nat), (m.read a n).length = n := by
  induction n with
  | zero => intro m a; rfl
  | succ n ih => intro m a; simp [Mem.read, ih]

/-- Memory right after reset is in canonical form. -/
theorem wf_reset : Mem.wf State.reset.mem = true := rfl

end Sys2Proof.Laws
end

