-- ==== Sys2Proof/Laws/Map.lean ====
section
/-! SUPPORT. Sys2Proof/Laws/Map.lean: the laws of finite maps: what was put is read back, other keys are left alone,
keys stay rising. -/

namespace Sys2Proof.Laws

open Sys2Proof.Machine

/-- The key just put is read back. -/
theorem get_put_same {α : Type} (m : Map α) (k : Nat) (v d : α) : (m.put k v).get k d = v := by
  induction m with
  | nil => simp [Map.put, Map.get]
  | cons e r ih =>
    obtain ⟨j, w⟩ := e
    by_cases h1 : k < j
    · simp [Map.put, Map.get, h1]
    · by_cases h2 : j = k
      · simp [Map.put, Map.get, h2]
      · simp [Map.put, Map.get, h1, h2, ih]

/-- Another key is left alone. -/
theorem get_put_other {α : Type} (m : Map α) (k j : Nat) (v d : α) (h : j ≠ k) : (m.put k v).get j d = m.get j d := by
  induction m with
  | nil => simp [Map.put, Map.get, Ne.symm h]
  | cons e r ih =>
    obtain ⟨i, w⟩ := e
    by_cases h1 : k < i
    · simp [Map.put, Map.get, h1, Ne.symm h]
    · by_cases h2 : i = k
      · subst h2; simp [Map.put, Map.get, Ne.symm h]
      · simp only [Map.put, h1, h2, if_false, Map.get]
        split
        · rfl
        · exact ih

/-- The key just put is found. -/
theorem find_put_same {α : Type} (m : Map α) (k : Nat) (v : α) : (m.put k v).find? k = some v := by
  induction m with
  | nil => simp [Map.put, Map.find?]
  | cons e r ih =>
    obtain ⟨j, w⟩ := e
    by_cases h1 : k < j
    · simp [Map.put, Map.find?, h1]
    · by_cases h2 : j = k
      · simp [Map.put, Map.find?, h2]
      · simp [Map.put, Map.find?, h1, h2, ih]

/-- Another key is found as before. -/
theorem find_put_other {α : Type} (m : Map α) (k j : Nat) (v : α) (h : j ≠ k) : (m.put k v).find? j = m.find? j := by
  induction m with
  | nil => simp [Map.put, Map.find?, Ne.symm h]
  | cons e r ih =>
    obtain ⟨i, w⟩ := e
    by_cases h1 : k < i
    · simp [Map.put, Map.find?, h1, Ne.symm h]
    · by_cases h2 : i = k
      · subst h2; simp [Map.put, Map.find?, Ne.symm h]
      · simp only [Map.put, h1, h2, if_false, Map.find?]
        split
        · rfl
        · exact ih

/-- `get` is `find?` with a default. -/
theorem get_eq_find {α : Type} (m : Map α) (k : Nat) (d : α) : m.get k d = (m.find? k).getD d := by
  induction m with
  | nil => rfl
  | cons e r ih =>
    obtain ⟨j, w⟩ := e
    by_cases h : j = k
    · simp [Map.get, Map.find?, h]
    · simp [Map.get, Map.find?, h, ih]

end Sys2Proof.Laws
end

