-- ==== Sys2Proof/Laws/State.lean ====
section
/-! SUPPORT. Sys2Proof/Laws/State.lean: what each update of the state leaves alone, one lemma per field, and what it
writes. -/

namespace Sys2Proof.Laws

open Sys2Proof.Machine


/-! ## setCore -/

@[simp] theorem setCore_self (s : State) (c : CoreId) (x : Core) : (s.setCore c x).self = s.self := rfl
@[simp] theorem setCore_cur (s : State) (c : CoreId) (x : Core) : (s.setCore c x).cur = s.cur := rfl
@[simp] theorem setCore_procs (s : State) (c : CoreId) (x : Core) : (s.setCore c x).procs = s.procs := rfl
@[simp] theorem setCore_late (s : State) (c : CoreId) (x : Core) : (s.setCore c x).late = s.late := rfl
@[simp] theorem setCore_eps (s : State) (c : CoreId) (x : Core) : (s.setCore c x).eps = s.eps := rfl
@[simp] theorem setCore_clusters (s : State) (c : CoreId) (x : Core) : (s.setCore c x).clusters = s.clusters := rfl
@[simp] theorem setCore_dies (s : State) (c : CoreId) (x : Core) : (s.setCore c x).dies = s.dies := rfl
@[simp] theorem setCore_bases (s : State) (c : CoreId) (x : Core) : (s.setCore c x).bases = s.bases := rfl
@[simp] theorem setCore_pkgs (s : State) (c : CoreId) (x : Core) : (s.setCore c x).pkgs = s.pkgs := rfl
@[simp] theorem setCore_mem (s : State) (c : CoreId) (x : Core) : (s.setCore c x).mem = s.mem := rfl
@[simp] theorem setCore_poison (s : State) (c : CoreId) (x : Core) : (s.setCore c x).poison = s.poison := rfl
@[simp] theorem setCore_dirty (s : State) (c : CoreId) (x : Core) : (s.setCore c x).dirty = s.dirty := rfl
@[simp] theorem setCore_seals (s : State) (c : CoreId) (x : Core) : (s.setCore c x).seals = s.seals := rfl
@[simp] theorem setCore_ordadds (s : State) (c : CoreId) (x : Core) : (s.setCore c x).ordadds = s.ordadds := rfl
@[simp] theorem setCore_armed (s : State) (c : CoreId) (x : Core) : (s.setCore c x).armed = s.armed := rfl
@[simp] theorem setCore_barriers (s : State) (c : CoreId) (x : Core) : (s.setCore c x).barriers = s.barriers := rfl
@[simp] theorem setCore_msgs (s : State) (c : CoreId) (x : Core) : (s.setCore c x).msgs = s.msgs := rfl
@[simp] theorem setCore_podFormed (s : State) (c : CoreId) (x : Core) : (s.setCore c x).podFormed = s.podFormed := rfl
@[simp] theorem setCore_agenda (s : State) (c : CoreId) (x : Core) : (s.setCore c x).agenda = s.agenda := rfl
@[simp] theorem setCore_draws (s : State) (c : CoreId) (x : Core) : (s.setCore c x).draws = s.draws := rfl

/-! ## modCore -/

@[simp] theorem modCore_self (s : State) (c : CoreId) (f : Core → Core) : (s.modCore c f).self = s.self := rfl
@[simp] theorem modCore_cur (s : State) (c : CoreId) (f : Core → Core) : (s.modCore c f).cur = s.cur := rfl
@[simp] theorem modCore_procs (s : State) (c : CoreId) (f : Core → Core) : (s.modCore c f).procs = s.procs := rfl
@[simp] theorem modCore_late (s : State) (c : CoreId) (f : Core → Core) : (s.modCore c f).late = s.late := rfl
@[simp] theorem modCore_eps (s : State) (c : CoreId) (f : Core → Core) : (s.modCore c f).eps = s.eps := rfl
@[simp] theorem modCore_clusters (s : State) (c : CoreId) (f : Core → Core) : (s.modCore c f).clusters = s.clusters := rfl
@[simp] theorem modCore_dies (s : State) (c : CoreId) (f : Core → Core) : (s.modCore c f).dies = s.dies := rfl
@[simp] theorem modCore_bases (s : State) (c : CoreId) (f : Core → Core) : (s.modCore c f).bases = s.bases := rfl
@[simp] theorem modCore_pkgs (s : State) (c : CoreId) (f : Core → Core) : (s.modCore c f).pkgs = s.pkgs := rfl
@[simp] theorem modCore_mem (s : State) (c : CoreId) (f : Core → Core) : (s.modCore c f).mem = s.mem := rfl
@[simp] theorem modCore_poison (s : State) (c : CoreId) (f : Core → Core) : (s.modCore c f).poison = s.poison := rfl
@[simp] theorem modCore_dirty (s : State) (c : CoreId) (f : Core → Core) : (s.modCore c f).dirty = s.dirty := rfl
@[simp] theorem modCore_seals (s : State) (c : CoreId) (f : Core → Core) : (s.modCore c f).seals = s.seals := rfl
@[simp] theorem modCore_ordadds (s : State) (c : CoreId) (f : Core → Core) : (s.modCore c f).ordadds = s.ordadds := rfl
@[simp] theorem modCore_armed (s : State) (c : CoreId) (f : Core → Core) : (s.modCore c f).armed = s.armed := rfl
@[simp] theorem modCore_barriers (s : State) (c : CoreId) (f : Core → Core) : (s.modCore c f).barriers = s.barriers := rfl
@[simp] theorem modCore_msgs (s : State) (c : CoreId) (f : Core → Core) : (s.modCore c f).msgs = s.msgs := rfl
@[simp] theorem modCore_podFormed (s : State) (c : CoreId) (f : Core → Core) : (s.modCore c f).podFormed = s.podFormed := rfl
@[simp] theorem modCore_agenda (s : State) (c : CoreId) (f : Core → Core) : (s.modCore c f).agenda = s.agenda := rfl
@[simp] theorem modCore_draws (s : State) (c : CoreId) (f : Core → Core) : (s.modCore c f).draws = s.draws := rfl

/-! ## setEp -/

@[simp] theorem setEp_self (s : State) (e : EpId) (x : Endpoint) : (s.setEp e x).self = s.self := rfl
@[simp] theorem setEp_cur (s : State) (e : EpId) (x : Endpoint) : (s.setEp e x).cur = s.cur := rfl
@[simp] theorem setEp_procs (s : State) (e : EpId) (x : Endpoint) : (s.setEp e x).procs = s.procs := rfl
@[simp] theorem setEp_late (s : State) (e : EpId) (x : Endpoint) : (s.setEp e x).late = s.late := rfl
@[simp] theorem setEp_cores (s : State) (e : EpId) (x : Endpoint) : (s.setEp e x).cores = s.cores := rfl
@[simp] theorem setEp_clusters (s : State) (e : EpId) (x : Endpoint) : (s.setEp e x).clusters = s.clusters := rfl
@[simp] theorem setEp_dies (s : State) (e : EpId) (x : Endpoint) : (s.setEp e x).dies = s.dies := rfl
@[simp] theorem setEp_bases (s : State) (e : EpId) (x : Endpoint) : (s.setEp e x).bases = s.bases := rfl
@[simp] theorem setEp_pkgs (s : State) (e : EpId) (x : Endpoint) : (s.setEp e x).pkgs = s.pkgs := rfl
@[simp] theorem setEp_mem (s : State) (e : EpId) (x : Endpoint) : (s.setEp e x).mem = s.mem := rfl
@[simp] theorem setEp_poison (s : State) (e : EpId) (x : Endpoint) : (s.setEp e x).poison = s.poison := rfl
@[simp] theorem setEp_dirty (s : State) (e : EpId) (x : Endpoint) : (s.setEp e x).dirty = s.dirty := rfl
@[simp] theorem setEp_seals (s : State) (e : EpId) (x : Endpoint) : (s.setEp e x).seals = s.seals := rfl
@[simp] theorem setEp_ordadds (s : State) (e : EpId) (x : Endpoint) : (s.setEp e x).ordadds = s.ordadds := rfl
@[simp] theorem setEp_armed (s : State) (e : EpId) (x : Endpoint) : (s.setEp e x).armed = s.armed := rfl
@[simp] theorem setEp_barriers (s : State) (e : EpId) (x : Endpoint) : (s.setEp e x).barriers = s.barriers := rfl
@[simp] theorem setEp_msgs (s : State) (e : EpId) (x : Endpoint) : (s.setEp e x).msgs = s.msgs := rfl
@[simp] theorem setEp_podFormed (s : State) (e : EpId) (x : Endpoint) : (s.setEp e x).podFormed = s.podFormed := rfl
@[simp] theorem setEp_agenda (s : State) (e : EpId) (x : Endpoint) : (s.setEp e x).agenda = s.agenda := rfl
@[simp] theorem setEp_draws (s : State) (e : EpId) (x : Endpoint) : (s.setEp e x).draws = s.draws := rfl

/-! ## modEp -/

@[simp] theorem modEp_self (s : State) (e : EpId) (f : Endpoint → Endpoint) : (s.modEp e f).self = s.self := rfl
@[simp] theorem modEp_cur (s : State) (e : EpId) (f : Endpoint → Endpoint) : (s.modEp e f).cur = s.cur := rfl
@[simp] theorem modEp_procs (s : State) (e : EpId) (f : Endpoint → Endpoint) : (s.modEp e f).procs = s.procs := rfl
@[simp] theorem modEp_late (s : State) (e : EpId) (f : Endpoint → Endpoint) : (s.modEp e f).late = s.late := rfl
@[simp] theorem modEp_cores (s : State) (e : EpId) (f : Endpoint → Endpoint) : (s.modEp e f).cores = s.cores := rfl
@[simp] theorem modEp_clusters (s : State) (e : EpId) (f : Endpoint → Endpoint) : (s.modEp e f).clusters = s.clusters := rfl
@[simp] theorem modEp_dies (s : State) (e : EpId) (f : Endpoint → Endpoint) : (s.modEp e f).dies = s.dies := rfl
@[simp] theorem modEp_bases (s : State) (e : EpId) (f : Endpoint → Endpoint) : (s.modEp e f).bases = s.bases := rfl
@[simp] theorem modEp_pkgs (s : State) (e : EpId) (f : Endpoint → Endpoint) : (s.modEp e f).pkgs = s.pkgs := rfl
@[simp] theorem modEp_mem (s : State) (e : EpId) (f : Endpoint → Endpoint) : (s.modEp e f).mem = s.mem := rfl
@[simp] theorem modEp_poison (s : State) (e : EpId) (f : Endpoint → Endpoint) : (s.modEp e f).poison = s.poison := rfl
@[simp] theorem modEp_dirty (s : State) (e : EpId) (f : Endpoint → Endpoint) : (s.modEp e f).dirty = s.dirty := rfl
@[simp] theorem modEp_seals (s : State) (e : EpId) (f : Endpoint → Endpoint) : (s.modEp e f).seals = s.seals := rfl
@[simp] theorem modEp_ordadds (s : State) (e : EpId) (f : Endpoint → Endpoint) : (s.modEp e f).ordadds = s.ordadds := rfl
@[simp] theorem modEp_armed (s : State) (e : EpId) (f : Endpoint → Endpoint) : (s.modEp e f).armed = s.armed := rfl
@[simp] theorem modEp_barriers (s : State) (e : EpId) (f : Endpoint → Endpoint) : (s.modEp e f).barriers = s.barriers := rfl
@[simp] theorem modEp_msgs (s : State) (e : EpId) (f : Endpoint → Endpoint) : (s.modEp e f).msgs = s.msgs := rfl
@[simp] theorem modEp_podFormed (s : State) (e : EpId) (f : Endpoint → Endpoint) : (s.modEp e f).podFormed = s.podFormed := rfl
@[simp] theorem modEp_agenda (s : State) (e : EpId) (f : Endpoint → Endpoint) : (s.modEp e f).agenda = s.agenda := rfl
@[simp] theorem modEp_draws (s : State) (e : EpId) (f : Endpoint → Endpoint) : (s.modEp e f).draws = s.draws := rfl

/-! ## modCluster -/

@[simp] theorem modCluster_self (s : State) (c : Nat) (f : Cluster → Cluster) : (s.modCluster c f).self = s.self := rfl
@[simp] theorem modCluster_cur (s : State) (c : Nat) (f : Cluster → Cluster) : (s.modCluster c f).cur = s.cur := rfl
@[simp] theorem modCluster_procs (s : State) (c : Nat) (f : Cluster → Cluster) : (s.modCluster c f).procs = s.procs := rfl
@[simp] theorem modCluster_late (s : State) (c : Nat) (f : Cluster → Cluster) : (s.modCluster c f).late = s.late := rfl
@[simp] theorem modCluster_cores (s : State) (c : Nat) (f : Cluster → Cluster) : (s.modCluster c f).cores = s.cores := rfl
@[simp] theorem modCluster_eps (s : State) (c : Nat) (f : Cluster → Cluster) : (s.modCluster c f).eps = s.eps := rfl
@[simp] theorem modCluster_dies (s : State) (c : Nat) (f : Cluster → Cluster) : (s.modCluster c f).dies = s.dies := rfl
@[simp] theorem modCluster_bases (s : State) (c : Nat) (f : Cluster → Cluster) : (s.modCluster c f).bases = s.bases := rfl
@[simp] theorem modCluster_pkgs (s : State) (c : Nat) (f : Cluster → Cluster) : (s.modCluster c f).pkgs = s.pkgs := rfl
@[simp] theorem modCluster_mem (s : State) (c : Nat) (f : Cluster → Cluster) : (s.modCluster c f).mem = s.mem := rfl
@[simp] theorem modCluster_poison (s : State) (c : Nat) (f : Cluster → Cluster) : (s.modCluster c f).poison = s.poison := rfl
@[simp] theorem modCluster_dirty (s : State) (c : Nat) (f : Cluster → Cluster) : (s.modCluster c f).dirty = s.dirty := rfl
@[simp] theorem modCluster_seals (s : State) (c : Nat) (f : Cluster → Cluster) : (s.modCluster c f).seals = s.seals := rfl
@[simp] theorem modCluster_ordadds (s : State) (c : Nat) (f : Cluster → Cluster) : (s.modCluster c f).ordadds = s.ordadds := rfl
@[simp] theorem modCluster_armed (s : State) (c : Nat) (f : Cluster → Cluster) : (s.modCluster c f).armed = s.armed := rfl
@[simp] theorem modCluster_barriers (s : State) (c : Nat) (f : Cluster → Cluster) : (s.modCluster c f).barriers = s.barriers := rfl
@[simp] theorem modCluster_msgs (s : State) (c : Nat) (f : Cluster → Cluster) : (s.modCluster c f).msgs = s.msgs := rfl
@[simp] theorem modCluster_podFormed (s : State) (c : Nat) (f : Cluster → Cluster) : (s.modCluster c f).podFormed = s.podFormed := rfl
@[simp] theorem modCluster_agenda (s : State) (c : Nat) (f : Cluster → Cluster) : (s.modCluster c f).agenda = s.agenda := rfl
@[simp] theorem modCluster_draws (s : State) (c : Nat) (f : Cluster → Cluster) : (s.modCluster c f).draws = s.draws := rfl

/-! ## modDie -/

@[simp] theorem modDie_self (s : State) (e : Nat) (f : Die → Die) : (s.modDie e f).self = s.self := rfl
@[simp] theorem modDie_cur (s : State) (e : Nat) (f : Die → Die) : (s.modDie e f).cur = s.cur := rfl
@[simp] theorem modDie_procs (s : State) (e : Nat) (f : Die → Die) : (s.modDie e f).procs = s.procs := rfl
@[simp] theorem modDie_late (s : State) (e : Nat) (f : Die → Die) : (s.modDie e f).late = s.late := rfl
@[simp] theorem modDie_cores (s : State) (e : Nat) (f : Die → Die) : (s.modDie e f).cores = s.cores := rfl
@[simp] theorem modDie_eps (s : State) (e : Nat) (f : Die → Die) : (s.modDie e f).eps = s.eps := rfl
@[simp] theorem modDie_clusters (s : State) (e : Nat) (f : Die → Die) : (s.modDie e f).clusters = s.clusters := rfl
@[simp] theorem modDie_bases (s : State) (e : Nat) (f : Die → Die) : (s.modDie e f).bases = s.bases := rfl
@[simp] theorem modDie_pkgs (s : State) (e : Nat) (f : Die → Die) : (s.modDie e f).pkgs = s.pkgs := rfl
@[simp] theorem modDie_mem (s : State) (e : Nat) (f : Die → Die) : (s.modDie e f).mem = s.mem := rfl
@[simp] theorem modDie_poison (s : State) (e : Nat) (f : Die → Die) : (s.modDie e f).poison = s.poison := rfl
@[simp] theorem modDie_dirty (s : State) (e : Nat) (f : Die → Die) : (s.modDie e f).dirty = s.dirty := rfl
@[simp] theorem modDie_seals (s : State) (e : Nat) (f : Die → Die) : (s.modDie e f).seals = s.seals := rfl
@[simp] theorem modDie_ordadds (s : State) (e : Nat) (f : Die → Die) : (s.modDie e f).ordadds = s.ordadds := rfl
@[simp] theorem modDie_armed (s : State) (e : Nat) (f : Die → Die) : (s.modDie e f).armed = s.armed := rfl
@[simp] theorem modDie_barriers (s : State) (e : Nat) (f : Die → Die) : (s.modDie e f).barriers = s.barriers := rfl
@[simp] theorem modDie_msgs (s : State) (e : Nat) (f : Die → Die) : (s.modDie e f).msgs = s.msgs := rfl
@[simp] theorem modDie_podFormed (s : State) (e : Nat) (f : Die → Die) : (s.modDie e f).podFormed = s.podFormed := rfl
@[simp] theorem modDie_agenda (s : State) (e : Nat) (f : Die → Die) : (s.modDie e f).agenda = s.agenda := rfl
@[simp] theorem modDie_draws (s : State) (e : Nat) (f : Die → Die) : (s.modDie e f).draws = s.draws := rfl

/-! ## modBase -/

@[simp] theorem modBase_self (s : State) (b : Nat) (f : Base → Base) : (s.modBase b f).self = s.self := rfl
@[simp] theorem modBase_cur (s : State) (b : Nat) (f : Base → Base) : (s.modBase b f).cur = s.cur := rfl
@[simp] theorem modBase_procs (s : State) (b : Nat) (f : Base → Base) : (s.modBase b f).procs = s.procs := rfl
@[simp] theorem modBase_late (s : State) (b : Nat) (f : Base → Base) : (s.modBase b f).late = s.late := rfl
@[simp] theorem modBase_cores (s : State) (b : Nat) (f : Base → Base) : (s.modBase b f).cores = s.cores := rfl
@[simp] theorem modBase_eps (s : State) (b : Nat) (f : Base → Base) : (s.modBase b f).eps = s.eps := rfl
@[simp] theorem modBase_clusters (s : State) (b : Nat) (f : Base → Base) : (s.modBase b f).clusters = s.clusters := rfl
@[simp] theorem modBase_dies (s : State) (b : Nat) (f : Base → Base) : (s.modBase b f).dies = s.dies := rfl
@[simp] theorem modBase_pkgs (s : State) (b : Nat) (f : Base → Base) : (s.modBase b f).pkgs = s.pkgs := rfl
@[simp] theorem modBase_mem (s : State) (b : Nat) (f : Base → Base) : (s.modBase b f).mem = s.mem := rfl
@[simp] theorem modBase_poison (s : State) (b : Nat) (f : Base → Base) : (s.modBase b f).poison = s.poison := rfl
@[simp] theorem modBase_dirty (s : State) (b : Nat) (f : Base → Base) : (s.modBase b f).dirty = s.dirty := rfl
@[simp] theorem modBase_seals (s : State) (b : Nat) (f : Base → Base) : (s.modBase b f).seals = s.seals := rfl
@[simp] theorem modBase_ordadds (s : State) (b : Nat) (f : Base → Base) : (s.modBase b f).ordadds = s.ordadds := rfl
@[simp] theorem modBase_armed (s : State) (b : Nat) (f : Base → Base) : (s.modBase b f).armed = s.armed := rfl
@[simp] theorem modBase_barriers (s : State) (b : Nat) (f : Base → Base) : (s.modBase b f).barriers = s.barriers := rfl
@[simp] theorem modBase_msgs (s : State) (b : Nat) (f : Base → Base) : (s.modBase b f).msgs = s.msgs := rfl
@[simp] theorem modBase_podFormed (s : State) (b : Nat) (f : Base → Base) : (s.modBase b f).podFormed = s.podFormed := rfl
@[simp] theorem modBase_agenda (s : State) (b : Nat) (f : Base → Base) : (s.modBase b f).agenda = s.agenda := rfl
@[simp] theorem modBase_draws (s : State) (b : Nat) (f : Base → Base) : (s.modBase b f).draws = s.draws := rfl

/-! ## modPkg -/

@[simp] theorem modPkg_self (s : State) (p : Nat) (f : Package → Package) : (s.modPkg p f).self = s.self := rfl
@[simp] theorem modPkg_cur (s : State) (p : Nat) (f : Package → Package) : (s.modPkg p f).cur = s.cur := rfl
@[simp] theorem modPkg_procs (s : State) (p : Nat) (f : Package → Package) : (s.modPkg p f).procs = s.procs := rfl
@[simp] theorem modPkg_late (s : State) (p : Nat) (f : Package → Package) : (s.modPkg p f).late = s.late := rfl
@[simp] theorem modPkg_cores (s : State) (p : Nat) (f : Package → Package) : (s.modPkg p f).cores = s.cores := rfl
@[simp] theorem modPkg_eps (s : State) (p : Nat) (f : Package → Package) : (s.modPkg p f).eps = s.eps := rfl
@[simp] theorem modPkg_clusters (s : State) (p : Nat) (f : Package → Package) : (s.modPkg p f).clusters = s.clusters := rfl
@[simp] theorem modPkg_dies (s : State) (p : Nat) (f : Package → Package) : (s.modPkg p f).dies = s.dies := rfl
@[simp] theorem modPkg_bases (s : State) (p : Nat) (f : Package → Package) : (s.modPkg p f).bases = s.bases := rfl
@[simp] theorem modPkg_mem (s : State) (p : Nat) (f : Package → Package) : (s.modPkg p f).mem = s.mem := rfl
@[simp] theorem modPkg_poison (s : State) (p : Nat) (f : Package → Package) : (s.modPkg p f).poison = s.poison := rfl
@[simp] theorem modPkg_dirty (s : State) (p : Nat) (f : Package → Package) : (s.modPkg p f).dirty = s.dirty := rfl
@[simp] theorem modPkg_seals (s : State) (p : Nat) (f : Package → Package) : (s.modPkg p f).seals = s.seals := rfl
@[simp] theorem modPkg_ordadds (s : State) (p : Nat) (f : Package → Package) : (s.modPkg p f).ordadds = s.ordadds := rfl
@[simp] theorem modPkg_armed (s : State) (p : Nat) (f : Package → Package) : (s.modPkg p f).armed = s.armed := rfl
@[simp] theorem modPkg_barriers (s : State) (p : Nat) (f : Package → Package) : (s.modPkg p f).barriers = s.barriers := rfl
@[simp] theorem modPkg_msgs (s : State) (p : Nat) (f : Package → Package) : (s.modPkg p f).msgs = s.msgs := rfl
@[simp] theorem modPkg_podFormed (s : State) (p : Nat) (f : Package → Package) : (s.modPkg p f).podFormed = s.podFormed := rfl
@[simp] theorem modPkg_agenda (s : State) (p : Nat) (f : Package → Package) : (s.modPkg p f).agenda = s.agenda := rfl
@[simp] theorem modPkg_draws (s : State) (p : Nat) (f : Package → Package) : (s.modPkg p f).draws = s.draws := rfl

/-! ## send -/

@[simp] theorem send_self (s : State) (a b : Agent) (m : MsgClass) (y : Body) : (s.send a b m y).self = s.self := rfl
@[simp] theorem send_cur (s : State) (a b : Agent) (m : MsgClass) (y : Body) : (s.send a b m y).cur = s.cur := rfl
@[simp] theorem send_procs (s : State) (a b : Agent) (m : MsgClass) (y : Body) : (s.send a b m y).procs = s.procs := rfl
@[simp] theorem send_late (s : State) (a b : Agent) (m : MsgClass) (y : Body) : (s.send a b m y).late = s.late := rfl
@[simp] theorem send_cores (s : State) (a b : Agent) (m : MsgClass) (y : Body) : (s.send a b m y).cores = s.cores := rfl
@[simp] theorem send_eps (s : State) (a b : Agent) (m : MsgClass) (y : Body) : (s.send a b m y).eps = s.eps := rfl
@[simp] theorem send_clusters (s : State) (a b : Agent) (m : MsgClass) (y : Body) : (s.send a b m y).clusters = s.clusters := rfl
@[simp] theorem send_dies (s : State) (a b : Agent) (m : MsgClass) (y : Body) : (s.send a b m y).dies = s.dies := rfl
@[simp] theorem send_bases (s : State) (a b : Agent) (m : MsgClass) (y : Body) : (s.send a b m y).bases = s.bases := rfl
@[simp] theorem send_pkgs (s : State) (a b : Agent) (m : MsgClass) (y : Body) : (s.send a b m y).pkgs = s.pkgs := rfl
@[simp] theorem send_mem (s : State) (a b : Agent) (m : MsgClass) (y : Body) : (s.send a b m y).mem = s.mem := rfl
@[simp] theorem send_poison (s : State) (a b : Agent) (m : MsgClass) (y : Body) : (s.send a b m y).poison = s.poison := rfl
@[simp] theorem send_dirty (s : State) (a b : Agent) (m : MsgClass) (y : Body) : (s.send a b m y).dirty = s.dirty := rfl
@[simp] theorem send_seals (s : State) (a b : Agent) (m : MsgClass) (y : Body) : (s.send a b m y).seals = s.seals := rfl
@[simp] theorem send_ordadds (s : State) (a b : Agent) (m : MsgClass) (y : Body) : (s.send a b m y).ordadds = s.ordadds := rfl
@[simp] theorem send_armed (s : State) (a b : Agent) (m : MsgClass) (y : Body) : (s.send a b m y).armed = s.armed := rfl
@[simp] theorem send_barriers (s : State) (a b : Agent) (m : MsgClass) (y : Body) : (s.send a b m y).barriers = s.barriers := rfl
@[simp] theorem send_podFormed (s : State) (a b : Agent) (m : MsgClass) (y : Body) : (s.send a b m y).podFormed = s.podFormed := rfl
@[simp] theorem send_agenda (s : State) (a b : Agent) (m : MsgClass) (y : Body) : (s.send a b m y).agenda = s.agenda := rfl
@[simp] theorem send_draws (s : State) (a b : Agent) (m : MsgClass) (y : Body) : (s.send a b m y).draws = s.draws := rfl

/-! ## poke -/

@[simp] theorem poke_self (s : State) (l : Nat) (bs : List Byte) : (s.poke l bs).self = s.self := rfl
@[simp] theorem poke_cur (s : State) (l : Nat) (bs : List Byte) : (s.poke l bs).cur = s.cur := rfl
@[simp] theorem poke_procs (s : State) (l : Nat) (bs : List Byte) : (s.poke l bs).procs = s.procs := rfl
@[simp] theorem poke_late (s : State) (l : Nat) (bs : List Byte) : (s.poke l bs).late = s.late := rfl
@[simp] theorem poke_cores (s : State) (l : Nat) (bs : List Byte) : (s.poke l bs).cores = s.cores := rfl
@[simp] theorem poke_eps (s : State) (l : Nat) (bs : List Byte) : (s.poke l bs).eps = s.eps := rfl
@[simp] theorem poke_clusters (s : State) (l : Nat) (bs : List Byte) : (s.poke l bs).clusters = s.clusters := rfl
@[simp] theorem poke_dies (s : State) (l : Nat) (bs : List Byte) : (s.poke l bs).dies = s.dies := rfl
@[simp] theorem poke_bases (s : State) (l : Nat) (bs : List Byte) : (s.poke l bs).bases = s.bases := rfl
@[simp] theorem poke_pkgs (s : State) (l : Nat) (bs : List Byte) : (s.poke l bs).pkgs = s.pkgs := rfl
@[simp] theorem poke_poison (s : State) (l : Nat) (bs : List Byte) : (s.poke l bs).poison = s.poison := rfl
@[simp] theorem poke_dirty (s : State) (l : Nat) (bs : List Byte) : (s.poke l bs).dirty = s.dirty := rfl
@[simp] theorem poke_seals (s : State) (l : Nat) (bs : List Byte) : (s.poke l bs).seals = s.seals := rfl
@[simp] theorem poke_ordadds (s : State) (l : Nat) (bs : List Byte) : (s.poke l bs).ordadds = s.ordadds := rfl
@[simp] theorem poke_armed (s : State) (l : Nat) (bs : List Byte) : (s.poke l bs).armed = s.armed := rfl
@[simp] theorem poke_barriers (s : State) (l : Nat) (bs : List Byte) : (s.poke l bs).barriers = s.barriers := rfl
@[simp] theorem poke_msgs (s : State) (l : Nat) (bs : List Byte) : (s.poke l bs).msgs = s.msgs := rfl
@[simp] theorem poke_podFormed (s : State) (l : Nat) (bs : List Byte) : (s.poke l bs).podFormed = s.podFormed := rfl
@[simp] theorem poke_agenda (s : State) (l : Nat) (bs : List Byte) : (s.poke l bs).agenda = s.agenda := rfl
@[simp] theorem poke_draws (s : State) (l : Nat) (bs : List Byte) : (s.poke l bs).draws = s.draws := rfl

/-! ## raise -/

@[simp] theorem raise_self (s : State) (fl : FFlags) : (s.raise fl).self = s.self := rfl
@[simp] theorem raise_procs (s : State) (fl : FFlags) : (s.raise fl).procs = s.procs := rfl
@[simp] theorem raise_late (s : State) (fl : FFlags) : (s.raise fl).late = s.late := rfl
@[simp] theorem raise_cores (s : State) (fl : FFlags) : (s.raise fl).cores = s.cores := rfl
@[simp] theorem raise_eps (s : State) (fl : FFlags) : (s.raise fl).eps = s.eps := rfl
@[simp] theorem raise_clusters (s : State) (fl : FFlags) : (s.raise fl).clusters = s.clusters := rfl
@[simp] theorem raise_dies (s : State) (fl : FFlags) : (s.raise fl).dies = s.dies := rfl
@[simp] theorem raise_bases (s : State) (fl : FFlags) : (s.raise fl).bases = s.bases := rfl
@[simp] theorem raise_pkgs (s : State) (fl : FFlags) : (s.raise fl).pkgs = s.pkgs := rfl
@[simp] theorem raise_mem (s : State) (fl : FFlags) : (s.raise fl).mem = s.mem := rfl
@[simp] theorem raise_poison (s : State) (fl : FFlags) : (s.raise fl).poison = s.poison := rfl
@[simp] theorem raise_dirty (s : State) (fl : FFlags) : (s.raise fl).dirty = s.dirty := rfl
@[simp] theorem raise_seals (s : State) (fl : FFlags) : (s.raise fl).seals = s.seals := rfl
@[simp] theorem raise_ordadds (s : State) (fl : FFlags) : (s.raise fl).ordadds = s.ordadds := rfl
@[simp] theorem raise_armed (s : State) (fl : FFlags) : (s.raise fl).armed = s.armed := rfl
@[simp] theorem raise_barriers (s : State) (fl : FFlags) : (s.raise fl).barriers = s.barriers := rfl
@[simp] theorem raise_msgs (s : State) (fl : FFlags) : (s.raise fl).msgs = s.msgs := rfl
@[simp] theorem raise_podFormed (s : State) (fl : FFlags) : (s.raise fl).podFormed = s.podFormed := rfl
@[simp] theorem raise_agenda (s : State) (fl : FFlags) : (s.raise fl).agenda = s.agenda := rfl
@[simp] theorem raise_draws (s : State) (fl : FFlags) : (s.raise fl).draws = s.draws := rfl

/-! ## setProc, modProc -/

@[simp] theorem setProc_self (s : State) (k : Slot) (p : Proc) : (s.setProc k p).self = s.self := by
  unfold State.setProc; split <;> rfl
@[simp] theorem modProc_self (s : State) (k : Slot) (f : Proc → Proc) : (s.modProc k f).self = s.self :=
  setProc_self s k _
@[simp] theorem setProc_cores (s : State) (k : Slot) (p : Proc) : (s.setProc k p).cores = s.cores := by
  unfold State.setProc; split <;> rfl
@[simp] theorem modProc_cores (s : State) (k : Slot) (f : Proc → Proc) : (s.modProc k f).cores = s.cores :=
  setProc_cores s k _
@[simp] theorem setProc_eps (s : State) (k : Slot) (p : Proc) : (s.setProc k p).eps = s.eps := by
  unfold State.setProc; split <;> rfl
@[simp] theorem modProc_eps (s : State) (k : Slot) (f : Proc → Proc) : (s.modProc k f).eps = s.eps :=
  setProc_eps s k _
@[simp] theorem setProc_clusters (s : State) (k : Slot) (p : Proc) : (s.setProc k p).clusters = s.clusters := by
  unfold State.setProc; split <;> rfl
@[simp] theorem modProc_clusters (s : State) (k : Slot) (f : Proc → Proc) : (s.modProc k f).clusters = s.clusters :=
  setProc_clusters s k _
@[simp] theorem setProc_dies (s : State) (k : Slot) (p : Proc) : (s.setProc k p).dies = s.dies := by
  unfold State.setProc; split <;> rfl
@[simp] theorem modProc_dies (s : State) (k : Slot) (f : Proc → Proc) : (s.modProc k f).dies = s.dies :=
  setProc_dies s k _
@[simp] theorem setProc_bases (s : State) (k : Slot) (p : Proc) : (s.setProc k p).bases = s.bases := by
  unfold State.setProc; split <;> rfl
@[simp] theorem modProc_bases (s : State) (k : Slot) (f : Proc → Proc) : (s.modProc k f).bases = s.bases :=
  setProc_bases s k _
@[simp] theorem setProc_pkgs (s : State) (k : Slot) (p : Proc) : (s.setProc k p).pkgs = s.pkgs := by
  unfold State.setProc; split <;> rfl
@[simp] theorem modProc_pkgs (s : State) (k : Slot) (f : Proc → Proc) : (s.modProc k f).pkgs = s.pkgs :=
  setProc_pkgs s k _
@[simp] theorem setProc_mem (s : State) (k : Slot) (p : Proc) : (s.setProc k p).mem = s.mem := by
  unfold State.setProc; split <;> rfl
@[simp] theorem modProc_mem (s : State) (k : Slot) (f : Proc → Proc) : (s.modProc k f).mem = s.mem :=
  setProc_mem s k _
@[simp] theorem setProc_poison (s : State) (k : Slot) (p : Proc) : (s.setProc k p).poison = s.poison := by
  unfold State.setProc; split <;> rfl
@[simp] theorem modProc_poison (s : State) (k : Slot) (f : Proc → Proc) : (s.modProc k f).poison = s.poison :=
  setProc_poison s k _
@[simp] theorem setProc_dirty (s : State) (k : Slot) (p : Proc) : (s.setProc k p).dirty = s.dirty := by
  unfold State.setProc; split <;> rfl
@[simp] theorem modProc_dirty (s : State) (k : Slot) (f : Proc → Proc) : (s.modProc k f).dirty = s.dirty :=
  setProc_dirty s k _
@[simp] theorem setProc_seals (s : State) (k : Slot) (p : Proc) : (s.setProc k p).seals = s.seals := by
  unfold State.setProc; split <;> rfl
@[simp] theorem modProc_seals (s : State) (k : Slot) (f : Proc → Proc) : (s.modProc k f).seals = s.seals :=
  setProc_seals s k _
@[simp] theorem setProc_ordadds (s : State) (k : Slot) (p : Proc) : (s.setProc k p).ordadds = s.ordadds := by
  unfold State.setProc; split <;> rfl
@[simp] theorem modProc_ordadds (s : State) (k : Slot) (f : Proc → Proc) : (s.modProc k f).ordadds = s.ordadds :=
  setProc_ordadds s k _
@[simp] theorem setProc_armed (s : State) (k : Slot) (p : Proc) : (s.setProc k p).armed = s.armed := by
  unfold State.setProc; split <;> rfl
@[simp] theorem modProc_armed (s : State) (k : Slot) (f : Proc → Proc) : (s.modProc k f).armed = s.armed :=
  setProc_armed s k _
@[simp] theorem setProc_barriers (s : State) (k : Slot) (p : Proc) : (s.setProc k p).barriers = s.barriers := by
  unfold State.setProc; split <;> rfl
@[simp] theorem modProc_barriers (s : State) (k : Slot) (f : Proc → Proc) : (s.modProc k f).barriers = s.barriers :=
  setProc_barriers s k _
@[simp] theorem setProc_msgs (s : State) (k : Slot) (p : Proc) : (s.setProc k p).msgs = s.msgs := by
  unfold State.setProc; split <;> rfl
@[simp] theorem modProc_msgs (s : State) (k : Slot) (f : Proc → Proc) : (s.modProc k f).msgs = s.msgs :=
  setProc_msgs s k _
@[simp] theorem setProc_podFormed (s : State) (k : Slot) (p : Proc) : (s.setProc k p).podFormed = s.podFormed := by
  unfold State.setProc; split <;> rfl
@[simp] theorem modProc_podFormed (s : State) (k : Slot) (f : Proc → Proc) : (s.modProc k f).podFormed = s.podFormed :=
  setProc_podFormed s k _
@[simp] theorem setProc_agenda (s : State) (k : Slot) (p : Proc) : (s.setProc k p).agenda = s.agenda := by
  unfold State.setProc; split <;> rfl
@[simp] theorem modProc_agenda (s : State) (k : Slot) (f : Proc → Proc) : (s.modProc k f).agenda = s.agenda :=
  setProc_agenda s k _
@[simp] theorem setProc_draws (s : State) (k : Slot) (p : Proc) : (s.setProc k p).draws = s.draws := by
  unfold State.setProc; split <;> rfl
@[simp] theorem modProc_draws (s : State) (k : Slot) (f : Proc → Proc) : (s.modProc k f).draws = s.draws :=
  setProc_draws s k _

/-! ## What was written is read back -/

@[simp] theorem core_setCore (s : State) (c : CoreId) (x : Core) : (s.setCore c x).core c = x := get_put_same _ _ _ _

theorem core_setCore_other (s : State) (c d : CoreId) (x : Core) (h : d ≠ c) : (s.setCore c x).core d = s.core d :=
  get_put_other _ _ _ _ _ h

@[simp] theorem core_modCore (s : State) (c : CoreId) (f : Core → Core) : (s.modCore c f).core c = f (s.core c) :=
  get_put_same _ _ _ _

theorem core_modCore_other (s : State) (c d : CoreId) (f : Core → Core) (h : d ≠ c) : (s.modCore c f).core d = s.core d :=
  get_put_other _ _ _ _ _ h

@[simp] theorem ep_setEp (s : State) (e : EpId) (x : Endpoint) : (s.setEp e x).ep e = x := get_put_same _ _ _ _

theorem ep_setEp_other (s : State) (e d : EpId) (x : Endpoint) (h : d ≠ e) : (s.setEp e x).ep d = s.ep d :=
  get_put_other _ _ _ _ _ h

@[simp] theorem ep_modEp (s : State) (e : EpId) (f : Endpoint → Endpoint) : (s.modEp e f).ep e = f (s.ep e) :=
  get_put_same _ _ _ _

theorem ep_modEp_other (s : State) (e d : EpId) (f : Endpoint → Endpoint) (h : d ≠ e) : (s.modEp e f).ep d = s.ep d :=
  get_put_other _ _ _ _ _ h

@[simp] theorem cluster_modCluster (s : State) (c : Nat) (f : Cluster → Cluster) :
    (s.modCluster c f).cluster c = f (s.cluster c) := get_put_same _ _ _ _

theorem cluster_modCluster_other (s : State) (c d : Nat) (f : Cluster → Cluster) (h : d ≠ c) :
    (s.modCluster c f).cluster d = s.cluster d := get_put_other _ _ _ _ _ h

@[simp] theorem die_modDie (s : State) (e : Nat) (f : Die → Die) : (s.modDie e f).die e = f (s.die e) :=
  get_put_same _ _ _ _

theorem die_modDie_other (s : State) (e d : Nat) (f : Die → Die) (h : d ≠ e) : (s.modDie e f).die d = s.die d :=
  get_put_other _ _ _ _ _ h

@[simp] theorem base_modBase (s : State) (b : Nat) (f : Base → Base) : (s.modBase b f).base b = f (s.base b) :=
  get_put_same _ _ _ _

theorem base_modBase_other (s : State) (b d : Nat) (f : Base → Base) (h : d ≠ b) : (s.modBase b f).base d = s.base d :=
  get_put_other _ _ _ _ _ h

@[simp] theorem pkg_modPkg (s : State) (p : Nat) (f : Package → Package) : (s.modPkg p f).pkg p = f (s.pkg p) :=
  get_put_same _ _ _ _

theorem pkg_modPkg_other (s : State) (p q : Nat) (f : Package → Package) (h : q ≠ p) : (s.modPkg p f).pkg q = s.pkg q :=
  get_put_other _ _ _ _ _ h

@[simp] theorem proc_setProc (s : State) (k : Slot) (p : Proc) : (s.setProc k p).proc k = p := by
  unfold State.setProc State.proc
  split
  · rfl
  · exact get_put_same _ _ _ _

theorem proc_setProc_other (s : State) (k j : Slot) (p : Proc) (h : j ≠ k) : (s.setProc k p).proc j = s.proc j := by
  unfold State.setProc
  split
  · next hk => simp [State.proc, hk ▸ h]
  · next hk =>
    by_cases hj : j = s.self
    · simp [State.proc, hj]
    · simp [State.proc, hj, get_put_other _ _ _ _ _ h]

@[simp] theorem proc_modProc (s : State) (k : Slot) (f : Proc → Proc) : (s.modProc k f).proc k = f (s.proc k) :=
  proc_setProc s k _

theorem proc_modProc_other (s : State) (k j : Slot) (f : Proc → Proc) (h : j ≠ k) : (s.modProc k f).proc j = s.proc j :=
  proc_setProc_other s k j _ h

@[simp] theorem proc_self (s : State) : s.proc s.self = s.cur := by simp [State.proc]

/-! ## Processes are read through `cur` and `procs` only -/

@[simp] theorem proc_setCore (s : State) (k : Slot) (c : CoreId) (x : Core) : (s.setCore c x).proc k = s.proc k := rfl
@[simp] theorem proc_modCore (s : State) (k : Slot) (c : CoreId) (f : Core → Core) : (s.modCore c f).proc k = s.proc k := rfl
@[simp] theorem proc_setEp (s : State) (k : Slot) (e : EpId) (x : Endpoint) : (s.setEp e x).proc k = s.proc k := rfl
@[simp] theorem proc_modEp (s : State) (k : Slot) (e : EpId) (f : Endpoint → Endpoint) : (s.modEp e f).proc k = s.proc k := rfl
@[simp] theorem proc_modCluster (s : State) (k : Slot) (c : Nat) (f : Cluster → Cluster) : (s.modCluster c f).proc k = s.proc k := rfl
@[simp] theorem proc_modDie (s : State) (k : Slot) (e : Nat) (f : Die → Die) : (s.modDie e f).proc k = s.proc k := rfl
@[simp] theorem proc_modBase (s : State) (k : Slot) (b : Nat) (f : Base → Base) : (s.modBase b f).proc k = s.proc k := rfl
@[simp] theorem proc_modPkg (s : State) (k : Slot) (p : Nat) (f : Package → Package) : (s.modPkg p f).proc k = s.proc k := rfl
@[simp] theorem proc_send (s : State) (k : Slot) (a b : Agent) (m : MsgClass) (y : Body) : (s.send a b m y).proc k = s.proc k := rfl
@[simp] theorem proc_poke (s : State) (k : Slot) (l : Nat) (bs : List Byte) : (s.poke l bs).proc k = s.proc k := rfl

/-! ## Each table is read through its own field -/

@[simp] theorem core_setEp (s : State) (d : CoreId) (e : EpId) (x : Endpoint) : (s.setEp e x).core d = s.core d := rfl
@[simp] theorem core_modEp (s : State) (d : CoreId) (e : EpId) (f : Endpoint → Endpoint) : (s.modEp e f).core d = s.core d := rfl
@[simp] theorem core_modCluster (s : State) (d : CoreId) (c : Nat) (f : Cluster → Cluster) : (s.modCluster c f).core d = s.core d := rfl
@[simp] theorem core_modDie (s : State) (d : CoreId) (e : Nat) (f : Die → Die) : (s.modDie e f).core d = s.core d := rfl
@[simp] theorem core_modBase (s : State) (d : CoreId) (b : Nat) (f : Base → Base) : (s.modBase b f).core d = s.core d := rfl
@[simp] theorem core_modPkg (s : State) (d : CoreId) (p : Nat) (f : Package → Package) : (s.modPkg p f).core d = s.core d := rfl
@[simp] theorem core_send (s : State) (d : CoreId) (a b : Agent) (m : MsgClass) (y : Body) : (s.send a b m y).core d = s.core d := rfl
@[simp] theorem core_poke (s : State) (d : CoreId) (l : Nat) (bs : List Byte) : (s.poke l bs).core d = s.core d := rfl
@[simp] theorem core_raise (s : State) (d : CoreId) (fl : FFlags) : (s.raise fl).core d = s.core d := rfl
@[simp] theorem core_setProc (s : State) (d : CoreId) (k : Slot) (p : Proc) : (s.setProc k p).core d = s.core d := by
  unfold State.setProc; split <;> rfl
@[simp] theorem ep_setCore (s : State) (d : EpId) (c : CoreId) (x : Core) : (s.setCore c x).ep d = s.ep d := rfl
@[simp] theorem ep_modCore (s : State) (d : EpId) (c : CoreId) (f : Core → Core) : (s.modCore c f).ep d = s.ep d := rfl
@[simp] theorem ep_modCluster (s : State) (d : EpId) (c : Nat) (f : Cluster → Cluster) : (s.modCluster c f).ep d = s.ep d := rfl
@[simp] theorem ep_modDie (s : State) (d : EpId) (e : Nat) (f : Die → Die) : (s.modDie e f).ep d = s.ep d := rfl
@[simp] theorem ep_modBase (s : State) (d : EpId) (b : Nat) (f : Base → Base) : (s.modBase b f).ep d = s.ep d := rfl
@[simp] theorem ep_modPkg (s : State) (d : EpId) (p : Nat) (f : Package → Package) : (s.modPkg p f).ep d = s.ep d := rfl
@[simp] theorem ep_send (s : State) (d : EpId) (a b : Agent) (m : MsgClass) (y : Body) : (s.send a b m y).ep d = s.ep d := rfl
@[simp] theorem ep_poke (s : State) (d : EpId) (l : Nat) (bs : List Byte) : (s.poke l bs).ep d = s.ep d := rfl
@[simp] theorem ep_raise (s : State) (d : EpId) (fl : FFlags) : (s.raise fl).ep d = s.ep d := rfl
@[simp] theorem ep_setProc (s : State) (d : EpId) (k : Slot) (p : Proc) : (s.setProc k p).ep d = s.ep d := by
  unfold State.setProc; split <;> rfl
@[simp] theorem cluster_setCore (s : State) (d : Nat) (c : CoreId) (x : Core) : (s.setCore c x).cluster d = s.cluster d := rfl
@[simp] theorem cluster_modCore (s : State) (d : Nat) (c : CoreId) (f : Core → Core) : (s.modCore c f).cluster d = s.cluster d := rfl
@[simp] theorem cluster_setEp (s : State) (d : Nat) (e : EpId) (x : Endpoint) : (s.setEp e x).cluster d = s.cluster d := rfl
@[simp] theorem cluster_modEp (s : State) (d : Nat) (e : EpId) (f : Endpoint → Endpoint) : (s.modEp e f).cluster d = s.cluster d := rfl
@[simp] theorem cluster_modDie (s : State) (d : Nat) (e : Nat) (f : Die → Die) : (s.modDie e f).cluster d = s.cluster d := rfl
@[simp] theorem cluster_modBase (s : State) (d : Nat) (b : Nat) (f : Base → Base) : (s.modBase b f).cluster d = s.cluster d := rfl
@[simp] theorem cluster_modPkg (s : State) (d : Nat) (p : Nat) (f : Package → Package) : (s.modPkg p f).cluster d = s.cluster d := rfl
@[simp] theorem cluster_send (s : State) (d : Nat) (a b : Agent) (m : MsgClass) (y : Body) : (s.send a b m y).cluster d = s.cluster d := rfl
@[simp] theorem cluster_poke (s : State) (d : Nat) (l : Nat) (bs : List Byte) : (s.poke l bs).cluster d = s.cluster d := rfl
@[simp] theorem cluster_raise (s : State) (d : Nat) (fl : FFlags) : (s.raise fl).cluster d = s.cluster d := rfl
@[simp] theorem cluster_setProc (s : State) (d : Nat) (k : Slot) (p : Proc) : (s.setProc k p).cluster d = s.cluster d := by
  unfold State.setProc; split <;> rfl
@[simp] theorem die_setCore (s : State) (d : Nat) (c : CoreId) (x : Core) : (s.setCore c x).die d = s.die d := rfl
@[simp] theorem die_modCore (s : State) (d : Nat) (c : CoreId) (f : Core → Core) : (s.modCore c f).die d = s.die d := rfl
@[simp] theorem die_setEp (s : State) (d : Nat) (e : EpId) (x : Endpoint) : (s.setEp e x).die d = s.die d := rfl
@[simp] theorem die_modEp (s : State) (d : Nat) (e : EpId) (f : Endpoint → Endpoint) : (s.modEp e f).die d = s.die d := rfl
@[simp] theorem die_modCluster (s : State) (d : Nat) (c : Nat) (f : Cluster → Cluster) : (s.modCluster c f).die d = s.die d := rfl
@[simp] theorem die_modBase (s : State) (d : Nat) (b : Nat) (f : Base → Base) : (s.modBase b f).die d = s.die d := rfl
@[simp] theorem die_modPkg (s : State) (d : Nat) (p : Nat) (f : Package → Package) : (s.modPkg p f).die d = s.die d := rfl
@[simp] theorem die_send (s : State) (d : Nat) (a b : Agent) (m : MsgClass) (y : Body) : (s.send a b m y).die d = s.die d := rfl
@[simp] theorem die_poke (s : State) (d : Nat) (l : Nat) (bs : List Byte) : (s.poke l bs).die d = s.die d := rfl
@[simp] theorem die_raise (s : State) (d : Nat) (fl : FFlags) : (s.raise fl).die d = s.die d := rfl
@[simp] theorem die_setProc (s : State) (d : Nat) (k : Slot) (p : Proc) : (s.setProc k p).die d = s.die d := by
  unfold State.setProc; split <;> rfl
@[simp] theorem base_setCore (s : State) (d : Nat) (c : CoreId) (x : Core) : (s.setCore c x).base d = s.base d := rfl
@[simp] theorem base_modCore (s : State) (d : Nat) (c : CoreId) (f : Core → Core) : (s.modCore c f).base d = s.base d := rfl
@[simp] theorem base_setEp (s : State) (d : Nat) (e : EpId) (x : Endpoint) : (s.setEp e x).base d = s.base d := rfl
@[simp] theorem base_modEp (s : State) (d : Nat) (e : EpId) (f : Endpoint → Endpoint) : (s.modEp e f).base d = s.base d := rfl
@[simp] theorem base_modCluster (s : State) (d : Nat) (c : Nat) (f : Cluster → Cluster) : (s.modCluster c f).base d = s.base d := rfl
@[simp] theorem base_modDie (s : State) (d : Nat) (e : Nat) (f : Die → Die) : (s.modDie e f).base d = s.base d := rfl
@[simp] theorem base_modPkg (s : State) (d : Nat) (p : Nat) (f : Package → Package) : (s.modPkg p f).base d = s.base d := rfl
@[simp] theorem base_send (s : State) (d : Nat) (a b : Agent) (m : MsgClass) (y : Body) : (s.send a b m y).base d = s.base d := rfl
@[simp] theorem base_poke (s : State) (d : Nat) (l : Nat) (bs : List Byte) : (s.poke l bs).base d = s.base d := rfl
@[simp] theorem base_raise (s : State) (d : Nat) (fl : FFlags) : (s.raise fl).base d = s.base d := rfl
@[simp] theorem base_setProc (s : State) (d : Nat) (k : Slot) (p : Proc) : (s.setProc k p).base d = s.base d := by
  unfold State.setProc; split <;> rfl
@[simp] theorem pkg_setCore (s : State) (d : Nat) (c : CoreId) (x : Core) : (s.setCore c x).pkg d = s.pkg d := rfl
@[simp] theorem pkg_modCore (s : State) (d : Nat) (c : CoreId) (f : Core → Core) : (s.modCore c f).pkg d = s.pkg d := rfl
@[simp] theorem pkg_setEp (s : State) (d : Nat) (e : EpId) (x : Endpoint) : (s.setEp e x).pkg d = s.pkg d := rfl
@[simp] theorem pkg_modEp (s : State) (d : Nat) (e : EpId) (f : Endpoint → Endpoint) : (s.modEp e f).pkg d = s.pkg d := rfl
@[simp] theorem pkg_modCluster (s : State) (d : Nat) (c : Nat) (f : Cluster → Cluster) : (s.modCluster c f).pkg d = s.pkg d := rfl
@[simp] theorem pkg_modDie (s : State) (d : Nat) (e : Nat) (f : Die → Die) : (s.modDie e f).pkg d = s.pkg d := rfl
@[simp] theorem pkg_modBase (s : State) (d : Nat) (b : Nat) (f : Base → Base) : (s.modBase b f).pkg d = s.pkg d := rfl
@[simp] theorem pkg_send (s : State) (d : Nat) (a b : Agent) (m : MsgClass) (y : Body) : (s.send a b m y).pkg d = s.pkg d := rfl
@[simp] theorem pkg_poke (s : State) (d : Nat) (l : Nat) (bs : List Byte) : (s.poke l bs).pkg d = s.pkg d := rfl
@[simp] theorem pkg_raise (s : State) (d : Nat) (fl : FFlags) : (s.raise fl).pkg d = s.pkg d := rfl
@[simp] theorem pkg_setProc (s : State) (d : Nat) (k : Slot) (p : Proc) : (s.setProc k p).pkg d = s.pkg d := by
  unfold State.setProc; split <;> rfl

end Sys2Proof.Laws
end

