-- ==== Sys2Proof/Laws/Ops.lean ====
section
/-! SUPPORT. Sys2Proof/Laws/Ops.lean: what each shared operation over the machine does, said once. -/

namespace Sys2Proof.Laws

open Sys2Proof.Machine

/-! ## Fields an allocation of an extension leaves alone -/

theorem pushWaits_vext (s : State) (x : Option VExt) (sh : Shape) :
    State.pushWaits { s with cur := { s.cur with vext := x } } sh = s.pushWaits sh := by
  simp [State.pushWaits, State.drained, State.drainedFor, State.proc]
  rfl

theorem behind_vext (s : State) (x : Option VExt) (e : Endpoint) :
    State.behind { s with cur := { s.cur with vext := x } } e = s.behind e := by
  unfold State.behind State.chosenBy State.proc
  cases e.chosen with
  | none => rfl
  | some k => by_cases h : k.1 = s.self <;> simp [h]

theorem portCheck_vext (s : State) (x : Option VExt) (sh : Shape) :
    State.portCheck { s with cur := { s.cur with vext := x } } sh = s.portCheck sh := by
  unfold State.portCheck
  simp only [behind_vext]
  rfl

theorem portWords_vext (s : State) (x : Option VExt) (rs : List Reg) :
    State.portWords { s with cur := { s.cur with vext := x } } rs = s.portWords rs := rfl

theorem sourceValues_vext (s : State) (x : Option VExt) (rs : List Reg) : ∀ es : List Reg,
    State.sourceValues { s with cur := { s.cur with vext := x } } es rs = s.sourceValues es rs := by
  induction rs with
  | nil => intro es; rfl
  | cons r rest ih => intro es; simp only [State.sourceValues, ih]; rfl

/-- The checks pass: the instruction runs on its source values, and while it stands parked the words it took from ports are
its own. -/
theorem issue_ready {s : State} {sh : Shape} (h : Ready sh s) (body : List Word → State → State) :
    s.issue sh body = (body (s.sourceValues [] sh.srcs) (s.extended sh)).keepWords (s.portWords sh.srcs) := by
  obtain ⟨h0, h1, h2, h3, h4, h5, h6, h7⟩ := h
  have c1 : (s.cur.light && (sh.full || sh.named.any fun r => decide (9 ≤ r.toNat))) = false := by
    cases hl : s.cur.light with
    | false => rfl
    | true =>
      obtain ⟨hf, hn⟩ := h1 hl
      simp only [hf, Bool.true_and, Bool.false_or, List.any_eq_false, decide_eq_true_eq]
      intro r hr; have := hn r hr; omega
  have c2 : ((decide (sh.alt = 0) && s.cur.inalt) || (decide (sh.alt = 2) && !s.cur.inalt)) = false := by
    cases hi : s.cur.inalt with
    | false => simpa using fun e => by simpa [hi] using h3 e
    | true => simpa using h2 hi
  have c3 : (sh.priv && !s.cur.supv) = false := by
    cases hp : sh.priv with
    | false => rfl
    | true => simp [h4 hp]
  unfold State.issue
  split
  · next hph => rw [h0] at hph; cases hph
  · rw [if_neg (by simp [c1]), if_neg (by simp [c2]), if_neg (by simp [c3])]
    by_cases hv : (sh.vec && s.cur.vext.isNone) = true
    · have hv' := hv
      simp only [Bool.and_eq_true, Option.isNone_iff_eq_none] at hv'
      have hf : s.freeExt.isSome = true := by
        rcases h5 hv'.1 with a | a
        · simp [hv'.2] at a
        · exact a
      obtain ⟨i, hi⟩ := Option.isSome_iff_exists.mp hf
      rw [if_pos hv, State.extended, if_pos hv, hi]
      dsimp only
      unfold State.withPorts
      rw [portCheck_vext, h6, sourceValues_vext, pushWaits_vext, h7, portWords_vext]
      rfl
    · rw [if_neg hv, State.extended, if_neg hv]
      unfold State.withPorts
      rw [h6, h7]
      rfl

/-- Without the vector registers nothing is allocated. -/
@[simp] theorem extended_novec (s : State) (sh : Shape) (h : sh.vec = false) : s.extended sh = s := by
  simp [State.extended, h]

/-- Fields that name no port take no words. -/
theorem portWords_unported (s : State) (rs : List Reg) (h : ∀ r ∈ rs, s.cur.port r = none) : s.portWords rs = [] := by
  unfold State.portWords
  split
  · rfl
  · rw [List.filterMap_eq_nil_iff]
    intro r hr
    rw [h r hr]
    rfl

@[simp] theorem keepWords_nil (s : State) : s.keepWords [] = s := by simp [State.keepWords]

/-- An instruction that stands at its start, or has ended, keeps no words. -/
theorem keepWords_fresh (s : State) (ps : List (EpId × Nat)) (h : s.cur.phase = .fresh) : s.keepWords ps = s := by
  simp [State.keepWords, Proc.resumed, h]

/-- Keeping words changes endpoints alone. -/
@[simp] theorem keepWords_cur (s : State) (ps : List (EpId × Nat)) : (s.keepWords ps).cur = s.cur := by
  unfold State.keepWords
  split
  · induction ps generalizing s with
    | nil => rfl
    | cons p r ih => simpa using ih (s.modEp p.1 fun y => { y with held := p.2 }) (by simpa)
  · rfl

/-- An instruction that has ended stands at its start again. -/
theorem finishAt_phase (s : State) (pc : Word) (h : s.cur.sstep = false) : (s.finishAt pc).cur.phase = .fresh := by
  simp [State.finishAt, h]

/-- The checks pass and no field names a port: the instruction runs on its source values. -/
theorem issue_plain {s : State} {sh : Shape} (h : Ready sh s) (hp : Unported sh s) (body : List Word → State → State) :
    s.issue sh body = body (s.sourceValues [] sh.srcs) (s.extended sh) := by
  rw [issue_ready h, portWords_unported s _ fun r hr => hp r (by simp [Shape.named, hr]), keepWords_nil]

/-- An instruction that goes on after a Park runs on the values it read at its start (R73). -/
theorem issue_resumed {s : State} {sh : Shape} {vals : List Word} {v : Word} {mark : Nat} (h : Resumed sh s vals v mark)
    (body : List Word → State → State) :
    s.issue sh body = (body vals s).keepWords (s.portWords sh.srcs) := by
  obtain ⟨h0, h1, h2⟩ := h
  unfold State.issue
  simp [h0, h1, h2]

/-- In user mode a privileged encoding traps PRIV (R68). -/
theorem issue_priv {s : State} {sh : Shape} (h0 : s.cur.phase = .fresh) (h1 : s.cur.light = false)
    (h2 : s.cur.inalt = false) (h3 : sh.alt ≠ 2) (hp : sh.priv = true) (hs : s.cur.supv = false)
    (body : List Word → State → State) : s.issue sh body = s.trap 0x02 [] := by
  unfold State.issue
  simp [h0, h1, h2, h3, hp, hs]

/-! ## The end of an instruction -/

/-- With single step off the end of an instruction changes the current process alone. -/
theorem finishAt_quiet (s : State) (pc : Word) (h : s.cur.sstep = false) :
    s.finishAt pc = { s with cur := { s.cur with pc := pc, phase := .fresh, inflight := none, lastWord := s.cur.iword,
                                                 held := none, wait := .none } } := by
  simp [State.finishAt, h]

/-- The pops of sources that name no port change nothing. -/
theorem takePorts_unported (s : State) (rs : List Reg) (h : ∀ r ∈ rs, s.cur.port r = none) : s.takePorts rs = s := by
  unfold State.takePorts
  split
  · rfl
  · induction rs with
    | nil => rfl
    | cons r rest ih =>
      simp only [List.foldl_cons, h r (by simp)]
      exact ih fun x hx => h x (by simp [hx])

/-- An instruction that names no port takes no words (R69). -/
theorem pops_unported (s : State) (sh : Shape) (h : Unported sh s) : s.takePorts sh.srcs = s :=
  takePorts_unported s _ fun r hr => h r (by simp [Shape.named, hr])

/-- An instruction that names no port waits for no push (R251). -/
theorem pushWaits_unported (s : State) (sh : Shape) (h : Unported sh s) : s.pushWaits sh = false := by
  unfold State.pushWaits
  cases hd : sh.dst with
  | none => rfl
  | some d => simp [h d (by simp [Shape.named, hd])]

/-- A result for a register that is no port. -/
theorem putDst_unported (s : State) (d : Reg) (v : Word) (h : s.cur.port d = none) :
    s.putDst d v = { s with cur := s.cur.setReg d v } := by
  simp [State.putDst, h]

@[simp] theorem setReg_sstep (p : Proc) (d : Reg) (v : Word) : (p.setReg d v).sstep = p.sstep := by
  unfold Proc.setReg; split <;> rfl

@[simp] theorem setReg_pc (p : Proc) (d : Reg) (v : Word) : (p.setReg d v).pc = p.pc := by
  unfold Proc.setReg; split <;> rfl

@[simp] theorem setReg_iword (p : Proc) (d : Reg) (v : Word) : (p.setReg d v).iword = p.iword := by
  unfold Proc.setReg; split <;> rfl

/-- A register written is read back; g0 reads zero (R25). -/
theorem reg_setReg_same (p : Proc) (d : Reg) (v : Word) : (p.setReg d v).reg d = if d = 0 then 0 else v := by
  unfold Proc.setReg Proc.reg
  by_cases h : d = 0#5 <;> simp [h]

/-- Every other register is left alone. -/
theorem reg_setReg_other (p : Proc) (d r : Reg) (v : Word) (h : r ≠ d) : (p.setReg d v).reg r = p.reg r := by
  unfold Proc.setReg Proc.reg
  by_cases hd : d = 0#5
  · simp [hd]
  · by_cases hr : r = 0#5
    · simp [hr]
    · have : d.toNat ≠ r.toNat := fun e => h (BitVec.eq_of_toNat_eq e.symm)
      simp [hd, hr, this]

/-- The end of an instruction with a result, when no field names a port and single step is off (R111). -/
theorem doneWith_quiet (s : State) (sh : Shape) (d : Reg) (v : Word) (hd : sh.dst = some d) (hp : Unported sh s)
    (h : s.cur.sstep = false) :
    s.doneWith sh v = { s with cur := { s.cur.setReg d v with
      pc := nextPc s.cur.pc, phase := .fresh, inflight := none, lastWord := s.cur.iword, held := none, wait := .none } } := by
  have hport : s.cur.port d = none := hp d (by simp [Shape.named, hd])
  simp [State.doneWith, hd, pops_unported s sh hp, putDst_unported s d v hport, State.retire, finishAt_quiet, h]

/-- The end of an instruction without a result. -/
theorem done_quiet (s : State) (sh : Shape) (hp : Unported sh s) (h : s.cur.sstep = false) :
    s.done sh = { s with cur := { s.cur with
      pc := nextPc s.cur.pc, phase := .fresh, inflight := none, lastWord := s.cur.iword, held := none, wait := .none } } := by
  simp [State.done, pops_unported s sh hp, State.retire, finishAt_quiet, h]

/-! ## Park, hold, wake -/

/-- Park of the current process (R73, R240). -/
theorem park_cur (s : State) (k : BitVec 4) (w : Wait) (ph : Phase) (dl : Option Nat) :
    (s.park k w ph dl).cur = { s.cur with
      state := .parked, waitk := k, parkedAs := k, wait := w, phase := ph, deadline := dl, held := none, used := 0,
      since := s.now s.here, lastRan := s.now s.here, slice := none, overrun := 0, due := none } := rfl

/-- A parked process releases the issue slot of its core (R240). -/
theorem park_running (s : State) (k : BitVec 4) (w : Wait) (ph : Phase) (dl : Option Nat) :
    ((s.park k w ph dl).core s.here).running = none := by
  simp [State.park, State.core, State.modCore, State.setCore, get_put_same]

@[simp] theorem park_mem (s : State) (k : BitVec 4) (w : Wait) (ph : Phase) (dl : Option Nat) :
    (s.park k w ph dl).mem = s.mem := rfl

/-- A held process stays at its instruction (R246). -/
theorem hold_cur (s : State) (w : Wait) (ph : Phase) :
    (s.hold w ph).cur = { s.cur with held := some (s.cur.held.getD (s.now s.here)), wait := w, phase := ph } := rfl

/-- A process that is neither parked nor held is not woken. -/
theorem wake_idle (s : State) (k : Slot) (v : Word) (mark : Nat) (h : (s.proc k).state ≠ .parked)
    (hh : (s.proc k).held = none) : s.wake k v mark = s := by
  simp [State.wake, h, hh]

/-- Waking changes no memory. -/
@[simp] theorem wake_mem (s : State) (k : Slot) (v : Word) (mark : Nat) : (s.wake k v mark).mem = s.mem := by
  unfold State.wake State.toTail
  dsimp only
  repeat' split
  all_goals simp

/-! ## Messages -/

/-- A message that arrives is taken out and acted on; one that its meaning leaves in flight stays (R73). -/
theorem deliver_arrives {s : State} {n : Nat} {m : Msg} (h : Arrives s n m) (f : Msg → State → Option State) :
    s.deliver n f = (f m (s.taken n m)).getD s := by
  unfold State.deliver
  rw [h.1]
  simp only [h.2, if_true]

end Sys2Proof.Laws
end

