-- ==== Sys2Proof/Laws/Access.lean ====
section
/-! SUPPORT. Sys2Proof/Laws/Access.lean: what the shared operations of the memory instructions answer when the accesses
succeed. -/

namespace Sys2Proof.Laws

open Sys2Proof.Machine

/-- A list of accesses that are located goes on with their places (R214, R229). -/
theorem locateAll_ok {k : AKind} {align : Nat} (s0 : State) : ∀ (as : List (Word × Nat)) (s : State) (pre accs : List Machine.Acc) (t : State)
    (f : List Machine.Acc → State → State), LocatesAll k align s as accs t →
    s0.locateAll k align as pre f s = f (pre.reverse ++ accs) t := by
  intro as
  induction as with
  | nil => intro s pre accs t f h; obtain ⟨rfl, rfl⟩ := h; simp [State.locateAll]
  | cons x r ih =>
    obtain ⟨ea, n⟩ := x
    intro s pre accs t f h
    obtain ⟨sp, u, rest, h1, rfl, h2⟩ := h
    simp [State.locateAll, h1, State.checked, ih _ _ _ _ _ h2]

/-- Accesses that are read go on with their bytes (R173, R194, R195, R209). -/
theorem loadAll_ok (tag : Acc → Word) : ∀ (accs : List Machine.Acc) (s : State) (pre bss : List (List Byte)) (t : State)
    (reps : List Word) (f : List (List Byte) → State → State), ReadsAll s accs bss t →
    State.loadAll tag accs reps pre f s = f (pre.reverse ++ bss) t := by
  intro accs
  induction accs with
  | nil => intro s pre bss t reps f h; obtain ⟨rfl, rfl⟩ := h; simp [State.loadAll]
  | cons x r ih =>
    intro s pre bss t reps f h
    obtain ⟨b, u, rest, h1, rfl, h2⟩ := h
    unfold Reads at h1
    cases hsp : x.spot with
    | mem loc key =>
      simp only [hsp] at h1
      rcases h1 with ⟨h1, rfl⟩ | ⟨h1, h3⟩
      · simp [State.loadAll, hsp, h1, ih _ _ _ _ _ _ h2]
      · simp [State.loadAll, hsp, h1, h3, ih _ _ _ _ _ _ h2]
    | step loc ru key =>
      simp only [hsp] at h1
      obtain ⟨h1, rfl, ⟨h3, h4⟩ | ⟨⟨w, h3⟩, h4⟩⟩ := h1 <;>
        simp [State.loadAll, hsp, h1, h3, h4, ih _ _ _ _ _ _ h2]
    | atomic loc key =>
      simp only [hsp] at h1
      simp [State.loadAll, hsp, h1, ih _ _ _ _ _ _ h2]
    | port a b c => simp [hsp] at h1

/-- No access that is read at once goes to a host port. -/
theorem portReads_reads : ∀ {accs : List Machine.Acc} {s bss t}, ReadsAll s accs bss t → portReads accs = [] := by
  suffices e : ∀ {accs : List Machine.Acc} {s bss t}, ReadsAll s accs bss t → accs.flatMap Acc.reads = [] by
    intro accs s bss t h
    rw [portReads, e h]
    rfl
  intro accs
  induction accs with
  | nil => intros; rfl
  | cons x r ih =>
    intro s bss t h
    obtain ⟨b, u, rest, h1, rfl, h2⟩ := h
    have hx : x.reads = [] := by
      unfold Reads at h1
      unfold Acc.reads
      cases hsp : x.spot <;> simp_all
    rw [List.flatMap_cons, hx, ih h2]
    rfl

/-- There are as many values as source fields. -/
theorem sourceValues_length (s : State) : ∀ (rs es : List Reg), (s.sourceValues es rs).length = rs.length := by
  intro rs; induction rs with
  | nil => intros; rfl
  | cons r t ih => intro es; simp [State.sourceValues, ih]

/-- An instruction at its start has no answer of a waker. -/
theorem mark_fresh {s : State} (h : s.cur.phase = .fresh) : s.cur.mark = 0 := by simp [Proc.mark, h]

/-- A load whose accesses succeed (R214 to R218). -/
theorem load_ok {s : State} {sh : Shape} {vals : List Word} {align : Nat} {as : List (Word × Nat)} {tag} {f} {accs t bss u}
    (hm : s.cur.mark = 0) (hl : vals.length = sh.srcs.length) (h1 : LocatesAll .load align s as accs t) (h2 : ReadsAll t accs bss u) :
    s.load sh vals align as tag f = f vals bss u := by
  unfold State.load
  simp only [hm]
  rw [locateAll_ok _ _ _ _ _ _ _ h1]
  have e := loadAll_ok tag accs t [] bss u (accReplies accs []) (f vals) h2
  simpa [← hl, portReads_reads h2, State.readPorts] using e

/-- Granules that have their step entries are reserved (R198). -/
theorem reserveAll_ok (s0 : State) {rule key : Nat} : ∀ {gs : List Nat} {s u : State}, ReservesGranules rule key s gs u →
    ∀ (at_ : Nat → Word) (f : State → State), s0.reserveAll rule key gs at_ f s = f u
  | [], s, u, h, _, _ => by obtain rfl := h; rfl
  | g :: r, s, u, h, _, _ => by
    obtain ⟨x, hx, h'⟩ := h
    simp [State.reserveAll, hx, reserveAll_ok s0 h']

/-- Accesses that have their step entries are reserved (R198). -/
theorem reserveEach_ok (s0 : State) : ∀ {accs : List Machine.Acc} {s v : State}, ReservesAll s accs v →
    ∀ f : State → State, s0.reserveEach accs f s = f v
  | [], s, v, h, _ => by obtain rfl := h; rfl
  | a :: r, s, v, h, f => by
    obtain ⟨u, h1, h2⟩ := h
    unfold State.reserveEach reserveSpot
    cases hsp : a.spot with
    | step loc ru key =>
      simp only [hsp] at h1 ⊢
      rw [reserveAll_ok s0 h1, reserveEach_ok s0 h2]
    | _ => simp only [hsp] at h1 ⊢; rw [h1] at h2; exact reserveEach_ok s0 h2 f

/-- Reserving step entries leaves the store queue alone. -/
theorem reservesGranules_queueLength {rule key : Nat} : ∀ {gs : List Nat} {s u : State}, ReservesGranules rule key s gs u →
    u.queueLength = s.queueLength
  | [], s, u, h => by obtain rfl := h; rfl
  | g :: r, s, u, h => by
    obtain ⟨x, _, h'⟩ := h
    rw [reservesGranules_queueLength h']; rfl

theorem reservesAll_queueLength : ∀ {accs : List Machine.Acc} {s v : State}, ReservesAll s accs v →
    v.queueLength = s.queueLength
  | [], s, v, h => by obtain rfl := h; rfl
  | a :: r, s, v, h => by
    obtain ⟨u, h1, h2⟩ := h
    rw [reservesAll_queueLength h2]
    cases hsp : a.spot <;> simp only [hsp] at h1
    case step => exact reservesGranules_queueLength h1
    all_goals rw [h1]

/-- Stores with room in the queue and their step entries enter the queue (R173, R198). -/
theorem storeAll_ok {s0 : State} {accs : List Machine.Acc} {bs : List (List Byte)} {d : Desc} {f : State → State}
    {s v : State} (h : Puts accs bs d s v) : s0.storeAll accs bs d f s = f v := by
  obtain ⟨r, hq, h, rfl⟩ := h
  unfold State.storeAll
  simp only [hq, if_true, reserveEach_ok s0 h, State.enqueueAll, reservesAll_queueLength h]

/-- A drain that is complete (R178). -/
theorem afterDrain_ok {u : State} {dr : Drain} (h : Drained u dr) (f : State → State) : u.afterDrain dr f = f u := by
  obtain ⟨g1, g2⟩ := h
  unfold State.afterDrain
  cases hc : dr.covers <;> simp [g1, g2, hc]

/-- A release whose drain is complete (R179). -/
theorem release_ok {u : State} {c : Nat} (h : Released u c) (f : State → State) : u.release c f = f u := by
  unfold State.release
  split
  · next hc => exact afterDrain_ok (h hc) f
  · rfl

/-- An atomic performed at its home (R180, R220). -/
theorem atomicAt_ok {fix wait : State → State} {s : State} {ea n sp f d x k old u} (h : Performs s sp n f d x old u) :
    State.atomicAt fix wait ea n sp f d x k s = k old u := by
  unfold Performs at h
  cases sp with
  | mem loc key =>
    obtain ⟨bs, t, h1, rfl, rfl⟩ := h
    simp only [State.atomicAt]
    simp only at h1
    simp only [h1]
    cases f (leVal bs) <;> rfl
  | atomic loc key =>
    obtain ⟨bs, t, h1, rfl, rfl⟩ := h
    simp only [State.atomicAt, h1]
    cases f (leVal bs) <;> rfl
  | step loc rule key =>
    obtain ⟨bs, t, h1, h2, h3, rfl, rfl⟩ := h
    simp only [State.atomicAt, h1]
    simp only [Bool.false_eq_true, if_false]
    rw [reserveAll_ok _ h2]; simp [h3]
  | port a b c => exact h.elim

/-- An atomic performed at once is none of a host port. -/
theorem notPort {s : State} {sp n f d x old u} (h : Performs s sp n f d x old u) : ∀ a b c, sp ≠ .port a b c := by
  rintro a b c rfl; exact h

/-- An AMO or CAS whose access succeeds (R179, R219, R220). -/
theorem atomic_ok {s : State} {sh vals kind n order scope ea f d x req acc t old u} (hp : s.cur.phase = .fresh)
    (h1 : LocatesAll kind n s [(ea, n)] [acc] t) (h2 : 2 ≤ order → Released t scope) (h3 : Drained t .stores)
    (h4 : Performs t acc.spot n f d x old u) :
    s.atomic sh vals kind n order scope ea f d x req = u.doneWith sh (BitVec.ofNat 64 old) := by
  unfold State.atomic State.withReplies
  simp only [mark_fresh hp]
  simp only [show (0:Nat) = 2 ↔ False by decide, if_false, show (0:Nat) = 1 ↔ False by decide]
  rw [locateAll_ok _ _ _ _ _ _ _ h1]
  simp only [List.reverse_nil, List.nil_append, List.headD_cons]
  have np := notPort h4
  cases hs : acc.spot with
  | port a b c => exact absurd hs (np a b c)
  | _ =>
    rw [hs] at h4
    split
    · next ho => rw [release_ok (h2 ho)]; simp only [afterDrain_ok h3, atomicAt_ok h4]
    · simp only [afterDrain_ok h3, atomicAt_ok h4]

end Sys2Proof.Laws
end

