-- ==== Sys2Proof/Laws/PerInstr.lean ====
section
/-! SUPPORT. Sys2Proof/Laws/PerInstr.lean: one lemma per constructor of Instr. The word of every instruction has in bits 31
to 26 the major opcode that R54 gives its group; an event of the opcode table has no word. -/

namespace Sys2Proof.Laws.Enc

/-- The six most significant bits of a bit string. -/
def top6 {n : Nat} (x : BitVec n) : Nat := x.toNat / 2 ^ (n - 6)

/-- The most significant bits stay the most significant when more follow. -/
theorem top6_append {n v : Nat} (x : BitVec n) (y : BitVec v) (h : 6 ≤ n) : top6 (x ++ y) = top6 x := by
  have hy : y.toNat < 2 ^ v := y.isLt
  unfold top6
  rw [BitVec.toNat_append, ← Nat.shiftLeft_add_eq_or_of_lt hy, Nat.shiftLeft_eq, show n + v - 6 = v + (n - 6) by omega,
    Nat.pow_add, ← Nat.div_div_eq_div_mul, Nat.add_comm, Nat.add_mul_div_right _ _ (Nat.two_pow_pos v), Nat.div_eq_of_lt hy,
    Nat.zero_add]

/-- The major opcode of an instruction's group (R54); none for an event. -/
def major : Instr → Option Nat
  | .add _ _ _ | .sub _ _ _ | .mul _ _ _ | .mulh _ _ _ | .mulhz _ _ _ | .div _ _ _ | .divz _ _ _ | .rem _ _ _
  | .remz _ _ _ | .andR _ _ _ | .orR _ _ _ | .xorR _ _ _ | .andn _ _ _ | .shl _ _ _ | .shr _ _ _ | .sar _ _ _
  | .rot _ _ _ | .minS _ _ _ | .maxS _ _ _ | .minZ _ _ _ | .maxZ _ _ _ | .clz _ _ | .ctz _ _ | .popc _ _
  | .sext _ _ _ | .zext _ _ _ | .bfx _ _ _ | .bfi _ _ _ | .sel _ _ _ _ | .adda _ _ _ | .tags _ _ _ | .tagg _ _ => some 0x01
  | .addi _ _ _ => some 0x02
  | .andi _ _ _ => some 0x03
  | .ori _ _ _ => some 0x04
  | .xori _ _ _ => some 0x05
  | .shli _ _ _ | .shri _ _ _ | .sari _ _ _ | .roti _ _ _ => some 0x06
  | .movz _ _ _ => some 0x08
  | .movk _ _ _ => some 0x09
  | .cmp _ _ _ _ => some 0x0A
  | .cmpi _ _ _ _ => some 0x0B
  | .pand _ _ _ | .por _ _ _ | .pxor _ _ _ | .pandn _ _ _ | .pnor _ _ _ => some 0x0C
  | .br _ _ _ => some 0x0D
  | .j _ => some 0x0E
  | .jal _ => some 0x0F
  | .jalr _ _ => some 0x10
  | .fadd _ _ _ _ | .fsub _ _ _ _ | .fmul _ _ _ _ | .fma _ _ _ _ | .fdiv _ _ _ _ | .fsqrt _ _ _ | .fmin _ _ _ _
  | .fmax _ _ _ _ | .fcmp _ _ _ _ _ | .fcvtToS64 _ _ _ | .fcvtToZ64 _ _ _ | .fcvtFromS64 _ _ _ | .fcvtFromZ64 _ _ _
  | .fcvtFloat _ _ _ _ | .fclass _ _ _ | .ldt _ _ _ _ | .stt _ _ _ _ => some 0x11
  | .ld _ _ _ _ _ => some 0x12
  | .st _ _ _ _ => some 0x13
  | .lda _ _ _ _ _ | .stl _ _ _ _ _ => some 0x14
  | .amoAdd _ _ _ _ _ _ | .amoAnd _ _ _ _ _ _ | .amoOr _ _ _ _ _ _ | .amoXor _ _ _ _ _ _ | .amoMin _ _ _ _ _ _
  | .amoMax _ _ _ _ _ _ | .amoMinz _ _ _ _ _ _ | .amoMaxz _ _ _ _ _ _ | .amoSwap _ _ _ _ _ _ | .amoFadd _ _ _ _ _ _
  | .ordadd _ _ _ _ _ _ => some 0x15
  | .cas _ _ _ _ _ _ => some 0x16
  | .fence _ _ | .fencesc | .waita _ _ _ => some 0x17
  | .vadd _ _ _ _ _ | .vsub _ _ _ _ _ | .vmul _ _ _ _ _ | .vmulh _ _ _ _ _ | .vmin _ _ _ _ _ | .vmax _ _ _ _ _
  | .vshl _ _ _ _ _ | .vshr _ _ _ _ _ => some 0x18
  | .vfadd _ _ _ _ _ | .vfsub _ _ _ _ _ | .vfmul _ _ _ _ _ | .vfma _ _ _ _ _ | .vfmin _ _ _ _ _ | .vfmax _ _ _ _ _
  | .vfdiv _ _ _ _ _ | .vfsqrt _ _ _ _ => some 0x19
  | .vld _ _ _ _ | .vst _ _ _ _ | .vlds _ _ _ _ _ | .vsts _ _ _ _ _ | .vgath _ _ _ _ _ | .vscat _ _ _ _ _
  | .vldt _ _ _ _ | .vstt _ _ _ _ | .vamo _ _ _ _ _ => some 0x1A
  | .vcvt _ _ _ _ _ | .vqmx _ _ _ _ | .vdqmx _ _ _ _ _ | .vsexp _ _ _ _ | .vlut _ _ _ _ _ | .venc _ _ _ _ => some 0x1B
  | .vsfu _ _ _ _ _ | .vred _ _ _ _ _ | .vperm _ _ _ _ _ | .vbcast _ _ _ _ | .vext _ _ _ _ | .vins _ _ _ _
  | .vhash _ _ _ _ _ | .vpopc _ _ _ _ => some 0x1C
  | .vcmp _ _ _ _ _ _ | .vand _ _ _ _ | .vor _ _ _ _ | .vxor _ _ _ _ | .vandn _ _ _ _ | .mand _ _ _ | .mor _ _ _
  | .mxor _ _ _ | .mandn _ _ _ => some 0x1D
  | .tis _ _ _ _ => some 0x1E
  | .twait _ | .tstat _ | .setlut _ _ => some 0x1F
  | .outWord _ _ | .inWord _ _ | .outBlock _ _ _ | .inBlock _ _ _ | .chnew _ _ _ | .chbind _ _ _ | .chfree _
  | .chstat _ _ _ | .chsync _ _ | .tkt _ _ | .tktw _ _ => some 0x20
  | .alts _ | .altg _ _ | .altt _ _ | .altw _ _ | .altwF _ _ _ => some 0x21
  | .claim _ _ _ _ | .claimNb _ _ _ _ | .commit _ _ _ | .await _ _ _ _ | .awaitNb _ _ _ _ | .retire _ _ => some 0x22
  | .spawn _ _ _ | .stop | .yield | .setpri _ _ | .sleep _ | .time _ | .migr _ | .migb | .qmapPush _ _
  | .qmapPop _ _ | .qmapOff _ => some 0x23
  | .resume _ _ _ | .peekc _ _ _ | .pokec _ _ _ | .kill _ _ | .trap _ => some 0x24
  | .step _ | .stepn _ | .bari _ _ | .bara _ _ | .barx _ _ | .barw _ _ | .depdec _ _ => some 0x25
  | .almrec _ | .almslot _ _ _ | .almgrd _ | .almend _ | .almplay _ _ _ | .alminv _ | .almq _ _ => some 0x26
  | .gets _ _ | .sets _ _ | .tlbinv _ _ _ _ | .keyset _ _ | .keysetClr _ | .cflush _ _ | .cinv _ _ | .nop | .break => some 0x27
  | .unassignedEncoding _ | .fetchFault _ | .tnop _ | .tz _ | .tmma _ | .tsmma _ | .tldacc _ | .tst _ | .tew _
  | .tred _ | .tmov _ | .cpl _ | .cp2d _ | .cpg _ | .storePerform _ _ _ | .memoryReply _ _ _ | .memoryWaitPark _
  | .dispatch _ | .preempt _ | .sliceExpiry _ | .budgetExhausted _ | .contextSpill _ | .contextFill _
  | .arrivalWrite _ | .migrationArrival _ | .accept _ | .refuse _ | .space _ | .migrationResend _
  | .loadregRefresh _ | .heartbeatTick _ | .deadlineReached _ | .offer _ | .ack _ | .blockTransferDone _
  | .withdraw _ | .bind _ | .bindReply _ | .commitMessage _ | .returnMessage _ | .desync _ | .chsyncArrival _
  | .timeout _ | .peerUnreachable _ _ | .probeOriginate _ | .probe _ | .echo _ | .engagementExpiry _
  | .hangReport _ | .trapRecord _ | .translationWalk _ _ _ | .faultEntrySend _ _ _ | .replayCheck _
  | .replayStream _ | .replayDrainEnd _ | .stepSeal _ | .arrive _ | .call _ | .steplimExpiry _ | .entryStream _
  | .streamDone _ | .applied _ | .release _ | .launchWindowWrite _ _ _ _ _ | .depdecWrite _ _ _ _
  | .cancelWrite _ _ _ _ | .qctlWrite _ _ _ _ | .slotReport _ _ | .slotReportForward _ | .mirrorWrite _
  | .mirrorAck _ | .chunk _ | .chunkRefused _ | .chunkReport _ | .chunkReportResend _ _ | .countIncrement _
  | .countDecrement _ | .completionSend _ | .masterFailover _ | .jobCancel _ | .cancelAck _ | .drain _ | .drained _
  | .semRead _ _ _ | .semWrite _ _ _ _ | .cdomWrite _ _ | .cdomClearDone _ | .windowWrite _ _ _ _
  | .descriptorWrite _ _ _ _ | .hostEndpointWrite _ _ _ _ | .hostidxWrite _ _ _ | .pkgevtClear _ _
  | .stepctlWrite _ _ | .stepovfWrite _ _ | .registerWrite _ _ _ _ | .attestation _ _ | .attestationComplete _ _
  | .configuration _ _ | .beginImage _ _ | .imageBlock _ _ | .endImage _ _ | .imageVerifyComplete _
  | .unknownCommand _ _ _ | .hostMemoryWrite _ _ _ _ _ _ _ | .hostMemoryRead _ _ _ _ _ _ | .pcieLinkDown _ _
  | .packageReset _ | .bringupPhaseTimeout _ _ | .podFormation | .thermalThrottle _ _ | .thermalUnthrottle _ _
  | .thermalTrip _ _ | .linkCrcFail _ _ | .delanFrame _ _ _ | .linkRetrain _ _ | .retrainComplete _ _ _ _
  | .packageUnreachable _ | .correctedError _ _ _ | .uncorrectableError _ _ | .patrolScrub _ _ _ _
  | .dieFence _ _ _ | .baseDieFence _ _ _ | .remoteOperation _ | .remoteOperationReply _ | .maintenanceComplete _
  | .deviceLaunch _ | .bringupPhaseComplete _ _ _ | .windowClearDone _ _ | .pcieLinkUp _ _
  | .postedWriteFailure _ _ | .hbmRefreshPowerLoss _ => none

/-- The word of an instruction begins with its major opcode. -/
def Statement (i : Instr) : Prop := (encode i).map top6 = major i

theorem add (d : BitVec 5) (a : BitVec 5) (b : BitVec 5) : Statement (.add d a b) := congrArg some ((top6_append _ _ (by decide)).trans ((top6_append _ _ (by decide)).trans ((top6_append _ _ (by decide)).trans ((top6_append _ _ (by decide)).trans (rfl)))))
theorem sub (d : BitVec 5) (a : BitVec 5) (b : BitVec 5) : Statement (.sub d a b) := congrArg some ((top6_append _ _ (by decide)).trans ((top6_append _ _ (by decide)).trans ((top6_append _ _ (by decide)).trans ((top6_append _ _ (by decide)).trans (rfl)))))
theorem mul (d : BitVec 5) (a : BitVec 5) (b : BitVec 5) : Statement (.mul d a b) := congrArg some ((top6_append _ _ (by decide)).trans ((top6_append _ _ (by decide)).trans ((top6_append _ _ (by decide)).trans ((top6_append _ _ (by decide)).trans (rfl)))))
theorem mulh (d : BitVec 5) (a : BitVec 5) (b : BitVec 5) : Statement (.mulh d a b) := congrArg some ((top6_append _ _ (by decide)).trans ((top6_append _ _ (by decide)).trans ((top6_append _ _ (by decide)).trans ((top6_append _ _ (by decide)).trans (rfl)))))
theorem mulhz (d : BitVec 5) (a : BitVec 5) (b : BitVec 5) : Statement (.mulhz d a b) := congrArg some ((top6_append _ _ (by decide)).trans ((top6_append _ _ (by decide)).trans ((top6_append _ _ (by decide)).trans ((top6_append _ _ (by decide)).trans (rfl)))))
theorem div (d : BitVec 5) (a : BitVec 5) (b : BitVec 5) : Statement (.div d a b) := congrArg some ((top6_append _ _ (by decide)).trans ((top6_append _ _ (by decide)).trans ((top6_append _ _ (by decide)).trans ((top6_append _ _ (by decide)).trans (rfl)))))
theorem divz (d : BitVec 5) (a : BitVec 5) (b : BitVec 5) : Statement (.divz d a b) := congrArg some ((top6_append _ _ (by decide)).trans ((top6_append _ _ (by decide)).trans ((top6_append _ _ (by decide)).trans ((top6_append _ _ (by decide)).trans (rfl)))))
theorem rem (d : BitVec 5) (a : BitVec 5) (b : BitVec 5) : Statement (.rem d a b) := congrArg some ((top6_append _ _ (by decide)).trans ((top6_append _ _ (by decide)).trans ((top6_append _ _ (by decide)).trans ((top6_append _ _ (by decide)).trans (rfl)))))
theorem remz (d : BitVec 5) (a : BitVec 5) (b : BitVec 5) : Statement (.remz d a b) := congrArg some ((top6_append _ _ (by decide)).trans ((top6_append _ _ (by decide)).trans ((top6_append _ _ (by decide)).trans ((top6_append _ _ (by decide)).trans (rfl)))))
theorem andR (d : BitVec 5) (a : BitVec 5) (b : BitVec 5) : Statement (.andR d a b) := congrArg some ((top6_append _ _ (by decide)).trans ((top6_append _ _ (by decide)).trans ((top6_append _ _ (by decide)).trans ((top6_append _ _ (by decide)).trans (rfl)))))
theorem orR (d : BitVec 5) (a : BitVec 5) (b : BitVec 5) : Statement (.orR d a b) := congrArg some ((top6_append _ _ (by decide)).trans ((top6_append _ _ (by decide)).trans ((top6_append _ _ (by decide)).trans ((top6_append _ _ (by decide)).trans (rfl)))))
theorem xorR (d : BitVec 5) (a : BitVec 5) (b : BitVec 5) : Statement (.xorR d a b) := congrArg some ((top6_append _ _ (by decide)).trans ((top6_append _ _ (by decide)).trans ((top6_append _ _ (by decide)).trans ((top6_append _ _ (by decide)).trans (rfl)))))
theorem andn (d : BitVec 5) (a : BitVec 5) (b : BitVec 5) : Statement (.andn d a b) := congrArg some ((top6_append _ _ (by decide)).trans ((top6_append _ _ (by decide)).trans ((top6_append _ _ (by decide)).trans ((top6_append _ _ (by decide)).trans (rfl)))))
theorem shl (d : BitVec 5) (a : BitVec 5) (b : BitVec 5) : Statement (.shl d a b) := congrArg some ((top6_append _ _ (by decide)).trans ((top6_append _ _ (by decide)).trans ((top6_append _ _ (by decide)).trans ((top6_append _ _ (by decide)).trans (rfl)))))
theorem shr (d : BitVec 5) (a : BitVec 5) (b : BitVec 5) : Statement (.shr d a b) := congrArg some ((top6_append _ _ (by decide)).trans ((top6_append _ _ (by decide)).trans ((top6_append _ _ (by decide)).trans ((top6_append _ _ (by decide)).trans (rfl)))))
theorem sar (d : BitVec 5) (a : BitVec 5) (b : BitVec 5) : Statement (.sar d a b) := congrArg some ((top6_append _ _ (by decide)).trans ((top6_append _ _ (by decide)).trans ((top6_append _ _ (by decide)).trans ((top6_append _ _ (by decide)).trans (rfl)))))
theorem rot (d : BitVec 5) (a : BitVec 5) (b : BitVec 5) : Statement (.rot d a b) := congrArg some ((top6_append _ _ (by decide)).trans ((top6_append _ _ (by decide)).trans ((top6_append _ _ (by decide)).trans ((top6_append _ _ (by decide)).trans (rfl)))))
theorem minS (d : BitVec 5) (a : BitVec 5) (b : BitVec 5) : Statement (.minS d a b) := congrArg some ((top6_append _ _ (by decide)).trans ((top6_append _ _ (by decide)).trans ((top6_append _ _ (by decide)).trans ((top6_append _ _ (by decide)).trans (rfl)))))
theorem maxS (d : BitVec 5) (a : BitVec 5) (b : BitVec 5) : Statement (.maxS d a b) := congrArg some ((top6_append _ _ (by decide)).trans ((top6_append _ _ (by decide)).trans ((top6_append _ _ (by decide)).trans ((top6_append _ _ (by decide)).trans (rfl)))))
theorem minZ (d : BitVec 5) (a : BitVec 5) (b : BitVec 5) : Statement (.minZ d a b) := congrArg some ((top6_append _ _ (by decide)).trans ((top6_append _ _ (by decide)).trans ((top6_append _ _ (by decide)).trans ((top6_append _ _ (by decide)).trans (rfl)))))
theorem maxZ (d : BitVec 5) (a : BitVec 5) (b : BitVec 5) : Statement (.maxZ d a b) := congrArg some ((top6_append _ _ (by decide)).trans ((top6_append _ _ (by decide)).trans ((top6_append _ _ (by decide)).trans ((top6_append _ _ (by decide)).trans (rfl)))))
theorem clz (d : BitVec 5) (a : BitVec 5) : Statement (.clz d a) := congrArg some ((top6_append _ _ (by decide)).trans ((top6_append _ _ (by decide)).trans ((top6_append _ _ (by decide)).trans (rfl))))
theorem ctz (d : BitVec 5) (a : BitVec 5) : Statement (.ctz d a) := congrArg some ((top6_append _ _ (by decide)).trans ((top6_append _ _ (by decide)).trans ((top6_append _ _ (by decide)).trans (rfl))))
theorem popc (d : BitVec 5) (a : BitVec 5) : Statement (.popc d a) := congrArg some ((top6_append _ _ (by decide)).trans ((top6_append _ _ (by decide)).trans ((top6_append _ _ (by decide)).trans (rfl))))
theorem sext (d : BitVec 5) (a : BitVec 5) (w : BitVec 2) : Statement (.sext d a w) := congrArg some ((top6_append _ _ (by decide)).trans ((top6_append _ _ (by decide)).trans ((top6_append _ _ (by decide)).trans ((top6_append _ _ (by decide)).trans ((top6_append _ _ (by decide)).trans (rfl))))))
theorem zext (d : BitVec 5) (a : BitVec 5) (w : BitVec 2) : Statement (.zext d a w) := congrArg some ((top6_append _ _ (by decide)).trans ((top6_append _ _ (by decide)).trans ((top6_append _ _ (by decide)).trans ((top6_append _ _ (by decide)).trans ((top6_append _ _ (by decide)).trans (rfl))))))
theorem bfx (d : BitVec 5) (a : BitVec 5) (b : BitVec 5) : Statement (.bfx d a b) := congrArg some ((top6_append _ _ (by decide)).trans ((top6_append _ _ (by decide)).trans ((top6_append _ _ (by decide)).trans ((top6_append _ _ (by decide)).trans (rfl)))))
theorem bfi (d : BitVec 5) (a : BitVec 5) (b : BitVec 5) : Statement (.bfi d a b) := congrArg some ((top6_append _ _ (by decide)).trans ((top6_append _ _ (by decide)).trans ((top6_append _ _ (by decide)).trans ((top6_append _ _ (by decide)).trans (rfl)))))
theorem sel (d : BitVec 5) (a : BitVec 5) (b : BitVec 5) (p : BitVec 3) : Statement (.sel d a b p) := congrArg some ((top6_append _ _ (by decide)).trans ((top6_append _ _ (by decide)).trans ((top6_append _ _ (by decide)).trans ((top6_append _ _ (by decide)).trans ((top6_append _ _ (by decide)).trans ((top6_append _ _ (by decide)).trans (rfl)))))))
theorem adda (d : BitVec 5) (a : BitVec 5) (b : BitVec 5) : Statement (.adda d a b) := congrArg some ((top6_append _ _ (by decide)).trans ((top6_append _ _ (by decide)).trans ((top6_append _ _ (by decide)).trans ((top6_append _ _ (by decide)).trans (rfl)))))
theorem tags (d : BitVec 5) (a : BitVec 5) (b : BitVec 5) : Statement (.tags d a b) := congrArg some ((top6_append _ _ (by decide)).trans ((top6_append _ _ (by decide)).trans ((top6_append _ _ (by decide)).trans ((top6_append _ _ (by decide)).trans (rfl)))))
theorem tagg (d : BitVec 5) (a : BitVec 5) : Statement (.tagg d a) := congrArg some ((top6_append _ _ (by decide)).trans ((top6_append _ _ (by decide)).trans ((top6_append _ _ (by decide)).trans (rfl))))
theorem addi (d : BitVec 5) (a : BitVec 5) (i : BitVec 16) : Statement (.addi d a i) := congrArg some ((top6_append _ _ (by decide)).trans ((top6_append _ _ (by decide)).trans ((top6_append _ _ (by decide)).trans (rfl))))
theorem andi (d : BitVec 5) (a : BitVec 5) (i : BitVec 16) : Statement (.andi d a i) := congrArg some ((top6_append _ _ (by decide)).trans ((top6_append _ _ (by decide)).trans ((top6_append _ _ (by decide)).trans (rfl))))
theorem ori (d : BitVec 5) (a : BitVec 5) (i : BitVec 16) : Statement (.ori d a i) := congrArg some ((top6_append _ _ (by decide)).trans ((top6_append _ _ (by decide)).trans ((top6_append _ _ (by decide)).trans (rfl))))
theorem xori (d : BitVec 5) (a : BitVec 5) (i : BitVec 16) : Statement (.xori d a i) := congrArg some ((top6_append _ _ (by decide)).trans ((top6_append _ _ (by decide)).trans ((top6_append _ _ (by decide)).trans (rfl))))
theorem shli (d : BitVec 5) (a : BitVec 5) (n : BitVec 6) : Statement (.shli d a n) := congrArg some ((top6_append _ _ (by decide)).trans ((top6_append _ _ (by decide)).trans ((top6_append _ _ (by decide)).trans ((top6_append _ _ (by decide)).trans (rfl)))))
theorem shri (d : BitVec 5) (a : BitVec 5) (n : BitVec 6) : Statement (.shri d a n) := congrArg some ((top6_append _ _ (by decide)).trans ((top6_append _ _ (by decide)).trans ((top6_append _ _ (by decide)).trans ((top6_append _ _ (by decide)).trans (rfl)))))
theorem sari (d : BitVec 5) (a : BitVec 5) (n : BitVec 6) : Statement (.sari d a n) := congrArg some ((top6_append _ _ (by decide)).trans ((top6_append _ _ (by decide)).trans ((top6_append _ _ (by decide)).trans ((top6_append _ _ (by decide)).trans (rfl)))))
theorem roti (d : BitVec 5) (a : BitVec 5) (n : BitVec 6) : Statement (.roti d a n) := congrArg some ((top6_append _ _ (by decide)).trans ((top6_append _ _ (by decide)).trans ((top6_append _ _ (by decide)).trans ((top6_append _ _ (by decide)).trans (rfl)))))
theorem movz (d : BitVec 5) (s : BitVec 2) (i : BitVec 16) : Statement (.movz d s i) := congrArg some ((top6_append _ _ (by decide)).trans ((top6_append _ _ (by decide)).trans ((top6_append _ _ (by decide)).trans ((top6_append _ _ (by decide)).trans (rfl)))))
theorem movk (d : BitVec 5) (s : BitVec 2) (i : BitVec 16) : Statement (.movk d s i) := congrArg some ((top6_append _ _ (by decide)).trans ((top6_append _ _ (by decide)).trans ((top6_append _ _ (by decide)).trans ((top6_append _ _ (by decide)).trans (rfl)))))
theorem cmp (d : BitVec 3) (a : BitVec 5) (b : BitVec 5) (c : BitVec 4) : Statement (.cmp d a b c) := congrArg some ((top6_append _ _ (by decide)).trans ((top6_append _ _ (by decide)).trans ((top6_append _ _ (by decide)).trans ((top6_append _ _ (by decide)).trans ((top6_append _ _ (by decide)).trans ((top6_append _ _ (by decide)).trans (rfl)))))))
theorem cmpi (p : BitVec 3) (c : BitVec 3) (a : BitVec 5) (i : BitVec 15) : Statement (.cmpi p c a i) := congrArg some ((top6_append _ _ (by decide)).trans ((top6_append _ _ (by decide)).trans ((top6_append _ _ (by decide)).trans ((top6_append _ _ (by decide)).trans (rfl)))))
theorem pand (d : BitVec 3) (a : BitVec 3) (b : BitVec 3) : Statement (.pand d a b) := congrArg some ((top6_append _ _ (by decide)).trans ((top6_append _ _ (by decide)).trans ((top6_append _ _ (by decide)).trans ((top6_append _ _ (by decide)).trans ((top6_append _ _ (by decide)).trans ((top6_append _ _ (by decide)).trans ((top6_append _ _ (by decide)).trans (rfl))))))))
theorem por (d : BitVec 3) (a : BitVec 3) (b : BitVec 3) : Statement (.por d a b) := congrArg some ((top6_append _ _ (by decide)).trans ((top6_append _ _ (by decide)).trans ((top6_append _ _ (by decide)).trans ((top6_append _ _ (by decide)).trans ((top6_append _ _ (by decide)).trans ((top6_append _ _ (by decide)).trans ((top6_append _ _ (by decide)).trans (rfl))))))))
theorem pxor (d : BitVec 3) (a : BitVec 3) (b : BitVec 3) : Statement (.pxor d a b) := congrArg some ((top6_append _ _ (by decide)).trans ((top6_append _ _ (by decide)).trans ((top6_append _ _ (by decide)).trans ((top6_append _ _ (by decide)).trans ((top6_append _ _ (by decide)).trans ((top6_append _ _ (by decide)).trans ((top6_append _ _ (by decide)).trans (rfl))))))))
theorem pandn (d : BitVec 3) (a : BitVec 3) (b : BitVec 3) : Statement (.pandn d a b) := congrArg some ((top6_append _ _ (by decide)).trans ((top6_append _ _ (by decide)).trans ((top6_append _ _ (by decide)).trans ((top6_append _ _ (by decide)).trans ((top6_append _ _ (by decide)).trans ((top6_append _ _ (by decide)).trans ((top6_append _ _ (by decide)).trans (rfl))))))))
theorem pnor (d : BitVec 3) (a : BitVec 3) (b : BitVec 3) : Statement (.pnor d a b) := congrArg some ((top6_append _ _ (by decide)).trans ((top6_append _ _ (by decide)).trans ((top6_append _ _ (by decide)).trans ((top6_append _ _ (by decide)).trans ((top6_append _ _ (by decide)).trans ((top6_append _ _ (by decide)).trans ((top6_append _ _ (by decide)).trans (rfl))))))))
theorem br (p : BitVec 3) (n : BitVec 1) (d : BitVec 22) : Statement (.br p n d) := congrArg some ((top6_append _ _ (by decide)).trans ((top6_append _ _ (by decide)).trans ((top6_append _ _ (by decide)).trans (rfl))))
theorem j (d : BitVec 26) : Statement (.j d) := congrArg some ((top6_append _ _ (by decide)).trans (rfl))
theorem jal (d : BitVec 26) : Statement (.jal d) := congrArg some ((top6_append _ _ (by decide)).trans (rfl))
theorem jalr (d : BitVec 5) (a : BitVec 5) : Statement (.jalr d a) := congrArg some ((top6_append _ _ (by decide)).trans ((top6_append _ _ (by decide)).trans ((top6_append _ _ (by decide)).trans (rfl))))
theorem fadd (d : BitVec 5) (a : BitVec 5) (b : BitVec 5) (t : BitVec 2) : Statement (.fadd d a b t) := congrArg some ((top6_append _ _ (by decide)).trans ((top6_append _ _ (by decide)).trans ((top6_append _ _ (by decide)).trans ((top6_append _ _ (by decide)).trans ((top6_append _ _ (by decide)).trans ((top6_append _ _ (by decide)).trans (rfl)))))))
theorem fsub (d : BitVec 5) (a : BitVec 5) (b : BitVec 5) (t : BitVec 2) : Statement (.fsub d a b t) := congrArg some ((top6_append _ _ (by decide)).trans ((top6_append _ _ (by decide)).trans ((top6_append _ _ (by decide)).trans ((top6_append _ _ (by decide)).trans ((top6_append _ _ (by decide)).trans ((top6_append _ _ (by decide)).trans (rfl)))))))
theorem fmul (d : BitVec 5) (a : BitVec 5) (b : BitVec 5) (t : BitVec 2) : Statement (.fmul d a b t) := congrArg some ((top6_append _ _ (by decide)).trans ((top6_append _ _ (by decide)).trans ((top6_append _ _ (by decide)).trans ((top6_append _ _ (by decide)).trans ((top6_append _ _ (by decide)).trans ((top6_append _ _ (by decide)).trans (rfl)))))))
theorem fma (d : BitVec 5) (a : BitVec 5) (b : BitVec 5) (t : BitVec 2) : Statement (.fma d a b t) := congrArg some ((top6_append _ _ (by decide)).trans ((top6_append _ _ (by decide)).trans ((top6_append _ _ (by decide)).trans ((top6_append _ _ (by decide)).trans ((top6_append _ _ (by decide)).trans ((top6_append _ _ (by decide)).trans (rfl)))))))
theorem fdiv (d : BitVec 5) (a : BitVec 5) (b : BitVec 5) (t : BitVec 2) : Statement (.fdiv d a b t) := congrArg some ((top6_append _ _ (by decide)).trans ((top6_append _ _ (by decide)).trans ((top6_append _ _ (by decide)).trans ((top6_append _ _ (by decide)).trans ((top6_append _ _ (by decide)).trans ((top6_append _ _ (by decide)).trans (rfl)))))))
theorem fsqrt (d : BitVec 5) (a : BitVec 5) (t : BitVec 2) : Statement (.fsqrt d a t) := congrArg some ((top6_append _ _ (by decide)).trans ((top6_append _ _ (by decide)).trans ((top6_append _ _ (by decide)).trans ((top6_append _ _ (by decide)).trans ((top6_append _ _ (by decide)).trans (rfl))))))
theorem fmin (d : BitVec 5) (a : BitVec 5) (b : BitVec 5) (t : BitVec 2) : Statement (.fmin d a b t) := congrArg some ((top6_append _ _ (by decide)).trans ((top6_append _ _ (by decide)).trans ((top6_append _ _ (by decide)).trans ((top6_append _ _ (by decide)).trans ((top6_append _ _ (by decide)).trans ((top6_append _ _ (by decide)).trans (rfl)))))))
theorem fmax (d : BitVec 5) (a : BitVec 5) (b : BitVec 5) (t : BitVec 2) : Statement (.fmax d a b t) := congrArg some ((top6_append _ _ (by decide)).trans ((top6_append _ _ (by decide)).trans ((top6_append _ _ (by decide)).trans ((top6_append _ _ (by decide)).trans ((top6_append _ _ (by decide)).trans ((top6_append _ _ (by decide)).trans (rfl)))))))
theorem fcmp (d : BitVec 3) (a : BitVec 5) (b : BitVec 5) (c : BitVec 2) (t : BitVec 2) : Statement (.fcmp d a b c t) := congrArg some ((top6_append _ _ (by decide)).trans ((top6_append _ _ (by decide)).trans ((top6_append _ _ (by decide)).trans ((top6_append _ _ (by decide)).trans ((top6_append _ _ (by decide)).trans ((top6_append _ _ (by decide)).trans ((top6_append _ _ (by decide)).trans ((top6_append _ _ (by decide)).trans (rfl)))))))))
theorem fcvtToS64 (d : BitVec 5) (a : BitVec 5) (t : BitVec 2) : Statement (.fcvtToS64 d a t) := congrArg some ((top6_append _ _ (by decide)).trans ((top6_append _ _ (by decide)).trans ((top6_append _ _ (by decide)).trans ((top6_append _ _ (by decide)).trans ((top6_append _ _ (by decide)).trans (rfl))))))
theorem fcvtToZ64 (d : BitVec 5) (a : BitVec 5) (t : BitVec 2) : Statement (.fcvtToZ64 d a t) := congrArg some ((top6_append _ _ (by decide)).trans ((top6_append _ _ (by decide)).trans ((top6_append _ _ (by decide)).trans ((top6_append _ _ (by decide)).trans ((top6_append _ _ (by decide)).trans (rfl))))))
theorem fcvtFromS64 (d : BitVec 5) (a : BitVec 5) (t : BitVec 2) : Statement (.fcvtFromS64 d a t) := congrArg some ((top6_append _ _ (by decide)).trans ((top6_append _ _ (by decide)).trans ((top6_append _ _ (by decide)).trans ((top6_append _ _ (by decide)).trans ((top6_append _ _ (by decide)).trans (rfl))))))
theorem fcvtFromZ64 (d : BitVec 5) (a : BitVec 5) (t : BitVec 2) : Statement (.fcvtFromZ64 d a t) := congrArg some ((top6_append _ _ (by decide)).trans ((top6_append _ _ (by decide)).trans ((top6_append _ _ (by decide)).trans ((top6_append _ _ (by decide)).trans ((top6_append _ _ (by decide)).trans (rfl))))))
theorem fcvtFloat (d : BitVec 5) (a : BitVec 5) (g : BitVec 2) (t : BitVec 2) : Statement (.fcvtFloat d a g t) := congrArg some ((top6_append _ _ (by decide)).trans ((top6_append _ _ (by decide)).trans ((top6_append _ _ (by decide)).trans ((top6_append _ _ (by decide)).trans ((top6_append _ _ (by decide)).trans ((top6_append _ _ (by decide)).trans ((top6_append _ _ (by decide)).trans (rfl))))))))
theorem fclass (d : BitVec 5) (a : BitVec 5) (t : BitVec 2) : Statement (.fclass d a t) := congrArg some ((top6_append _ _ (by decide)).trans ((top6_append _ _ (by decide)).trans ((top6_append _ _ (by decide)).trans ((top6_append _ _ (by decide)).trans ((top6_append _ _ (by decide)).trans (rfl))))))
theorem ldt (d : BitVec 5) (a : BitVec 5) (b : BitVec 5) (t : BitVec 2) : Statement (.ldt d a b t) := congrArg some ((top6_append _ _ (by decide)).trans ((top6_append _ _ (by decide)).trans ((top6_append _ _ (by decide)).trans ((top6_append _ _ (by decide)).trans ((top6_append _ _ (by decide)).trans ((top6_append _ _ (by decide)).trans (rfl)))))))
theorem stt (d : BitVec 5) (a : BitVec 5) (b : BitVec 5) (t : BitVec 2) : Statement (.stt d a b t) := congrArg some ((top6_append _ _ (by decide)).trans ((top6_append _ _ (by decide)).trans ((top6_append _ _ (by decide)).trans ((top6_append _ _ (by decide)).trans ((top6_append _ _ (by decide)).trans ((top6_append _ _ (by decide)).trans (rfl)))))))
theorem ld (d : BitVec 5) (a : BitVec 5) (z : BitVec 2) (s : BitVec 1) (o : BitVec 10) : Statement (.ld d a z s o) := congrArg some ((top6_append _ _ (by decide)).trans ((top6_append _ _ (by decide)).trans ((top6_append _ _ (by decide)).trans ((top6_append _ _ (by decide)).trans ((top6_append _ _ (by decide)).trans ((top6_append _ _ (by decide)).trans (rfl)))))))
theorem st (d : BitVec 5) (a : BitVec 5) (z : BitVec 2) (o : BitVec 10) : Statement (.st d a z o) := congrArg some ((top6_append _ _ (by decide)).trans ((top6_append _ _ (by decide)).trans ((top6_append _ _ (by decide)).trans ((top6_append _ _ (by decide)).trans ((top6_append _ _ (by decide)).trans (rfl))))))
theorem lda (d : BitVec 5) (a : BitVec 5) (z : BitVec 2) (c : BitVec 4) (o : BitVec 9) : Statement (.lda d a z c o) := congrArg some ((top6_append _ _ (by decide)).trans ((top6_append _ _ (by decide)).trans ((top6_append _ _ (by decide)).trans ((top6_append _ _ (by decide)).trans ((top6_append _ _ (by decide)).trans ((top6_append _ _ (by decide)).trans (rfl)))))))
theorem stl (d : BitVec 5) (a : BitVec 5) (z : BitVec 2) (c : BitVec 4) (o : BitVec 9) : Statement (.stl d a z c o) := congrArg some ((top6_append _ _ (by decide)).trans ((top6_append _ _ (by decide)).trans ((top6_append _ _ (by decide)).trans ((top6_append _ _ (by decide)).trans ((top6_append _ _ (by decide)).trans ((top6_append _ _ (by decide)).trans (rfl)))))))
theorem amoAdd (d : BitVec 5) (a : BitVec 5) (b : BitVec 5) (z : BitVec 1) (c : BitVec 4) (o : BitVec 2) : Statement (.amoAdd d a b z c o) := congrArg some ((top6_append _ _ (by decide)).trans ((top6_append _ _ (by decide)).trans ((top6_append _ _ (by decide)).trans ((top6_append _ _ (by decide)).trans ((top6_append _ _ (by decide)).trans ((top6_append _ _ (by decide)).trans ((top6_append _ _ (by decide)).trans (rfl))))))))
theorem amoAnd (d : BitVec 5) (a : BitVec 5) (b : BitVec 5) (z : BitVec 1) (c : BitVec 4) (o : BitVec 2) : Statement (.amoAnd d a b z c o) := congrArg some ((top6_append _ _ (by decide)).trans ((top6_append _ _ (by decide)).trans ((top6_append _ _ (by decide)).trans ((top6_append _ _ (by decide)).trans ((top6_append _ _ (by decide)).trans ((top6_append _ _ (by decide)).trans ((top6_append _ _ (by decide)).trans (rfl))))))))
theorem amoOr (d : BitVec 5) (a : BitVec 5) (b : BitVec 5) (z : BitVec 1) (c : BitVec 4) (o : BitVec 2) : Statement (.amoOr d a b z c o) := congrArg some ((top6_append _ _ (by decide)).trans ((top6_append _ _ (by decide)).trans ((top6_append _ _ (by decide)).trans ((top6_append _ _ (by decide)).trans ((top6_append _ _ (by decide)).trans ((top6_append _ _ (by decide)).trans ((top6_append _ _ (by decide)).trans (rfl))))))))
theorem amoXor (d : BitVec 5) (a : BitVec 5) (b : BitVec 5) (z : BitVec 1) (c : BitVec 4) (o : BitVec 2) : Statement (.amoXor d a b z c o) := congrArg some ((top6_append _ _ (by decide)).trans ((top6_append _ _ (by decide)).trans ((top6_append _ _ (by decide)).trans ((top6_append _ _ (by decide)).trans ((top6_append _ _ (by decide)).trans ((top6_append _ _ (by decide)).trans ((top6_append _ _ (by decide)).trans (rfl))))))))
theorem amoMin (d : BitVec 5) (a : BitVec 5) (b : BitVec 5) (z : BitVec 1) (c : BitVec 4) (o : BitVec 2) : Statement (.amoMin d a b z c o) := congrArg some ((top6_append _ _ (by decide)).trans ((top6_append _ _ (by decide)).trans ((top6_append _ _ (by decide)).trans ((top6_append _ _ (by decide)).trans ((top6_append _ _ (by decide)).trans ((top6_append _ _ (by decide)).trans ((top6_append _ _ (by decide)).trans (rfl))))))))
theorem amoMax (d : BitVec 5) (a : BitVec 5) (b : BitVec 5) (z : BitVec 1) (c : BitVec 4) (o : BitVec 2) : Statement (.amoMax d a b z c o) := congrArg some ((top6_append _ _ (by decide)).trans ((top6_append _ _ (by decide)).trans ((top6_append _ _ (by decide)).trans ((top6_append _ _ (by decide)).trans ((top6_append _ _ (by decide)).trans ((top6_append _ _ (by decide)).trans ((top6_append _ _ (by decide)).trans (rfl))))))))
theorem amoMinz (d : BitVec 5) (a : BitVec 5) (b : BitVec 5) (z : BitVec 1) (c : BitVec 4) (o : BitVec 2) : Statement (.amoMinz d a b z c o) := congrArg some ((top6_append _ _ (by decide)).trans ((top6_append _ _ (by decide)).trans ((top6_append _ _ (by decide)).trans ((top6_append _ _ (by decide)).trans ((top6_append _ _ (by decide)).trans ((top6_append _ _ (by decide)).trans ((top6_append _ _ (by decide)).trans (rfl))))))))
theorem amoMaxz (d : BitVec 5) (a : BitVec 5) (b : BitVec 5) (z : BitVec 1) (c : BitVec 4) (o : BitVec 2) : Statement (.amoMaxz d a b z c o) := congrArg some ((top6_append _ _ (by decide)).trans ((top6_append _ _ (by decide)).trans ((top6_append _ _ (by decide)).trans ((top6_append _ _ (by decide)).trans ((top6_append _ _ (by decide)).trans ((top6_append _ _ (by decide)).trans ((top6_append _ _ (by decide)).trans (rfl))))))))
theorem amoSwap (d : BitVec 5) (a : BitVec 5) (b : BitVec 5) (z : BitVec 1) (c : BitVec 4) (o : BitVec 2) : Statement (.amoSwap d a b z c o) := congrArg some ((top6_append _ _ (by decide)).trans ((top6_append _ _ (by decide)).trans ((top6_append _ _ (by decide)).trans ((top6_append _ _ (by decide)).trans ((top6_append _ _ (by decide)).trans ((top6_append _ _ (by decide)).trans ((top6_append _ _ (by decide)).trans (rfl))))))))
theorem amoFadd (d : BitVec 5) (a : BitVec 5) (b : BitVec 5) (z : BitVec 1) (c : BitVec 4) (o : BitVec 2) : Statement (.amoFadd d a b z c o) := congrArg some ((top6_append _ _ (by decide)).trans ((top6_append _ _ (by decide)).trans ((top6_append _ _ (by decide)).trans ((top6_append _ _ (by decide)).trans ((top6_append _ _ (by decide)).trans ((top6_append _ _ (by decide)).trans ((top6_append _ _ (by decide)).trans (rfl))))))))
theorem ordadd (d : BitVec 5) (a : BitVec 5) (b : BitVec 5) (z : BitVec 1) (c : BitVec 4) (o : BitVec 2) : Statement (.ordadd d a b z c o) := congrArg some ((top6_append _ _ (by decide)).trans ((top6_append _ _ (by decide)).trans ((top6_append _ _ (by decide)).trans ((top6_append _ _ (by decide)).trans ((top6_append _ _ (by decide)).trans ((top6_append _ _ (by decide)).trans ((top6_append _ _ (by decide)).trans (rfl))))))))
theorem cas (d : BitVec 5) (a : BitVec 5) (b : BitVec 5) (z : BitVec 1) (c : BitVec 4) (o : BitVec 2) : Statement (.cas d a b z c o) := congrArg some ((top6_append _ _ (by decide)).trans ((top6_append _ _ (by decide)).trans ((top6_append _ _ (by decide)).trans ((top6_append _ _ (by decide)).trans ((top6_append _ _ (by decide)).trans ((top6_append _ _ (by decide)).trans ((top6_append _ _ (by decide)).trans (rfl))))))))
theorem fence (c : BitVec 4) (o : BitVec 4) : Statement (.fence c o) := congrArg some ((top6_append _ _ (by decide)).trans ((top6_append _ _ (by decide)).trans ((top6_append _ _ (by decide)).trans ((top6_append _ _ (by decide)).trans (rfl)))))
theorem fencesc : Statement (.fencesc) := congrArg some ((top6_append _ _ (by decide)).trans (rfl))
theorem waita (d : BitVec 5) (a : BitVec 5) (b : BitVec 5) : Statement (.waita d a b) := congrArg some ((top6_append _ _ (by decide)).trans ((top6_append _ _ (by decide)).trans ((top6_append _ _ (by decide)).trans ((top6_append _ _ (by decide)).trans (rfl)))))
theorem vadd (d : BitVec 5) (a : BitVec 5) (b : BitVec 5) (t : BitVec 4) (m : BitVec 4) : Statement (.vadd d a b t m) := congrArg some ((top6_append _ _ (by decide)).trans ((top6_append _ _ (by decide)).trans ((top6_append _ _ (by decide)).trans ((top6_append _ _ (by decide)).trans ((top6_append _ _ (by decide)).trans ((top6_append _ _ (by decide)).trans (rfl)))))))
theorem vsub (d : BitVec 5) (a : BitVec 5) (b : BitVec 5) (t : BitVec 4) (m : BitVec 4) : Statement (.vsub d a b t m) := congrArg some ((top6_append _ _ (by decide)).trans ((top6_append _ _ (by decide)).trans ((top6_append _ _ (by decide)).trans ((top6_append _ _ (by decide)).trans ((top6_append _ _ (by decide)).trans ((top6_append _ _ (by decide)).trans (rfl)))))))
theorem vmul (d : BitVec 5) (a : BitVec 5) (b : BitVec 5) (t : BitVec 4) (m : BitVec 4) : Statement (.vmul d a b t m) := congrArg some ((top6_append _ _ (by decide)).trans ((top6_append _ _ (by decide)).trans ((top6_append _ _ (by decide)).trans ((top6_append _ _ (by decide)).trans ((top6_append _ _ (by decide)).trans ((top6_append _ _ (by decide)).trans (rfl)))))))
theorem vmulh (d : BitVec 5) (a : BitVec 5) (b : BitVec 5) (t : BitVec 4) (m : BitVec 4) : Statement (.vmulh d a b t m) := congrArg some ((top6_append _ _ (by decide)).trans ((top6_append _ _ (by decide)).trans ((top6_append _ _ (by decide)).trans ((top6_append _ _ (by decide)).trans ((top6_append _ _ (by decide)).trans ((top6_append _ _ (by decide)).trans (rfl)))))))
theorem vmin (d : BitVec 5) (a : BitVec 5) (b : BitVec 5) (t : BitVec 4) (m : BitVec 4) : Statement (.vmin d a b t m) := congrArg some ((top6_append _ _ (by decide)).trans ((top6_append _ _ (by decide)).trans ((top6_append _ _ (by decide)).trans ((top6_append _ _ (by decide)).trans ((top6_append _ _ (by decide)).trans ((top6_append _ _ (by decide)).trans (rfl)))))))
theorem vmax (d : BitVec 5) (a : BitVec 5) (b : BitVec 5) (t : BitVec 4) (m : BitVec 4) : Statement (.vmax d a b t m) := congrArg some ((top6_append _ _ (by decide)).trans ((top6_append _ _ (by decide)).trans ((top6_append _ _ (by decide)).trans ((top6_append _ _ (by decide)).trans ((top6_append _ _ (by decide)).trans ((top6_append _ _ (by decide)).trans (rfl)))))))
theorem vshl (d : BitVec 5) (a : BitVec 5) (b : BitVec 5) (t : BitVec 4) (m : BitVec 4) : Statement (.vshl d a b t m) := congrArg some ((top6_append _ _ (by decide)).trans ((top6_append _ _ (by decide)).trans ((top6_append _ _ (by decide)).trans ((top6_append _ _ (by decide)).trans ((top6_append _ _ (by decide)).trans ((top6_append _ _ (by decide)).trans (rfl)))))))
theorem vshr (d : BitVec 5) (a : BitVec 5) (b : BitVec 5) (t : BitVec 4) (m : BitVec 4) : Statement (.vshr d a b t m) := congrArg some ((top6_append _ _ (by decide)).trans ((top6_append _ _ (by decide)).trans ((top6_append _ _ (by decide)).trans ((top6_append _ _ (by decide)).trans ((top6_append _ _ (by decide)).trans ((top6_append _ _ (by decide)).trans (rfl)))))))
theorem vfadd (d : BitVec 5) (a : BitVec 5) (b : BitVec 5) (t : BitVec 4) (m : BitVec 4) : Statement (.vfadd d a b t m) := congrArg some ((top6_append _ _ (by decide)).trans ((top6_append _ _ (by decide)).trans ((top6_append _ _ (by decide)).trans ((top6_append _ _ (by decide)).trans ((top6_append _ _ (by decide)).trans ((top6_append _ _ (by decide)).trans (rfl)))))))
theorem vfsub (d : BitVec 5) (a : BitVec 5) (b : BitVec 5) (t : BitVec 4) (m : BitVec 4) : Statement (.vfsub d a b t m) := congrArg some ((top6_append _ _ (by decide)).trans ((top6_append _ _ (by decide)).trans ((top6_append _ _ (by decide)).trans ((top6_append _ _ (by decide)).trans ((top6_append _ _ (by decide)).trans ((top6_append _ _ (by decide)).trans (rfl)))))))
theorem vfmul (d : BitVec 5) (a : BitVec 5) (b : BitVec 5) (t : BitVec 4) (m : BitVec 4) : Statement (.vfmul d a b t m) := congrArg some ((top6_append _ _ (by decide)).trans ((top6_append _ _ (by decide)).trans ((top6_append _ _ (by decide)).trans ((top6_append _ _ (by decide)).trans ((top6_append _ _ (by decide)).trans ((top6_append _ _ (by decide)).trans (rfl)))))))
theorem vfma (d : BitVec 5) (a : BitVec 5) (b : BitVec 5) (t : BitVec 4) (m : BitVec 4) : Statement (.vfma d a b t m) := congrArg some ((top6_append _ _ (by decide)).trans ((top6_append _ _ (by decide)).trans ((top6_append _ _ (by decide)).trans ((top6_append _ _ (by decide)).trans ((top6_append _ _ (by decide)).trans ((top6_append _ _ (by decide)).trans (rfl)))))))
theorem vfmin (d : BitVec 5) (a : BitVec 5) (b : BitVec 5) (t : BitVec 4) (m : BitVec 4) : Statement (.vfmin d a b t m) := congrArg some ((top6_append _ _ (by decide)).trans ((top6_append _ _ (by decide)).trans ((top6_append _ _ (by decide)).trans ((top6_append _ _ (by decide)).trans ((top6_append _ _ (by decide)).trans ((top6_append _ _ (by decide)).trans (rfl)))))))
theorem vfmax (d : BitVec 5) (a : BitVec 5) (b : BitVec 5) (t : BitVec 4) (m : BitVec 4) : Statement (.vfmax d a b t m) := congrArg some ((top6_append _ _ (by decide)).trans ((top6_append _ _ (by decide)).trans ((top6_append _ _ (by decide)).trans ((top6_append _ _ (by decide)).trans ((top6_append _ _ (by decide)).trans ((top6_append _ _ (by decide)).trans (rfl)))))))
theorem vfdiv (d : BitVec 5) (a : BitVec 5) (b : BitVec 5) (t : BitVec 4) (m : BitVec 4) : Statement (.vfdiv d a b t m) := congrArg some ((top6_append _ _ (by decide)).trans ((top6_append _ _ (by decide)).trans ((top6_append _ _ (by decide)).trans ((top6_append _ _ (by decide)).trans ((top6_append _ _ (by decide)).trans ((top6_append _ _ (by decide)).trans (rfl)))))))
theorem vfsqrt (d : BitVec 5) (a : BitVec 5) (t : BitVec 4) (m : BitVec 4) : Statement (.vfsqrt d a t m) := congrArg some ((top6_append _ _ (by decide)).trans ((top6_append _ _ (by decide)).trans ((top6_append _ _ (by decide)).trans ((top6_append _ _ (by decide)).trans ((top6_append _ _ (by decide)).trans ((top6_append _ _ (by decide)).trans (rfl)))))))
theorem vld (d : BitVec 5) (a : BitVec 5) (t : BitVec 4) (m : BitVec 4) : Statement (.vld d a t m) := congrArg some ((top6_append _ _ (by decide)).trans ((top6_append _ _ (by decide)).trans ((top6_append _ _ (by decide)).trans ((top6_append _ _ (by decide)).trans ((top6_append _ _ (by decide)).trans ((top6_append _ _ (by decide)).trans (rfl)))))))
theorem vst (d : BitVec 5) (a : BitVec 5) (t : BitVec 4) (m : BitVec 3) : Statement (.vst d a t m) := congrArg some ((top6_append _ _ (by decide)).trans ((top6_append _ _ (by decide)).trans ((top6_append _ _ (by decide)).trans ((top6_append _ _ (by decide)).trans ((top6_append _ _ (by decide)).trans ((top6_append _ _ (by decide)).trans ((top6_append _ _ (by decide)).trans (rfl))))))))
theorem vlds (d : BitVec 5) (a : BitVec 5) (b : BitVec 5) (t : BitVec 4) (m : BitVec 4) : Statement (.vlds d a b t m) := congrArg some ((top6_append _ _ (by decide)).trans ((top6_append _ _ (by decide)).trans ((top6_append _ _ (by decide)).trans ((top6_append _ _ (by decide)).trans ((top6_append _ _ (by decide)).trans ((top6_append _ _ (by decide)).trans (rfl)))))))
theorem vsts (d : BitVec 5) (a : BitVec 5) (b : BitVec 5) (t : BitVec 4) (m : BitVec 3) : Statement (.vsts d a b t m) := congrArg some ((top6_append _ _ (by decide)).trans ((top6_append _ _ (by decide)).trans ((top6_append _ _ (by decide)).trans ((top6_append _ _ (by decide)).trans ((top6_append _ _ (by decide)).trans ((top6_append _ _ (by decide)).trans ((top6_append _ _ (by decide)).trans (rfl))))))))
theorem vgath (d : BitVec 5) (a : BitVec 5) (b : BitVec 5) (t : BitVec 4) (m : BitVec 4) : Statement (.vgath d a b t m) := congrArg some ((top6_append _ _ (by decide)).trans ((top6_append _ _ (by decide)).trans ((top6_append _ _ (by decide)).trans ((top6_append _ _ (by decide)).trans ((top6_append _ _ (by decide)).trans ((top6_append _ _ (by decide)).trans (rfl)))))))
theorem vscat (d : BitVec 5) (a : BitVec 5) (b : BitVec 5) (t : BitVec 4) (m : BitVec 3) : Statement (.vscat d a b t m) := congrArg some ((top6_append _ _ (by decide)).trans ((top6_append _ _ (by decide)).trans ((top6_append _ _ (by decide)).trans ((top6_append _ _ (by decide)).trans ((top6_append _ _ (by decide)).trans ((top6_append _ _ (by decide)).trans ((top6_append _ _ (by decide)).trans (rfl))))))))
theorem vldt (d : BitVec 5) (a : BitVec 5) (t : BitVec 4) (m : BitVec 4) : Statement (.vldt d a t m) := congrArg some ((top6_append _ _ (by decide)).trans ((top6_append _ _ (by decide)).trans ((top6_append _ _ (by decide)).trans ((top6_append _ _ (by decide)).trans ((top6_append _ _ (by decide)).trans ((top6_append _ _ (by decide)).trans (rfl)))))))
theorem vstt (d : BitVec 5) (a : BitVec 5) (t : BitVec 4) (m : BitVec 3) : Statement (.vstt d a t m) := congrArg some ((top6_append _ _ (by decide)).trans ((top6_append _ _ (by decide)).trans ((top6_append _ _ (by decide)).trans ((top6_append _ _ (by decide)).trans ((top6_append _ _ (by decide)).trans ((top6_append _ _ (by decide)).trans ((top6_append _ _ (by decide)).trans (rfl))))))))
theorem vamo (d : BitVec 5) (a : BitVec 5) (b : BitVec 5) (o : BitVec 4) (m : BitVec 4) : Statement (.vamo d a b o m) := congrArg some ((top6_append _ _ (by decide)).trans ((top6_append _ _ (by decide)).trans ((top6_append _ _ (by decide)).trans ((top6_append _ _ (by decide)).trans ((top6_append _ _ (by decide)).trans ((top6_append _ _ (by decide)).trans (rfl)))))))
theorem vcvt (d : BitVec 5) (a : BitVec 5) (n : BitVec 5) (t : BitVec 4) (m : BitVec 4) : Statement (.vcvt d a n t m) := congrArg some ((top6_append _ _ (by decide)).trans ((top6_append _ _ (by decide)).trans ((top6_append _ _ (by decide)).trans ((top6_append _ _ (by decide)).trans ((top6_append _ _ (by decide)).trans ((top6_append _ _ (by decide)).trans (rfl)))))))
theorem vqmx (d : BitVec 5) (a : BitVec 5) (n : BitVec 5) (t : BitVec 4) : Statement (.vqmx d a n t) := congrArg some ((top6_append _ _ (by decide)).trans ((top6_append _ _ (by decide)).trans ((top6_append _ _ (by decide)).trans ((top6_append _ _ (by decide)).trans ((top6_append _ _ (by decide)).trans (rfl))))))
theorem vdqmx (d : BitVec 5) (a : BitVec 5) (n : BitVec 5) (t : BitVec 4) (m : BitVec 4) : Statement (.vdqmx d a n t m) := congrArg some ((top6_append _ _ (by decide)).trans ((top6_append _ _ (by decide)).trans ((top6_append _ _ (by decide)).trans ((top6_append _ _ (by decide)).trans ((top6_append _ _ (by decide)).trans ((top6_append _ _ (by decide)).trans (rfl)))))))
theorem vsexp (d : BitVec 5) (a : BitVec 5) (n : BitVec 5) (t : BitVec 4) : Statement (.vsexp d a n t) := congrArg some ((top6_append _ _ (by decide)).trans ((top6_append _ _ (by decide)).trans ((top6_append _ _ (by decide)).trans ((top6_append _ _ (by decide)).trans ((top6_append _ _ (by decide)).trans (rfl))))))
theorem vlut (d : BitVec 5) (a : BitVec 5) (k : BitVec 2) (t : BitVec 4) (m : BitVec 4) : Statement (.vlut d a k t m) := congrArg some ((top6_append _ _ (by decide)).trans ((top6_append _ _ (by decide)).trans ((top6_append _ _ (by decide)).trans ((top6_append _ _ (by decide)).trans ((top6_append _ _ (by decide)).trans ((top6_append _ _ (by decide)).trans ((top6_append _ _ (by decide)).trans (rfl))))))))
theorem venc (d : BitVec 5) (a : BitVec 5) (k : BitVec 2) (t : BitVec 4) : Statement (.venc d a k t) := congrArg some ((top6_append _ _ (by decide)).trans ((top6_append _ _ (by decide)).trans ((top6_append _ _ (by decide)).trans ((top6_append _ _ (by decide)).trans ((top6_append _ _ (by decide)).trans ((top6_append _ _ (by decide)).trans (rfl)))))))
theorem vsfu (d : BitVec 5) (a : BitVec 5) (f : BitVec 5) (t : BitVec 4) (m : BitVec 4) : Statement (.vsfu d a f t m) := congrArg some ((top6_append _ _ (by decide)).trans ((top6_append _ _ (by decide)).trans ((top6_append _ _ (by decide)).trans ((top6_append _ _ (by decide)).trans ((top6_append _ _ (by decide)).trans ((top6_append _ _ (by decide)).trans (rfl)))))))
theorem vred (d : BitVec 5) (a : BitVec 5) (o : BitVec 5) (t : BitVec 4) (m : BitVec 3) : Statement (.vred d a o t m) := congrArg some ((top6_append _ _ (by decide)).trans ((top6_append _ _ (by decide)).trans ((top6_append _ _ (by decide)).trans ((top6_append _ _ (by decide)).trans ((top6_append _ _ (by decide)).trans ((top6_append _ _ (by decide)).trans ((top6_append _ _ (by decide)).trans (rfl))))))))
theorem vperm (d : BitVec 5) (a : BitVec 5) (b : BitVec 5) (t : BitVec 4) (m : BitVec 4) : Statement (.vperm d a b t m) := congrArg some ((top6_append _ _ (by decide)).trans ((top6_append _ _ (by decide)).trans ((top6_append _ _ (by decide)).trans ((top6_append _ _ (by decide)).trans ((top6_append _ _ (by decide)).trans ((top6_append _ _ (by decide)).trans (rfl)))))))
theorem vbcast (d : BitVec 5) (a : BitVec 5) (t : BitVec 4) (m : BitVec 4) : Statement (.vbcast d a t m) := congrArg some ((top6_append _ _ (by decide)).trans ((top6_append _ _ (by decide)).trans ((top6_append _ _ (by decide)).trans ((top6_append _ _ (by decide)).trans ((top6_append _ _ (by decide)).trans ((top6_append _ _ (by decide)).trans (rfl)))))))
theorem vext (d : BitVec 5) (a : BitVec 5) (b : BitVec 5) (t : BitVec 4) : Statement (.vext d a b t) := congrArg some ((top6_append _ _ (by decide)).trans ((top6_append _ _ (by decide)).trans ((top6_append _ _ (by decide)).trans ((top6_append _ _ (by decide)).trans ((top6_append _ _ (by decide)).trans (rfl))))))
theorem vins (d : BitVec 5) (a : BitVec 5) (b : BitVec 5) (t : BitVec 4) : Statement (.vins d a b t) := congrArg some ((top6_append _ _ (by decide)).trans ((top6_append _ _ (by decide)).trans ((top6_append _ _ (by decide)).trans ((top6_append _ _ (by decide)).trans ((top6_append _ _ (by decide)).trans (rfl))))))
theorem vhash (d : BitVec 5) (a : BitVec 5) (b : BitVec 5) (t : BitVec 4) (m : BitVec 4) : Statement (.vhash d a b t m) := congrArg some ((top6_append _ _ (by decide)).trans ((top6_append _ _ (by decide)).trans ((top6_append _ _ (by decide)).trans ((top6_append _ _ (by decide)).trans ((top6_append _ _ (by decide)).trans ((top6_append _ _ (by decide)).trans (rfl)))))))
theorem vpopc (d : BitVec 5) (a : BitVec 5) (t : BitVec 4) (m : BitVec 4) : Statement (.vpopc d a t m) := congrArg some ((top6_append _ _ (by decide)).trans ((top6_append _ _ (by decide)).trans ((top6_append _ _ (by decide)).trans ((top6_append _ _ (by decide)).trans ((top6_append _ _ (by decide)).trans ((top6_append _ _ (by decide)).trans (rfl)))))))
theorem vcmp (d : BitVec 3) (a : BitVec 5) (b : BitVec 5) (t : BitVec 4) (m : BitVec 4) (c : BitVec 2) : Statement (.vcmp d a b t m c) := congrArg some ((top6_append _ _ (by decide)).trans ((top6_append _ _ (by decide)).trans ((top6_append _ _ (by decide)).trans ((top6_append _ _ (by decide)).trans ((top6_append _ _ (by decide)).trans ((top6_append _ _ (by decide)).trans ((top6_append _ _ (by decide)).trans ((top6_append _ _ (by decide)).trans (rfl)))))))))
theorem vand (d : BitVec 5) (a : BitVec 5) (b : BitVec 5) (m : BitVec 4) : Statement (.vand d a b m) := congrArg some ((top6_append _ _ (by decide)).trans ((top6_append _ _ (by decide)).trans ((top6_append _ _ (by decide)).trans ((top6_append _ _ (by decide)).trans ((top6_append _ _ (by decide)).trans ((top6_append _ _ (by decide)).trans (rfl)))))))
theorem vor (d : BitVec 5) (a : BitVec 5) (b : BitVec 5) (m : BitVec 4) : Statement (.vor d a b m) := congrArg some ((top6_append _ _ (by decide)).trans ((top6_append _ _ (by decide)).trans ((top6_append _ _ (by decide)).trans ((top6_append _ _ (by decide)).trans ((top6_append _ _ (by decide)).trans ((top6_append _ _ (by decide)).trans (rfl)))))))
theorem vxor (d : BitVec 5) (a : BitVec 5) (b : BitVec 5) (m : BitVec 4) : Statement (.vxor d a b m) := congrArg some ((top6_append _ _ (by decide)).trans ((top6_append _ _ (by decide)).trans ((top6_append _ _ (by decide)).trans ((top6_append _ _ (by decide)).trans ((top6_append _ _ (by decide)).trans ((top6_append _ _ (by decide)).trans (rfl)))))))
theorem vandn (d : BitVec 5) (a : BitVec 5) (b : BitVec 5) (m : BitVec 4) : Statement (.vandn d a b m) := congrArg some ((top6_append _ _ (by decide)).trans ((top6_append _ _ (by decide)).trans ((top6_append _ _ (by decide)).trans ((top6_append _ _ (by decide)).trans ((top6_append _ _ (by decide)).trans ((top6_append _ _ (by decide)).trans (rfl)))))))
theorem mand (d : BitVec 3) (a : BitVec 3) (b : BitVec 3) : Statement (.mand d a b) := congrArg some ((top6_append _ _ (by decide)).trans ((top6_append _ _ (by decide)).trans ((top6_append _ _ (by decide)).trans ((top6_append _ _ (by decide)).trans ((top6_append _ _ (by decide)).trans ((top6_append _ _ (by decide)).trans ((top6_append _ _ (by decide)).trans (rfl))))))))
theorem mor (d : BitVec 3) (a : BitVec 3) (b : BitVec 3) : Statement (.mor d a b) := congrArg some ((top6_append _ _ (by decide)).trans ((top6_append _ _ (by decide)).trans ((top6_append _ _ (by decide)).trans ((top6_append _ _ (by decide)).trans ((top6_append _ _ (by decide)).trans ((top6_append _ _ (by decide)).trans ((top6_append _ _ (by decide)).trans (rfl))))))))
theorem mxor (d : BitVec 3) (a : BitVec 3) (b : BitVec 3) : Statement (.mxor d a b) := congrArg some ((top6_append _ _ (by decide)).trans ((top6_append _ _ (by decide)).trans ((top6_append _ _ (by decide)).trans ((top6_append _ _ (by decide)).trans ((top6_append _ _ (by decide)).trans ((top6_append _ _ (by decide)).trans ((top6_append _ _ (by decide)).trans (rfl))))))))
theorem mandn (d : BitVec 3) (a : BitVec 3) (b : BitVec 3) : Statement (.mandn d a b) := congrArg some ((top6_append _ _ (by decide)).trans ((top6_append _ _ (by decide)).trans ((top6_append _ _ (by decide)).trans ((top6_append _ _ (by decide)).trans ((top6_append _ _ (by decide)).trans ((top6_append _ _ (by decide)).trans ((top6_append _ _ (by decide)).trans (rfl))))))))
theorem tis (d : BitVec 5) (a : BitVec 5) (b : BitVec 5) (i : BitVec 11) : Statement (.tis d a b i) := congrArg some ((top6_append _ _ (by decide)).trans ((top6_append _ _ (by decide)).trans ((top6_append _ _ (by decide)).trans ((top6_append _ _ (by decide)).trans (rfl)))))
theorem twait (m : BitVec 8) : Statement (.twait m) := congrArg some ((top6_append _ _ (by decide)).trans ((top6_append _ _ (by decide)).trans ((top6_append _ _ (by decide)).trans (rfl))))
theorem tstat (d : BitVec 5) : Statement (.tstat d) := congrArg some ((top6_append _ _ (by decide)).trans ((top6_append _ _ (by decide)).trans (rfl)))
theorem setlut (a : BitVec 5) (t : BitVec 2) : Statement (.setlut a t) := congrArg some ((top6_append _ _ (by decide)).trans ((top6_append _ _ (by decide)).trans ((top6_append _ _ (by decide)).trans ((top6_append _ _ (by decide)).trans ((top6_append _ _ (by decide)).trans (rfl))))))
theorem outWord (a : BitVec 5) (b : BitVec 5) : Statement (.outWord a b) := congrArg some ((top6_append _ _ (by decide)).trans ((top6_append _ _ (by decide)).trans ((top6_append _ _ (by decide)).trans ((top6_append _ _ (by decide)).trans (rfl)))))
theorem inWord (d : BitVec 5) (a : BitVec 5) : Statement (.inWord d a) := congrArg some ((top6_append _ _ (by decide)).trans ((top6_append _ _ (by decide)).trans ((top6_append _ _ (by decide)).trans (rfl))))
theorem outBlock (d : BitVec 5) (a : BitVec 5) (b : BitVec 5) : Statement (.outBlock d a b) := congrArg some ((top6_append _ _ (by decide)).trans ((top6_append _ _ (by decide)).trans ((top6_append _ _ (by decide)).trans ((top6_append _ _ (by decide)).trans (rfl)))))
theorem inBlock (d : BitVec 5) (a : BitVec 5) (b : BitVec 5) : Statement (.inBlock d a b) := congrArg some ((top6_append _ _ (by decide)).trans ((top6_append _ _ (by decide)).trans ((top6_append _ _ (by decide)).trans ((top6_append _ _ (by decide)).trans (rfl)))))
theorem chnew (d : BitVec 5) (a : BitVec 5) (b : BitVec 5) : Statement (.chnew d a b) := congrArg some ((top6_append _ _ (by decide)).trans ((top6_append _ _ (by decide)).trans ((top6_append _ _ (by decide)).trans ((top6_append _ _ (by decide)).trans (rfl)))))
theorem chbind (d : BitVec 5) (a : BitVec 5) (b : BitVec 5) : Statement (.chbind d a b) := congrArg some ((top6_append _ _ (by decide)).trans ((top6_append _ _ (by decide)).trans ((top6_append _ _ (by decide)).trans ((top6_append _ _ (by decide)).trans (rfl)))))
theorem chfree (a : BitVec 5) : Statement (.chfree a) := congrArg some ((top6_append _ _ (by decide)).trans ((top6_append _ _ (by decide)).trans ((top6_append _ _ (by decide)).trans (rfl))))
theorem chstat (d : BitVec 5) (a : BitVec 5) (b : BitVec 5) : Statement (.chstat d a b) := congrArg some ((top6_append _ _ (by decide)).trans ((top6_append _ _ (by decide)).trans ((top6_append _ _ (by decide)).trans ((top6_append _ _ (by decide)).trans (rfl)))))
theorem chsync (d : BitVec 5) (a : BitVec 5) : Statement (.chsync d a) := congrArg some ((top6_append _ _ (by decide)).trans ((top6_append _ _ (by decide)).trans ((top6_append _ _ (by decide)).trans (rfl))))
theorem tkt (d : BitVec 5) (a : BitVec 5) : Statement (.tkt d a) := congrArg some ((top6_append _ _ (by decide)).trans ((top6_append _ _ (by decide)).trans ((top6_append _ _ (by decide)).trans (rfl))))
theorem tktw (a : BitVec 5) (b : BitVec 5) : Statement (.tktw a b) := congrArg some ((top6_append _ _ (by decide)).trans ((top6_append _ _ (by decide)).trans ((top6_append _ _ (by decide)).trans ((top6_append _ _ (by decide)).trans (rfl)))))
theorem alts (a : BitVec 5) : Statement (.alts a) := congrArg some ((top6_append _ _ (by decide)).trans ((top6_append _ _ (by decide)).trans ((top6_append _ _ (by decide)).trans (rfl))))
theorem altg (a : BitVec 5) (b : BitVec 5) : Statement (.altg a b) := congrArg some ((top6_append _ _ (by decide)).trans ((top6_append _ _ (by decide)).trans ((top6_append _ _ (by decide)).trans ((top6_append _ _ (by decide)).trans (rfl)))))
theorem altt (a : BitVec 5) (b : BitVec 5) : Statement (.altt a b) := congrArg some ((top6_append _ _ (by decide)).trans ((top6_append _ _ (by decide)).trans ((top6_append _ _ (by decide)).trans ((top6_append _ _ (by decide)).trans (rfl)))))
theorem altw (d : BitVec 5) (a : BitVec 5) : Statement (.altw d a) := congrArg some ((top6_append _ _ (by decide)).trans ((top6_append _ _ (by decide)).trans ((top6_append _ _ (by decide)).trans (rfl))))
theorem altwF (d : BitVec 5) (a : BitVec 5) (b : BitVec 5) : Statement (.altwF d a b) := congrArg some ((top6_append _ _ (by decide)).trans ((top6_append _ _ (by decide)).trans ((top6_append _ _ (by decide)).trans ((top6_append _ _ (by decide)).trans (rfl)))))
theorem claim (d : BitVec 5) (a : BitVec 5) (b : BitVec 5) (p : BitVec 3) : Statement (.claim d a b p) := congrArg some ((top6_append _ _ (by decide)).trans ((top6_append _ _ (by decide)).trans ((top6_append _ _ (by decide)).trans ((top6_append _ _ (by decide)).trans ((top6_append _ _ (by decide)).trans ((top6_append _ _ (by decide)).trans (rfl)))))))
theorem claimNb (d : BitVec 5) (a : BitVec 5) (b : BitVec 5) (p : BitVec 3) : Statement (.claimNb d a b p) := congrArg some ((top6_append _ _ (by decide)).trans ((top6_append _ _ (by decide)).trans ((top6_append _ _ (by decide)).trans ((top6_append _ _ (by decide)).trans ((top6_append _ _ (by decide)).trans ((top6_append _ _ (by decide)).trans (rfl)))))))
theorem commit (d : BitVec 5) (a : BitVec 5) (b : BitVec 5) : Statement (.commit d a b) := congrArg some ((top6_append _ _ (by decide)).trans ((top6_append _ _ (by decide)).trans ((top6_append _ _ (by decide)).trans ((top6_append _ _ (by decide)).trans (rfl)))))
theorem await (d : BitVec 5) (a : BitVec 5) (b : BitVec 5) (p : BitVec 3) : Statement (.await d a b p) := congrArg some ((top6_append _ _ (by decide)).trans ((top6_append _ _ (by decide)).trans ((top6_append _ _ (by decide)).trans ((top6_append _ _ (by decide)).trans ((top6_append _ _ (by decide)).trans ((top6_append _ _ (by decide)).trans (rfl)))))))
theorem awaitNb (d : BitVec 5) (a : BitVec 5) (b : BitVec 5) (p : BitVec 3) : Statement (.awaitNb d a b p) := congrArg some ((top6_append _ _ (by decide)).trans ((top6_append _ _ (by decide)).trans ((top6_append _ _ (by decide)).trans ((top6_append _ _ (by decide)).trans ((top6_append _ _ (by decide)).trans ((top6_append _ _ (by decide)).trans (rfl)))))))
theorem retire (a : BitVec 5) (b : BitVec 5) : Statement (.retire a b) := congrArg some ((top6_append _ _ (by decide)).trans ((top6_append _ _ (by decide)).trans ((top6_append _ _ (by decide)).trans ((top6_append _ _ (by decide)).trans (rfl)))))
theorem spawn (d : BitVec 5) (a : BitVec 5) (b : BitVec 5) : Statement (.spawn d a b) := congrArg some ((top6_append _ _ (by decide)).trans ((top6_append _ _ (by decide)).trans ((top6_append _ _ (by decide)).trans ((top6_append _ _ (by decide)).trans (rfl)))))
theorem stop : Statement (.stop) := congrArg some ((top6_append _ _ (by decide)).trans (rfl))
theorem yield : Statement (.yield) := congrArg some ((top6_append _ _ (by decide)).trans (rfl))
theorem setpri (a : BitVec 5) (b : BitVec 5) : Statement (.setpri a b) := congrArg some ((top6_append _ _ (by decide)).trans ((top6_append _ _ (by decide)).trans ((top6_append _ _ (by decide)).trans ((top6_append _ _ (by decide)).trans (rfl)))))
theorem sleep (a : BitVec 5) : Statement (.sleep a) := congrArg some ((top6_append _ _ (by decide)).trans ((top6_append _ _ (by decide)).trans ((top6_append _ _ (by decide)).trans (rfl))))
theorem time (d : BitVec 5) : Statement (.time d) := congrArg some ((top6_append _ _ (by decide)).trans ((top6_append _ _ (by decide)).trans (rfl)))
theorem migr (a : BitVec 5) : Statement (.migr a) := congrArg some ((top6_append _ _ (by decide)).trans ((top6_append _ _ (by decide)).trans ((top6_append _ _ (by decide)).trans (rfl))))
theorem migb : Statement (.migb) := congrArg some ((top6_append _ _ (by decide)).trans (rfl))
theorem qmapPush (a : BitVec 5) (i : BitVec 3) : Statement (.qmapPush a i) := congrArg some ((top6_append _ _ (by decide)).trans ((top6_append _ _ (by decide)).trans ((top6_append _ _ (by decide)).trans ((top6_append _ _ (by decide)).trans ((top6_append _ _ (by decide)).trans (rfl))))))
theorem qmapPop (a : BitVec 5) (i : BitVec 3) : Statement (.qmapPop a i) := congrArg some ((top6_append _ _ (by decide)).trans ((top6_append _ _ (by decide)).trans ((top6_append _ _ (by decide)).trans ((top6_append _ _ (by decide)).trans ((top6_append _ _ (by decide)).trans (rfl))))))
theorem qmapOff (i : BitVec 3) : Statement (.qmapOff i) := congrArg some ((top6_append _ _ (by decide)).trans ((top6_append _ _ (by decide)).trans ((top6_append _ _ (by decide)).trans (rfl))))
theorem resume (d : BitVec 5) (a : BitVec 5) (b : BitVec 5) : Statement (.resume d a b) := congrArg some ((top6_append _ _ (by decide)).trans ((top6_append _ _ (by decide)).trans ((top6_append _ _ (by decide)).trans ((top6_append _ _ (by decide)).trans (rfl)))))
theorem peekc (d : BitVec 5) (a : BitVec 5) (b : BitVec 5) : Statement (.peekc d a b) := congrArg some ((top6_append _ _ (by decide)).trans ((top6_append _ _ (by decide)).trans ((top6_append _ _ (by decide)).trans ((top6_append _ _ (by decide)).trans (rfl)))))
theorem pokec (d : BitVec 5) (a : BitVec 5) (b : BitVec 5) : Statement (.pokec d a b) := congrArg some ((top6_append _ _ (by decide)).trans ((top6_append _ _ (by decide)).trans ((top6_append _ _ (by decide)).trans ((top6_append _ _ (by decide)).trans (rfl)))))
theorem kill (d : BitVec 5) (a : BitVec 5) : Statement (.kill d a) := congrArg some ((top6_append _ _ (by decide)).trans ((top6_append _ _ (by decide)).trans ((top6_append _ _ (by decide)).trans (rfl))))
theorem trap (n : BitVec 8) : Statement (.trap n) := congrArg some ((top6_append _ _ (by decide)).trans ((top6_append _ _ (by decide)).trans ((top6_append _ _ (by decide)).trans (rfl))))
theorem step (d : BitVec 5) : Statement (.step d) := congrArg some ((top6_append _ _ (by decide)).trans ((top6_append _ _ (by decide)).trans (rfl)))
theorem stepn (d : BitVec 5) : Statement (.stepn d) := congrArg some ((top6_append _ _ (by decide)).trans ((top6_append _ _ (by decide)).trans (rfl)))
theorem bari (a : BitVec 5) (b : BitVec 5) : Statement (.bari a b) := congrArg some ((top6_append _ _ (by decide)).trans ((top6_append _ _ (by decide)).trans ((top6_append _ _ (by decide)).trans ((top6_append _ _ (by decide)).trans (rfl)))))
theorem bara (d : BitVec 5) (a : BitVec 5) : Statement (.bara d a) := congrArg some ((top6_append _ _ (by decide)).trans ((top6_append _ _ (by decide)).trans ((top6_append _ _ (by decide)).trans (rfl))))
theorem barx (a : BitVec 5) (b : BitVec 5) : Statement (.barx a b) := congrArg some ((top6_append _ _ (by decide)).trans ((top6_append _ _ (by decide)).trans ((top6_append _ _ (by decide)).trans ((top6_append _ _ (by decide)).trans (rfl)))))
theorem barw (a : BitVec 5) (b : BitVec 5) : Statement (.barw a b) := congrArg some ((top6_append _ _ (by decide)).trans ((top6_append _ _ (by decide)).trans ((top6_append _ _ (by decide)).trans ((top6_append _ _ (by decide)).trans (rfl)))))
theorem depdec (d : BitVec 5) (a : BitVec 5) : Statement (.depdec d a) := congrArg some ((top6_append _ _ (by decide)).trans ((top6_append _ _ (by decide)).trans ((top6_append _ _ (by decide)).trans (rfl))))
theorem almrec (a : BitVec 5) : Statement (.almrec a) := congrArg some ((top6_append _ _ (by decide)).trans ((top6_append _ _ (by decide)).trans ((top6_append _ _ (by decide)).trans (rfl))))
theorem almslot (a : BitVec 5) (b : BitVec 5) (s : BitVec 4) : Statement (.almslot a b s) := congrArg some ((top6_append _ _ (by decide)).trans ((top6_append _ _ (by decide)).trans ((top6_append _ _ (by decide)).trans ((top6_append _ _ (by decide)).trans ((top6_append _ _ (by decide)).trans ((top6_append _ _ (by decide)).trans (rfl)))))))
theorem almgrd (a : BitVec 5) : Statement (.almgrd a) := congrArg some ((top6_append _ _ (by decide)).trans ((top6_append _ _ (by decide)).trans ((top6_append _ _ (by decide)).trans (rfl))))
theorem almend (d : BitVec 5) : Statement (.almend d) := congrArg some ((top6_append _ _ (by decide)).trans ((top6_append _ _ (by decide)).trans (rfl)))
theorem almplay (d : BitVec 5) (a : BitVec 5) (b : BitVec 5) : Statement (.almplay d a b) := congrArg some ((top6_append _ _ (by decide)).trans ((top6_append _ _ (by decide)).trans ((top6_append _ _ (by decide)).trans ((top6_append _ _ (by decide)).trans (rfl)))))
theorem alminv (a : BitVec 5) : Statement (.alminv a) := congrArg some ((top6_append _ _ (by decide)).trans ((top6_append _ _ (by decide)).trans ((top6_append _ _ (by decide)).trans (rfl))))
theorem almq (d : BitVec 5) (a : BitVec 5) : Statement (.almq d a) := congrArg some ((top6_append _ _ (by decide)).trans ((top6_append _ _ (by decide)).trans ((top6_append _ _ (by decide)).trans (rfl))))
theorem gets (d : BitVec 5) (n : BitVec 12) : Statement (.gets d n) := congrArg some ((top6_append _ _ (by decide)).trans ((top6_append _ _ (by decide)).trans ((top6_append _ _ (by decide)).trans (rfl))))
theorem sets (a : BitVec 5) (n : BitVec 12) : Statement (.sets a n) := congrArg some ((top6_append _ _ (by decide)).trans ((top6_append _ _ (by decide)).trans ((top6_append _ _ (by decide)).trans ((top6_append _ _ (by decide)).trans (rfl)))))
theorem tlbinv (d : BitVec 5) (a : BitVec 5) (r : BitVec 2) (s : BitVec 2) : Statement (.tlbinv d a r s) := congrArg some ((top6_append _ _ (by decide)).trans ((top6_append _ _ (by decide)).trans ((top6_append _ _ (by decide)).trans ((top6_append _ _ (by decide)).trans ((top6_append _ _ (by decide)).trans (rfl))))))
theorem keyset (d : BitVec 5) (a : BitVec 5) : Statement (.keyset d a) := congrArg some ((top6_append _ _ (by decide)).trans ((top6_append _ _ (by decide)).trans ((top6_append _ _ (by decide)).trans (rfl))))
theorem keysetClr (d : BitVec 5) : Statement (.keysetClr d) := congrArg some ((top6_append _ _ (by decide)).trans ((top6_append _ _ (by decide)).trans (rfl)))
theorem cflush (a : BitVec 5) (r : BitVec 2) : Statement (.cflush a r) := congrArg some ((top6_append _ _ (by decide)).trans ((top6_append _ _ (by decide)).trans ((top6_append _ _ (by decide)).trans ((top6_append _ _ (by decide)).trans (rfl)))))
theorem cinv (a : BitVec 5) (r : BitVec 2) : Statement (.cinv a r) := congrArg some ((top6_append _ _ (by decide)).trans ((top6_append _ _ (by decide)).trans ((top6_append _ _ (by decide)).trans ((top6_append _ _ (by decide)).trans (rfl)))))
theorem nop : Statement (.nop) := congrArg some ((top6_append _ _ (by decide)).trans (rfl))

end Sys2Proof.Laws.Enc

namespace Sys2Proof.Laws

theorem Enc.break : Enc.Statement Instr.break := congrArg some ((Enc.top6_append _ _ (by decide)).trans (rfl))

end Sys2Proof.Laws

namespace Sys2Proof.Laws.Enc

theorem unassignedEncoding (word : IWord) : Statement (.unassignedEncoding word) := rfl
theorem fetchFault (cause : Nat) : Statement (.fetchFault cause) := rfl
theorem tnop (c : CoreId) : Statement (.tnop c) := rfl
theorem tz (c : CoreId) : Statement (.tz c) := rfl
theorem tmma (c : CoreId) : Statement (.tmma c) := rfl
theorem tsmma (c : CoreId) : Statement (.tsmma c) := rfl
theorem tldacc (c : CoreId) : Statement (.tldacc c) := rfl
theorem tst (c : CoreId) : Statement (.tst c) := rfl
theorem tew (c : CoreId) : Statement (.tew c) := rfl
theorem tred (c : CoreId) : Statement (.tred c) := rfl
theorem tmov (c : CoreId) : Statement (.tmov c) := rfl
theorem cpl (c : CoreId) : Statement (.cpl c) := rfl
theorem cp2d (c : CoreId) : Statement (.cp2d c) := rfl
theorem cpg (c : CoreId) : Statement (.cpg c) := rfl
theorem storePerform (c : CoreId) (n : Nat) (passOnly : Bool) : Statement (.storePerform c n passOnly) := rfl
theorem memoryReply (k : Slot) (v : Word) (err : Bool) : Statement (.memoryReply k v err) := rfl
theorem memoryWaitPark (c : CoreId) : Statement (.memoryWaitPark c) := rfl
theorem dispatch (c : CoreId) : Statement (.dispatch c) := rfl
theorem preempt (c : CoreId) : Statement (.preempt c) := rfl
theorem sliceExpiry (c : CoreId) : Statement (.sliceExpiry c) := rfl
theorem budgetExhausted (c : CoreId) : Statement (.budgetExhausted c) := rfl
theorem contextSpill (c : CoreId) : Statement (.contextSpill c) := rfl
theorem contextFill (c : CoreId) : Statement (.contextFill c) := rfl
theorem arrivalWrite (c : CoreId) : Statement (.arrivalWrite c) := rfl
theorem migrationArrival (n : Nat) : Statement (.migrationArrival n) := rfl
theorem accept (n : Nat) : Statement (.accept n) := rfl
theorem refuse (n : Nat) : Statement (.refuse n) := rfl
theorem space (n : Nat) : Statement (.space n) := rfl
theorem migrationResend (k : Slot) : Statement (.migrationResend k) := rfl
theorem loadregRefresh (cl : Nat) : Statement (.loadregRefresh cl) := rfl
theorem heartbeatTick (p : Nat) : Statement (.heartbeatTick p) := rfl
theorem deadlineReached (k : Slot) : Statement (.deadlineReached k) := rfl
theorem offer (n : Nat) : Statement (.offer n) := rfl
theorem ack (n : Nat) : Statement (.ack n) := rfl
theorem blockTransferDone (n : Nat) : Statement (.blockTransferDone n) := rfl
theorem withdraw (n : Nat) : Statement (.withdraw n) := rfl
theorem bind (n : Nat) : Statement (.bind n) := rfl
theorem bindReply (n : Nat) : Statement (.bindReply n) := rfl
theorem commitMessage (n : Nat) : Statement (.commitMessage n) := rfl
theorem returnMessage (n : Nat) : Statement (.returnMessage n) := rfl
theorem desync (n : Nat) : Statement (.desync n) := rfl
theorem chsyncArrival (n : Nat) : Statement (.chsyncArrival n) := rfl
theorem timeout (k : Slot) : Statement (.timeout k) := rfl
theorem peerUnreachable (e : EpId) (reason : Nat) : Statement (.peerUnreachable e reason) := rfl
theorem probeOriginate (k : Slot) : Statement (.probeOriginate k) := rfl
theorem probe (n : Nat) : Statement (.probe n) := rfl
theorem echo (n : Nat) : Statement (.echo n) := rfl
theorem engagementExpiry (k : Slot) : Statement (.engagementExpiry k) := rfl
theorem hangReport (cl : Nat) : Statement (.hangReport cl) := rfl
theorem trapRecord (c : CoreId) : Statement (.trapRecord c) := rfl
theorem translationWalk (c : CoreId) (dom : Nat) (va : Word) : Statement (.translationWalk c dom va) := rfl
theorem faultEntrySend (p : Nat) (base : Nat) (i : Nat) : Statement (.faultEntrySend p base i) := rfl
theorem replayCheck (c : CoreId) : Statement (.replayCheck c) := rfl
theorem replayStream (c : CoreId) : Statement (.replayStream c) := rfl
theorem replayDrainEnd (c : CoreId) : Statement (.replayDrainEnd c) := rfl
theorem stepSeal (p : Nat) : Statement (.stepSeal p) := rfl
theorem arrive (n : Nat) : Statement (.arrive n) := rfl
theorem call (n : Nat) : Statement (.call n) := rfl
theorem steplimExpiry (p : Nat) : Statement (.steplimExpiry p) := rfl
theorem entryStream (n : Nat) : Statement (.entryStream n) := rfl
theorem streamDone (n : Nat) : Statement (.streamDone n) := rfl
theorem applied (n : Nat) : Statement (.applied n) := rfl
theorem release (n : Nat) : Statement (.release n) := rfl
theorem launchWindowWrite (p : Nat) (port : Nat) (q : Nat) (aligned : Bool) (img : BitVec 512) : Statement (.launchWindowWrite p port q aligned img) := rfl
theorem depdecWrite (p : Nat) (port : Nat) (q : Nat) (v : Word) : Statement (.depdecWrite p port q v) := rfl
theorem cancelWrite (p : Nat) (port : Nat) (q : Nat) (v : Word) : Statement (.cancelWrite p port q v) := rfl
theorem qctlWrite (p : Nat) (port : Nat) (q : Nat) (v : Word) : Statement (.qctlWrite p port q v) := rfl
theorem slotReport (p : Nat) (base : Nat) : Statement (.slotReport p base) := rfl
theorem slotReportForward (n : Nat) : Statement (.slotReportForward n) := rfl
theorem mirrorWrite (p : Nat) : Statement (.mirrorWrite p) := rfl
theorem mirrorAck (n : Nat) : Statement (.mirrorAck n) := rfl
theorem chunk (n : Nat) : Statement (.chunk n) := rfl
theorem chunkRefused (n : Nat) : Statement (.chunkRefused n) := rfl
theorem chunkReport (n : Nat) : Statement (.chunkReport n) := rfl
theorem chunkReportResend (c : CoreId) (i : Nat) : Statement (.chunkReportResend c i) := rfl
theorem countIncrement (n : Nat) : Statement (.countIncrement n) := rfl
theorem countDecrement (n : Nat) : Statement (.countDecrement n) := rfl
theorem completionSend (p : Nat) : Statement (.completionSend p) := rfl
theorem masterFailover (p : Nat) : Statement (.masterFailover p) := rfl
theorem jobCancel (n : Nat) : Statement (.jobCancel n) := rfl
theorem cancelAck (n : Nat) : Statement (.cancelAck n) := rfl
theorem drain (n : Nat) : Statement (.drain n) := rfl
theorem drained (n : Nat) : Statement (.drained n) := rfl
theorem semRead (p : Nat) (who : Nat) (i : Nat) : Statement (.semRead p who i) := rfl
theorem semWrite (p : Nat) (who : Nat) (i : Nat) (v : Word) : Statement (.semWrite p who i v) := rfl
theorem cdomWrite (c : CoreId) (v : Word) : Statement (.cdomWrite c v) := rfl
theorem cdomClearDone (c : CoreId) : Statement (.cdomClearDone c) := rfl
theorem windowWrite (p : Nat) (die : Nat) (w : Nat) (v : Word) : Statement (.windowWrite p die w v) := rfl
theorem descriptorWrite (p : Nat) (dom : Nat) (i : Nat) (v : Word) : Statement (.descriptorWrite p dom i v) := rfl
theorem hostEndpointWrite (p : Nat) (j : Nat) (i : Nat) (v : Word) : Statement (.hostEndpointWrite p j i v) := rfl
theorem hostidxWrite (p : Nat) (j : Nat) (v : Word) : Statement (.hostidxWrite p j v) := rfl
theorem pkgevtClear (p : Nat) (v : Word) : Statement (.pkgevtClear p v) := rfl
theorem stepctlWrite (p : Nat) (v : Word) : Statement (.stepctlWrite p v) := rfl
theorem stepovfWrite (p : Nat) (v : Word) : Statement (.stepovfWrite p v) := rfl
theorem registerWrite (p : Nat) (port : Nat) (off : Nat) (v : Word) : Statement (.registerWrite p port off v) := rfl
theorem attestation (p : Nat) (port : Nat) : Statement (.attestation p port) := rfl
theorem attestationComplete (p : Nat) (port : Nat) : Statement (.attestationComplete p port) := rfl
theorem configuration (p : Nat) (port : Nat) : Statement (.configuration p port) := rfl
theorem beginImage (p : Nat) (port : Nat) : Statement (.beginImage p port) := rfl
theorem imageBlock (p : Nat) (port : Nat) : Statement (.imageBlock p port) := rfl
theorem endImage (p : Nat) (port : Nat) : Statement (.endImage p port) := rfl
theorem imageVerifyComplete (p : Nat) : Statement (.imageVerifyComplete p) := rfl
theorem unknownCommand (p : Nat) (port : Nat) (v : Word) : Statement (.unknownCommand p port v) := rfl
theorem hostMemoryWrite (p : Nat) (port : Nat) (loc : Nat) (n : Nat) (mode : Nat) (key : Nat) (v : Word) : Statement (.hostMemoryWrite p port loc n mode key v) := rfl
theorem hostMemoryRead (p : Nat) (port : Nat) (loc : Nat) (n : Nat) (mode : Nat) (key : Nat) : Statement (.hostMemoryRead p port loc n mode key) := rfl
theorem pcieLinkDown (p : Nat) (port : Nat) : Statement (.pcieLinkDown p port) := rfl
theorem packageReset (p : Nat) : Statement (.packageReset p) := rfl
theorem bringupPhaseTimeout (p : Nat) (unit : Nat) : Statement (.bringupPhaseTimeout p unit) := rfl
theorem podFormation : Statement (.podFormation) := rfl
theorem thermalThrottle (cl : Nat) (temp : Nat) : Statement (.thermalThrottle cl temp) := rfl
theorem thermalUnthrottle (cl : Nat) (temp : Nat) : Statement (.thermalUnthrottle cl temp) := rfl
theorem thermalTrip (cl : Nat) (temp : Nat) : Statement (.thermalTrip cl temp) := rfl
theorem linkCrcFail (p : Nat) (link : Nat) : Statement (.linkCrcFail p link) := rfl
theorem delanFrame (p : Nat) (link : Nat) (bad : Bool) : Statement (.delanFrame p link bad) := rfl
theorem linkRetrain (p : Nat) (link : Nat) : Statement (.linkRetrain p link) := rfl
theorem retrainComplete (p : Nat) (link : Nat) (ok : Bool) (us : Nat) : Statement (.retrainComplete p link ok us) := rfl
theorem packageUnreachable (p : Nat) : Statement (.packageUnreachable p) := rfl
theorem correctedError (p : Nat) (unit : Nat) (loc : Word) : Statement (.correctedError p unit loc) := rfl
theorem uncorrectableError (p : Nat) (place : ErrPlace) : Statement (.uncorrectableError p place) := rfl
theorem patrolScrub (p : Nat) (unit : Nat) (loc : Nat) (bad : ScrubFinding) : Statement (.patrolScrub p unit loc bad) := rfl
theorem dieFence (p : Nat) (die : Nat) (reason : Nat) : Statement (.dieFence p die reason) := rfl
theorem baseDieFence (p : Nat) (base : Nat) (reason : Nat) : Statement (.baseDieFence p base reason) := rfl
theorem remoteOperation (n : Nat) : Statement (.remoteOperation n) := rfl
theorem remoteOperationReply (n : Nat) : Statement (.remoteOperationReply n) := rfl
theorem maintenanceComplete (k : Slot) : Statement (.maintenanceComplete k) := rfl
theorem deviceLaunch (n : Nat) : Statement (.deviceLaunch n) := rfl
theorem bringupPhaseComplete (p : Nat) (unit : Nat) (ok : Bool) : Statement (.bringupPhaseComplete p unit ok) := rfl
theorem windowClearDone (p : Nat) (die : Nat) : Statement (.windowClearDone p die) := rfl
theorem pcieLinkUp (p : Nat) (port : Nat) : Statement (.pcieLinkUp p port) := rfl
theorem postedWriteFailure (p : Nat) (port : Nat) : Statement (.postedWriteFailure p port) := rfl
theorem hbmRefreshPowerLoss (p : Nat) : Statement (.hbmRefreshPowerLoss p) := rfl

end Sys2Proof.Laws.Enc
end

