-- ==== Sys2Proof/Laws/Vector.lean ====
section
/-! SUPPORT. Sys2Proof/Laws/Vector.lean: lanes of a register made of lanes, and what a masked instruction leaves. -/

namespace Sys2Proof.Laws

open Sys2Proof.Machine

theorem upTo_eq_range : ∀ n, upTo n = List.range n
  | 0 => rfl
  | n + 1 => by rw [upTo, upTo_eq_range n, List.range_succ]

/-- Lanes joined are read back. -/
theorem joinLanes_lane (w : Nat) : ∀ (ls : List Nat) (i : Nat), joinLanes w ls / 2 ^ (w * i) % 2 ^ w = ls.getD i 0 % 2 ^ w
  | [], i => by simp [joinLanes]
  | x :: r, 0 => by simp [joinLanes, Nat.add_mul_mod_self_left]
  | x :: r, i + 1 => by
    have h : joinLanes w (x :: r) / 2 ^ w = joinLanes w r := by
      rw [joinLanes, Nat.add_mul_div_left _ _ (Nat.two_pow_pos w), Nat.div_eq_of_lt (Nat.mod_lt _ (Nat.two_pow_pos w)),
        Nat.zero_add]
    rw [Nat.mul_add, Nat.mul_one, Nat.add_comm, Nat.pow_add, ← Nat.div_div_eq_div_mul, h, joinLanes_lane w r i]
    simp

/-- Lanes joined fill that many lanes and no more. -/
theorem joinLanes_lt (w : Nat) : ∀ ls : List Nat, joinLanes w ls < 2 ^ (w * ls.length)
  | [] => by simp [joinLanes]
  | x :: r => by
    have h1 := joinLanes_lt w r
    have h2 : x % 2 ^ w < 2 ^ w := Nat.mod_lt _ (Nat.two_pow_pos w)
    have h3 : 2 ^ w * (joinLanes w r + 1) ≤ 2 ^ w * 2 ^ (w * r.length) := Nat.mul_le_mul_left _ h1
    rw [joinLanes, List.length_cons, Nat.mul_add, Nat.mul_one, Nat.pow_add, Nat.mul_comm (2 ^ (w * r.length))]
    rw [Nat.mul_add] at h3
    omega

/-- A lane of a register made of lanes. -/
theorem lane_ofLanes (w : Nat) (ls : List Nat) (i : Nat) (h : w * (i + 1) ≤ 512) :
    lane (ofLanes w ls) w i = ls.getD i 0 % 2 ^ w := by
  rw [lane, ofLanes, BitVec.toNat_ofNat, Nat.mod_pow_eq_mod_pow_of h]
  exact joinLanes_lane w ls i
where
  Nat.mod_pow_eq_mod_pow_of {x w i : Nat} (h : w * (i + 1) ≤ 512) :
      x % 2 ^ 512 / 2 ^ (w * i) % 2 ^ w = x / 2 ^ (w * i) % 2 ^ w := by
    rw [Nat.mul_add, Nat.mul_one] at h
    have e : (2 : Nat) ^ 512 = 2 ^ (w * i) * (2 ^ w * 2 ^ (512 - w * i - w)) := by
      rw [← Nat.pow_add, ← Nat.pow_add]; congr 1; omega
    rw [e, Nat.mod_mul_right_div_self, Nat.mod_mul_right_mod]

theorem getLsbD_foldl_or (j : Nat) : ∀ (l : List (Nat × FFlags)) (f : FFlags),
    (l.foldl (fun f r => f ||| r.2) f).getLsbD j = (f.getLsbD j || l.any fun r => r.2.getLsbD j)
  | [], f => by simp
  | x :: r, f => by rw [List.foldl_cons, getLsbD_foldl_or j r]; simp [Bool.or_assoc]

/-- A union of flags holds a flag when one of its parts does. -/
theorem getLsbD_orFlags (l : List (Nat × FFlags)) (j : Nat) :
    (orFlags l).getLsbD j = true ↔ ∃ r ∈ l, r.2.getLsbD j = true := by
  rw [orFlags, getLsbD_foldl_or]
  simp [FFlags.none]

/-- The lanes of a type fill a register. -/
theorem laneBits_fits (t : Nat) {i : Nat} (h : i < 512 / laneBits t) : laneBits t * (i + 1) ≤ 512 := by
  have h0 : 0 < laneBits t := by unfold laneBits; split <;> omega
  have := (Nat.le_div_iff_mul_le h0).mp h
  rw [Nat.mul_comm]; exact this

/-- VMasked (R128), said once. -/
theorem vmasked_result (s : State) (sh : Shape) (d : VReg) (w : Nat) (m : BitVec 4) (f : Nat → Nat × FFlags)
    (hw : ∀ i, i < 512 / w → w * (i + 1) ≤ 512) : MaskedResult s sh d w m f (s.vmasked sh d w m f) := by
  refine ⟨_, _, rfl, ?_, ?_⟩
  · intro i hi
    rw [lane_ofLanes w _ i (hw i hi)]
    simp only [maskedLanes, upTo_eq_range, List.map_map]
    rw [List.getD_eq_getElem?_getD, List.getElem?_map, List.getElem?_range hi]
    simp only [Option.map_some, Option.getD_some, Function.comp]
    change _ = if activeLane (s.cur.mask (maskReg m)) w i = true then _ else _
    by_cases ha : activeLane (s.cur.mask (maskReg m)) w i = true
    · rw [if_pos ha, if_pos ha]
    · rw [if_neg ha, if_neg ha]
      by_cases hz : m.getLsbD 3 = true
      · rw [if_pos hz, if_pos hz, Nat.zero_mod]
      · rw [if_neg hz, if_neg hz]; simp [lane]
  · intro j _
    change _ ↔ ∃ i, i < 512 / w ∧ activeLane (s.cur.mask (maskReg m)) w i = true ∧ _
    rw [getLsbD_orFlags]
    simp only [maskedLanes, upTo_eq_range, List.mem_map, List.mem_range]
    constructor
    · rintro ⟨_, ⟨i, hi, rfl⟩, h⟩
      refine ⟨i, hi, ?_⟩
      by_cases ha : activeLane (s.cur.mask (maskReg m)) w i = true
      · rw [if_pos ha] at h; exact ⟨ha, h⟩
      · rw [if_neg ha] at h; split at h <;> simp [FFlags.none] at h
    · rintro ⟨i, hi, ha, h⟩
      exact ⟨_, ⟨i, hi, rfl⟩, by rw [if_pos ha]; exact h⟩

end Sys2Proof.Laws
end

