-- ==== Sys2Proof/Tests/Base.lean ====
section
/-! SUPPORT. The small states the tests and the witnesses are about: one process of domain 0 running on core 255 of
package 0, with the registers, the bytes and the channel entries a test names. -/

namespace Sys2Proof.Tests

open Sys2Proof.Machine

/-- A full process with the supervisor right, running on core 255 of package 0. -/
def ran : State := State.withFetchWord State.reset 32 0

/-- A state with its running process changed. -/
def on (s : State) (f : Proc → Proc) : State := { s with cur := f s.cur }

/-- A state with general registers of its running process set. -/
def regs (s : State) (rs : List (Reg × Word)) : State := on s fun p => rs.foldl (fun p x => p.setReg x.1 x.2) p

/-- A pointer to an offset of the own scratchpad. -/
def pad (o : Nat) : Word := BitVec.ofNat 64 (0x00C0000000000000 + o)

/-- A located access to the scratchpad of core 255. -/
def padAcc (o n : Nat) : Acc := { ea := pad o, n := n, spot := .mem (locSpad 255 o) none }

/-- A state with bytes of the scratchpad of core 255 written. -/
def withPad (s : State) (o v n : Nat) : State := { s with mem := s.mem.write (locSpad 255 o) (leBytes v n) }

/-- The number of endpoint `i` of core 255. -/
def epNo (i : Nat) : EpId := 255 * 1024 + i

/-- Handles of endpoints 0 and 1 of core 255 in generation 0, minted for domain 0 with its SECRET at reset. -/
def hand0 : Word := 4486007441977516
def hand1 : Word := 4486024621904078

/-- The instruction goes on with the values it read, a value its waker gave and a mark. -/
def again (s : State) (vals : List Word) (v : Word) (mark : Nat) : State :=
  on s fun p => { p with phase := .after vals v mark }

/-- Endpoint `i` of core 255 with an entry. -/
def withEntry (s : State) (i : Nat) (x : Endpoint) : State := { s with eps := s.eps.put (epNo i) x }

/-- A bound entry: of a mode, a direction, a class, and a peer. -/
def bound (mode : Nat) (dir : Bool) (cls : Nat) (peer : Word) : Endpoint :=
  { Endpoint.empty with state := 2, mode := mode, dir := dir, cls := cls, peer := peer }

/-- The leaf of a 64 KiB page of domain 0: virtual page `k`, frame `k`, W and X set, a MODE. -/
def leafOf (k mode : Nat) : Trans :=
  { domain := 0, page := k, level := 0, leaf := BitVec.ofNat 64 (0x3F + 64 * mode + 2 ^ 32 * k), entryAt := 8 * k }

/-- Pages 1 to 4 of domain 0 mapped as a STEP, an ATOMIC, a HOST and an IO page, page 5 as a STEP page of RULE 3 (R192,
R199). -/
def paged : State :=
  State.modCluster ran 15 fun x =>
    { x with tcache := leafOf 1 1 :: leafOf 5 25 :: leafOf 2 2 :: leafOf 3 3 :: leafOf 4 4 :: x.tcache }

/-- A store of the running process in the queue of core 255: eight bytes to scratchpad offset `o`. -/
def queued (o : Nat) : QStore :=
  { seq := o, owner := monitorSlot, pid := ran.cur.pid, domain := 0, rank := 0, target := some (.mem (locSpad 255 o)), va := pad o,
    bytes := leBytes 7 8, more := [], desc := .unsigned 8, keySlot := 0, drain := .none, passed := false }

/-- A state with a store queue on core 255. -/
def withStores (s : State) (q : List QStore) : State := s.modCore 255 fun x => { x with storeQ := q }

/-- Context `n` of core 255. -/
def ctx (n : Nat) : Slot := 255 * 2048 + n

/-- A state with a process in another slot than the running one's. -/
def withProc (s : State) (k : Slot) (p : Proc) : State := { s with procs := s.procs.put k p }

/-- A process of domain 0 in a state, of a level. -/
def procIn (st : PState) (level : BitVec 2) : Proc :=
  { Proc.empty with state := st, prio := level, pid := 0x00000FF000000002, resident := true }

/-- A state with core 255 changed. -/
def core255 (s : State) (f : Core → Core) : State := s.modCore 255 f

/-- A state with package 0 changed. -/
def pkg0 (s : State) (f : Package → Package) : State := s.modPkg 0 f

/-- A pointer to FP32 elements, and one to E2M1 elements, in the own scratchpad. -/
def fp32At (o : Nat) : Word := 0x1000000000000000 + pad o
def e2m1At (o : Nat) : Word := 0x4800000000000000 + pad o

/-- A command word (R70): operation, tile, formats, SP, K, the three addresses and SLAY. -/
def cword (op tile fa fb fo sp k a b ss slay : Nat) : BitVec 256 :=
  BitVec.ofNat 256 (op + 2 ^ 8 * tile + 2 ^ 11 * fa + 2 ^ 16 * fb + 2 ^ 21 * fo + 2 ^ 30 * sp + 2 ^ 32 * k + 2 ^ 64 * a +
    2 ^ 136 * b + 2 ^ 192 * ss + 2 ^ 248 * slay)

/-- A command of the running process in a queue. -/
def cmd (w : BitVec 256) (units : Nat) : Cmd :=
  { word := w, tag := 0, owner := monitorSlot, pid := ran.cur.pid, domain := 0, rank := 0, index := 0, seq := 0,
    afterCopies := [], units := units, faulted := false, pending := [], lutCopy := none, before := [], draw := 0, replayed := none,
    tape := 0, play := 0 }

/-- A state with a tile command, and with a copy command, first in its queue on core 255. -/
def tiling (q : Cmd) : State := core255 ran fun x => { x with tileQ := [q] }
def copying (q : Cmd) : State := core255 ran fun x => { x with copyQ := [q] }

/-- Whether a part of a command comes to a value, an error, a miss. -/
def isOk {α : Type} : Eng α → Bool
  | .ok _ _ => true
  | _ => false

def isErr {α : Type} : Eng α → Bool
  | .err _ _ => true
  | _ => false

def isMiss {α : Type} : Eng α → Bool
  | .miss _ _ _ _ => true
  | _ => false

theorem ok_of {α : Type} (r : Eng α) (h : isOk r = true) : ∃ a t, r = .ok a t := by
  cases r <;> first | exact ⟨_, _, rfl⟩ | cases h

theorem err_of {α : Type} (r : Eng α) (h : isErr r = true) : ∃ c v, r = .err c v := by
  cases r <;> first | exact ⟨_, _, rfl⟩ | cases h

theorem miss_of {α : Type} (r : Eng α) (h : isMiss r = true) : ∃ va l g w, r = .miss va l g w := by
  cases r <;> first | exact ⟨_, _, _, _, rfl⟩ | cases h

/-- One unit of a command that runs. -/
theorem runs_one (c : CoreId) (q : Cmd) (f : Units) (i : Nat) (s : State) (h : isOk (f i s) = true) : ∃ t, RunsUnits c q f 1 i s t := by
  obtain ⟨ws, u, h⟩ := ok_of _ h
  exact ⟨_, ws, u, h, rfl⟩

/-- One access that is located where `sp` says, the state unchanged. -/
theorem locates_one (s : State) (k : AKind) (align : Nat) (ea : Word) (n : Nat) (sp : Spot)
    (h : s.locate ea n align k = (.ok sp, s)) : LocatesAll k align s [(ea, n)] [{ ea := ea, n := n, spot := sp }] s :=
  ⟨sp, s, [], h, rfl, rfl, rfl⟩

/-- One more access before others, the state unchanged. -/
theorem locates_cons (s : State) (k : AKind) (align : Nat) (ea : Word) (n : Nat) (sp : Spot) (r : List (Word × Nat)) (accs : List Acc)
    (h : s.locate ea n align k = (.ok sp, s)) (hr : LocatesAll k align s r accs s) :
    LocatesAll k align s ((ea, n) :: r) ({ ea := ea, n := n, spot := sp } :: accs) s :=
  ⟨sp, s, accs, h, rfl, hr⟩

/-- The place of an offset of the own scratchpad. -/
def padSpot (o : Nat) : Spot := .mem (locSpad 255 o) none

/-- The shapes with sources g2 and g3 and destination g1. -/
def ab : Shape := { srcs := [2, 3] }
def dab : Shape := { srcs := [2, 3], dst := some 1 }
def da : Shape := { srcs := [2], dst := some 1 }
def abDst : Shape := { srcs := [2, 3], dsrc := some 1 }

/-- `Ready` as a computation. -/
def readyB (sh : Shape) (s : State) : Bool :=
  s.cur.phase = .fresh && (!s.cur.light || (!sh.full && sh.named.all fun r => r.toNat < 9)) &&
    (!s.cur.inalt || sh.alt ≠ 0) && (sh.alt ≠ 2 || s.cur.inalt) && (!sh.priv || s.cur.supv) &&
    (!sh.vec || (s.cur.vext.isSome || s.freeExt.isSome)) && s.portCheck sh = .ready && !s.pushWaits sh

theorem ready_iff (sh : Shape) (s : State) : Ready sh s ↔ readyB sh s = true := by
  simp [Ready, readyB, and_assoc, Classical.or_iff_not_imp_left]

/-- `Resumed` as a computation. -/
def resumedB (sh : Shape) (s : State) (vals : List Word) (v : Word) (mark : Nat) : Bool :=
  s.cur.phase = .after vals v mark && s.dstFull sh = none && !s.pushWaits sh

theorem resumed_iff (sh : Shape) (s : State) (vals : List Word) (v : Word) (mark : Nat) :
    Resumed sh s vals v mark ↔ resumedB sh s vals v mark = true := by simp [Resumed, resumedB, and_assoc]

/-! CHECK of the two handles (R349), evaluated once. -/

theorem check0 : checkOf 0 0 hand0 = hand0.toNat % 2 ^ 20 := by decide +kernel

theorem check1 : checkOf 0 0 hand1 = hand1.toNat % 2 ^ 20 := by decide +kernel

theorem accepts0 (s : State) (h1 : s.secretOf (epNo 0) = 0) (h2 : (s.ep (epNo 0)).domain = 0)
    (h3 : (s.ep (epNo 0)).state ≠ 0) (h4 : (s.ep (epNo 0)).gen = 0) : s.accepts hand0 0 = true := by
  have e : epOfHandle hand0 = epNo 0 := by decide
  have b : bits hand0 33 20 = 0 := by decide
  have c : bits hand0 19 0 = hand0.toNat % 2 ^ 20 := by decide
  simpa [State.accepts, State.badCheck, e, h1, h2, h3, h4, b, c] using check0

theorem accepts1 (s : State) (h1 : s.secretOf (epNo 1) = 0) (h2 : (s.ep (epNo 1)).domain = 0)
    (h3 : (s.ep (epNo 1)).state ≠ 0) (h4 : (s.ep (epNo 1)).gen = 0) : s.accepts hand1 0 = true := by
  have e : epOfHandle hand1 = epNo 1 := by decide
  have b : bits hand1 33 20 = 0 := by decide
  have c : bits hand1 19 0 = hand1.toNat % 2 ^ 20 := by decide
  simpa [State.accepts, State.badCheck, e, h1, h2, h3, h4, b, c] using check1

/-- Endpoint 0 of the running process's core can be operated on under `hand0`. -/
def usableB (s : State) (x : Endpoint) : Bool :=
  s.here = 255 && s.cur.domain = 0 && s.secretOf (epNo 0) = 0 && s.ep (epNo 0) = x && x.domain = 0 && x.gen = 0 &&
    x.state ≠ 0 && x.state ≠ 3 && x.linkReason = none

/-- The issuer may name endpoint 0 by `hand0`. -/
def ownB (s : State) : Bool :=
  s.here = 255 && s.cur.domain = 0 && s.secretOf (epNo 0) = 0 && (s.ep (epNo 0)).domain = 0 && (s.ep (epNo 0)).gen = 0 &&
    (s.ep (epNo 0)).state ≠ 0

theorem own0 (s : State) (h : ownB s = true) : OwnEp s hand0 := by
  simp only [ownB, Bool.and_eq_true, decide_eq_true_eq] at h
  obtain ⟨⟨⟨⟨⟨h1, h2⟩, h3⟩, h4⟩, h5⟩, h6⟩ := h
  refine ⟨?_, ?_⟩
  · rw [h1]; decide
  · rw [h2]; exact accepts0 s h3 h4 h6 h5

theorem usable0 (s : State) (x : Endpoint) (h : usableB s x = true) : Usable s hand0 x := by
  simp only [usableB, Bool.and_eq_true, decide_eq_true_eq] at h
  obtain ⟨⟨⟨⟨⟨⟨⟨⟨h1, h2⟩, h3⟩, h4⟩, h5⟩, h6⟩, h7⟩, h8⟩, h9⟩ := h
  have e : epOfHandle hand0 = epNo 0 := by decide
  refine ⟨own0 s ?_, ?_, h9, h8⟩
  · simp [ownB, h1, h2, h3, h4, h5, h6, h7]
  · rw [e]; exact h4

/-- A state in which one message is in flight, and the state that its delivery starts from. -/
def mail (a b : Agent) (v : Body) (s : State) : State := { s with msgs := [{ src := a, dst := b, cls := .control, body := v }] }
def got (a b : Agent) (v : Body) (s : State) : State := (mail a b v s).taken 0 { src := a, dst := b, cls := .control, body := v }

/-- Such a message arrives. -/
theorem test_witness_arrives (a b : Agent) (v : Body) (s : State) :
    Arrives (mail a b v s) 0 { src := a, dst := b, cls := .control, body := v } := ⟨rfl, rfl⟩

end Sys2Proof.Tests
end

