-- ==== Sys2Proof/Tests/Slice0.lean ====
section
/-! SUPPORT. Ill-formed instructions are refused, one word of every instruction decodes to it, and single steps give the values
the specification states. -/

namespace Sys2Proof.Tests

open Sys2Proof Sys2Proof.Machine

set_option Elab.async false

/-! ## Ill-formed instructions -/

/-- Every check of `Instr.wellFormed` refuses an instruction with the selector value just past the assigned ones. -/
theorem test_illFormed :
    ∀ i ∈ [Instr.sext 1 2 3, .zext 1 2 3, .cmp 1 2 3 11, .lda 1 2 0 12 0, .stl 1 2 0 12 0, .amoAdd 1 2 3 0 12 0, .amoAnd 1 2 3 0 12 0,
      .amoOr 1 2 3 0 12 0, .amoXor 1 2 3 0 12 0, .amoMin 1 2 3 0 12 0, .amoMax 1 2 3 0 12 0, .amoMinz 1 2 3 0 12 0, .amoMaxz 1 2 3 0 12 0,
      .amoSwap 1 2 3 0 12 0, .amoFadd 1 2 3 0 12 0, .ordadd 1 2 3 0 12 0, .cas 1 2 3 0 12 0, .fence 12 1], i.wellFormed = false := by
  decide

/-- The same of the vector and system instructions: a type of the other kind, a format code that is none, a shape too wide for the
lane, a member or a slot that is none. -/
theorem test_illFormedVectors :
    ∀ i ∈ [Instr.vadd 1 2 3 7 0, .vsub 1 2 3 7 0, .vmul 1 2 3 7 0, .vmulh 1 2 3 7 0, .vmin 1 2 3 7 0, .vmax 1 2 3 7 0, .vshl 1 2 3 7 0,
      .vshr 1 2 3 7 0, .vfadd 1 2 3 4 0, .vfsub 1 2 3 4 0, .vfmul 1 2 3 4 0, .vfma 1 2 3 4 0, .vfmin 1 2 3 4 0, .vfmax 1 2 3 4 0,
      .vfdiv 1 2 3 4 0, .vfsqrt 1 2 4 0, .vamo 1 2 3 9 0, .vcvt 1 2 0 1 0, .vcvt 1 2 17 1 0, .vcvt 1 2 12 1 0, .vcvt 1 2 1 1 0,
      .vqmx 1 2 4 1, .vqmx 1 2 10 1, .vqmx 1 2 5 0, .vdqmx 1 2 4 1 0, .vsexp 1 2 13 1, .vlut 1 2 0 4 0, .venc 1 2 0 4, .vsfu 1 2 8 1 0,
      .vsfu 1 2 0 4 0, .vred 1 2 3 1 0, .vred 1 2 0 4 0, .vhash 1 2 3 9 0, .almslot 1 2 0, .tlbinv 1 2 3 0, .tlbinv 1 2 0 3,
      .cflush 1 3, .cinv 1 3], i.wellFormed = false := by
  decide

/-- The words of such instructions, words with a reserved bit set and words of no member are refused by name. -/
theorem test_refusedWords :
    (match decodeWord 0x0449007A with | .error .reservedField => true | _ => false) = true ∧
    (match decodeWord 0x04490078 with | .error .unassignedSelector => true | _ => false) = true ∧
    (match decodeWord 0x3081080D with | .error .noMember => true | _ => false) = true ∧
    (match decodeWord 0x00000000 with | .error .noMember => true | _ => false) = true ∧
    (match decode [1, 2, 3] with | .error .tooShort => true | _ => false) = true := by decide +kernel

/-! ## Decoding

One word for every instruction, made of the opcode, the member code and the operand fields at the places R52 to R66 give
them; the worked encodings of the specification after them. -/

/-- Every word of a list decodes to the instruction beside it. -/
def reads (l : List (IWord × Instr)) : Bool := l.all fun x => match decodeWord x.1 with | .ok i => i = x.2 | _ => false

/-- Words of scalar arithmetic. -/
theorem test_decodeScalar : reads [
    (0x062AA800, .add 17 10 21), (0x062AA801, .sub 17 10 21), (0x062AA802, .mul 17 10 21), (0x062AA803, .mulh 17 10 21),
    (0x062AA804, .mulhz 17 10 21), (0x062AA805, .div 17 10 21), (0x062AA806, .divz 17 10 21), (0x062AA807, .rem 17 10 21),
    (0x062AA808, .remz 17 10 21), (0x062AA809, .andR 17 10 21), (0x062AA80A, .orR 17 10 21), (0x062AA80B, .xorR 17 10 21),
    (0x062AA80C, .andn 17 10 21), (0x062AA80D, .shl 17 10 21), (0x062AA80E, .shr 17 10 21), (0x062AA80F, .sar 17 10 21),
    (0x062AA810, .rot 17 10 21), (0x062AA811, .minS 17 10 21), (0x062AA812, .maxS 17 10 21), (0x062AA813, .minZ 17 10 21),
    (0x062AA814, .maxZ 17 10 21), (0x062A0015, .clz 17 10), (0x062A0016, .ctz 17 10), (0x062A0017, .popc 17 10),
    (0x062A0058, .sext 17 10 2), (0x062A0059, .zext 17 10 2), (0x062AA81A, .bfx 17 10 21), (0x062AA81B, .bfi 17 10 21),
    (0x062AA8BC, .sel 17 10 21 5), (0x062AA81D, .adda 17 10 21), (0x062AA81E, .tags 17 10 21), (0x062A001F, .tagg 17 10)] = true := by decide +kernel

/-- Words of immediates and moves. -/
theorem test_decodeImmediates : reads [
    (0x0A2A8001, .addi 17 10 0x8001), (0x0E2A8001, .andi 17 10 0x8001), (0x122A8001, .ori 17 10 0x8001),
    (0x162A8001, .xori 17 10 0x8001), (0x1A2A0023, .shli 17 10 0x23), (0x1A2A0063, .shri 17 10 0x23),
    (0x1A2A00A3, .sari 17 10 0x23), (0x1A2A00E3, .roti 17 10 0x23), (0x22228001, .movz 17 2 0x8001),
    (0x26228001, .movk 17 2 0x8001)] = true := by decide +kernel

/-- Words of compares, predicates and control. -/
theorem test_decodeControl : reads [
    (0x28AAA809, .cmp 5 10 21 9), (0x2EA57FFF, .cmpi 5 2 10 0x7FFF), (0x30A33000, .pand 5 3 6), (0x30A33001, .por 5 3 6),
    (0x30A33002, .pxor 5 3 6), (0x30A33003, .pandn 5 3 6), (0x30A33004, .pnor 5 3 6), (0x36FFFFFD, .br 5 1 0x3FFFFD),
    (0x3BFFFFFE, .j 0x3FFFFFE), (0x3FFFFFFE, .jal 0x3FFFFFE), (0x422A0000, .jalr 17 10)] = true := by decide +kernel

/-- Words of floating point and typed access. -/
theorem test_decodeFloat : reads [
    (0x462AA810, .fadd 17 10 21 1), (0x462AA811, .fsub 17 10 21 1), (0x462AA812, .fmul 17 10 21 1),
    (0x462AA813, .fma 17 10 21 1), (0x462AA814, .fdiv 17 10 21 1), (0x462A0015, .fsqrt 17 10 1), (0x462AA816, .fmin 17 10 21 1),
    (0x462AA817, .fmax 17 10 21 1), (0x44AAA858, .fcmp 5 10 21 1 1), (0x462A0019, .fcvtToS64 17 10 1),
    (0x462A0059, .fcvtToZ64 17 10 1), (0x462A0099, .fcvtFromS64 17 10 1), (0x462A00D9, .fcvtFromZ64 17 10 1),
    (0x462A0519, .fcvtFloat 17 10 2 1), (0x462A001A, .fclass 17 10 1), (0x462AA81B, .ldt 17 10 21 1),
    (0x462AA81C, .stt 17 10 21 1)] = true := by decide +kernel

/-- Words of memory and atomics. -/
theorem test_decodeMemory : reads [
    (0x4A2AC603, .ld 17 10 3 1 0x203), (0x4E2AC203, .st 17 10 3 0x203), (0x522AE501, .lda 17 10 3 9 0x101),
    (0x522AE701, .stl 17 10 3 9 0x101), (0x562AAE60, .amoAdd 17 10 21 1 9 2), (0x562AAE61, .amoAnd 17 10 21 1 9 2),
    (0x562AAE62, .amoOr 17 10 21 1 9 2), (0x562AAE63, .amoXor 17 10 21 1 9 2), (0x562AAE64, .amoMin 17 10 21 1 9 2),
    (0x562AAE65, .amoMax 17 10 21 1 9 2), (0x562AAE66, .amoMinz 17 10 21 1 9 2), (0x562AAE67, .amoMaxz 17 10 21 1 9 2),
    (0x562AAE68, .amoSwap 17 10 21 1 9 2), (0x562AAE69, .amoFadd 17 10 21 1 9 2), (0x562AAE6A, .ordadd 17 10 21 1 9 2),
    (0x5A2AAE60, .cas 17 10 21 1 9 2), (0x5C00026C, .fence 9 11), (0x5C000001, .fencesc), (0x5E2AA802, .waita 17 10 21)] = true := by decide +kernel

/-- Words of vector arithmetic. -/
theorem test_decodeVectorArithmetic : reads [
    (0x622AAD50, .vadd 17 10 21 10 10), (0x622AAD51, .vsub 17 10 21 10 10), (0x622AAD52, .vmul 17 10 21 10 10),
    (0x622AAD53, .vmulh 17 10 21 10 10), (0x622AAD54, .vmin 17 10 21 10 10), (0x622AAD55, .vmax 17 10 21 10 10),
    (0x622AAD56, .vshl 17 10 21 10 10), (0x622AAD57, .vshr 17 10 21 10 10), (0x662AA8D0, .vfadd 17 10 21 1 10),
    (0x662AA8D1, .vfsub 17 10 21 1 10), (0x662AA8D2, .vfmul 17 10 21 1 10), (0x662AA8D3, .vfma 17 10 21 1 10),
    (0x662AA8D4, .vfmin 17 10 21 1 10), (0x662AA8D5, .vfmax 17 10 21 1 10), (0x662AA8D6, .vfdiv 17 10 21 1 10),
    (0x662A00D7, .vfsqrt 17 10 1 10)] = true := by decide +kernel

/-- Words of vector memory. -/
theorem test_decodeVectorMemory : reads [
    (0x6A2A0750, .vld 17 10 14 10), (0x6A2A0731, .vst 17 10 14 6), (0x6A2AAF52, .vlds 17 10 21 14 10),
    (0x6A2AAF33, .vsts 17 10 21 14 6), (0x6A2AAF54, .vgath 17 10 21 14 10), (0x6A2AAF35, .vscat 17 10 21 14 6),
    (0x6A2A0756, .vldt 17 10 14 10), (0x6A2A0F36, .vstt 17 10 14 6), (0x6A2AAB57, .vamo 17 10 21 6 10)] = true := by decide +kernel

/-- Words of vector conversions and mixed. -/
theorem test_decodeVectorMixed : reads [
    (0x6E2A28D0, .vcvt 17 10 5 1 10), (0x6E2A2901, .vqmx 17 10 5 2), (0x6E2A2952, .vdqmx 17 10 5 2 10),
    (0x6E2A2883, .vsexp 17 10 5 1), (0x6E2A10D4, .vlut 17 10 2 1 10), (0x6E2A1085, .venc 17 10 2 1),
    (0x722A30D0, .vsfu 17 10 6 1 10), (0x722A08B1, .vred 17 10 1 1 6), (0x722AAD52, .vperm 17 10 21 10 10),
    (0x722A0553, .vbcast 17 10 10 10), (0x722AA884, .vext 17 10 21 1), (0x722AA885, .vins 17 10 21 1),
    (0x722AAD56, .vhash 17 10 21 10 10), (0x722A0557, .vpopc 17 10 10 10), (0x74AAAD51, .vcmp 5 10 21 10 10 1),
    (0x762AA854, .vand 17 10 21 10), (0x762AA8D4, .vor 17 10 21 10), (0x762AA954, .vxor 17 10 21 10),
    (0x762AA9D4, .vandn 17 10 21 10), (0x74A33005, .mand 5 3 6), (0x74A33085, .mor 5 3 6), (0x74A33105, .mxor 5 3 6),
    (0x74A33185, .mandn 5 3 6)] = true := by decide +kernel

/-- Words of tiles. -/
theorem test_decodeTiles : reads [
    (0x7A2AAC05, .tis 17 10 21 0x405), (0x7C000408, .twait 0x81), (0x7E200001, .tstat 17), (0x7C0A000A, .setlut 10 1)] = true := by decide +kernel

/-- Words of channels. -/
theorem test_decodeChannels : reads [
    (0x800AA800, .outWord 10 21), (0x822A0001, .inWord 17 10), (0x822AA802, .outBlock 17 10 21),
    (0x822AA803, .inBlock 17 10 21), (0x822AA804, .chnew 17 10 21), (0x822AA805, .chbind 17 10 21), (0x800A0006, .chfree 10),
    (0x822AA807, .chstat 17 10 21), (0x822A0008, .chsync 17 10), (0x822A0009, .tkt 17 10), (0x800AA80A, .tktw 10 21),
    (0x840A0000, .alts 10), (0x840AA801, .altg 10 21), (0x840AA802, .altt 10 21), (0x862A0003, .altw 17 10),
    (0x862AA804, .altwF 17 10 21), (0x8A2AA828, .claim 17 10 21 5), (0x8A2AA82C, .claimNb 17 10 21 5),
    (0x8A2AA801, .commit 17 10 21), (0x8A2AA82A, .await 17 10 21 5), (0x8A2AA82E, .awaitNb 17 10 21 5),
    (0x880AA803, .retire 10 21)] = true := by decide +kernel

/-- Words of processes and supervision. -/
theorem test_decodeProcesses : reads [
    (0x8E2AA800, .spawn 17 10 21), (0x8C000001, .stop), (0x8C000002, .yield), (0x8C0AA803, .setpri 10 21),
    (0x8C0A0004, .sleep 10), (0x8E200005, .time 17), (0x8C0A0006, .migr 10), (0x8C000007, .migb), (0x8C0A00E8, .qmapPush 10 6),
    (0x8C0A0068, .qmapPop 10 6), (0x8C000168, .qmapOff 6), (0x922AA800, .resume 17 10 21), (0x922AA801, .peekc 17 10 21),
    (0x922AA802, .pokec 17 10 21), (0x922A0003, .kill 17 10), (0x9000002C, .trap 5)] = true := by decide +kernel

/-- Words of steps, the almanac and the system. -/
theorem test_decodeSystem : reads [
    (0x96200000, .step 17), (0x96200001, .stepn 17), (0x940AA802, .bari 10 21), (0x962A0003, .bara 17 10),
    (0x940AA804, .barx 10 21), (0x940AA805, .barw 10 21), (0x962A0006, .depdec 17 10), (0x980A0000, .almrec 10),
    (0x980AA849, .almslot 10 21 9), (0x980A0002, .almgrd 10), (0x9A200003, .almend 17), (0x9A2AA804, .almplay 17 10 21),
    (0x980A0005, .alminv 10), (0x9A2A0006, .almq 17 10), (0x9E200104, .gets 17 0x104), (0x9C0A1104, .sets 10 0x104),
    (0x9E2A200A, .tlbinv 17 10 2 2), (0x9E2A3000, .keyset 17 10), (0x9E203001, .keysetClr 17), (0x9C0A4002, .cflush 10 2),
    (0x9C0A5002, .cinv 10 2), (0x9C006000, .nop), (0x9C007000, .break)] = true := by decide +kernel

/-- The worked encodings of the chapters on encoding, scalar and vector instructions, and R352. -/
theorem test_workedEncodings : reads [
    (0x04611000, .add 3 1 2), (0x48BEC003, .ld 5 30 3 0 3), (0x2CA27FFF, .cmpi 1 2 4 0x7FFF), (0x54E32530, .amoAdd 7 3 4 1 4 3),
    (0x78404805, .tis 2 0 9 5), (0x34BFFFFD, .br 1 0 0x3FFFFD), (0x04A63805, .div 5 6 7), (0x0422187C, .sel 1 2 3 3),
    (0x04490038, .sext 2 9 1), (0x0442281D, .adda 2 2 5), (0x186300BF, .sari 3 3 63), (0x28221809, .cmp 1 2 3 9), (0x30810804, .pnor 4 1 1),
    (0x357FFFFE, .br 2 1 0x3FFFFE), (0x401F0000, .jalr 0 31), (0x44853013, .fma 4 5 6 1), (0x44432048, .fcmp 2 3 4 1 0),
    (0x45020019, .fcvtToS64 8 2 1), (0x45020119, .fcvtFloat 8 2 0 1), (0x4422181B, .ldt 1 2 3 1), (0x64221880, .vfadd 1 2 3 1 0),
    (0x648530D3, .vfma 4 5 6 1 10), (0x6D2A2880, .vcvt 9 10 5 1 0), (0x6C442901, .vqmx 2 4 5 2), (0x6C651084, .vlut 3 5 2 1 0),
    (0x70E80081, .vred 7 8 0 1 0), (0x70C40503, .vbcast 6 4 10 0), (0x74611502, .vcmp 3 1 2 10 0 2), (0x74000104, .vxor 0 0 0 0),
    (0x7C03000A, .setlut 3 1), (0x9C600104, .gets 3 0x104), (0x9C021008, .sets 2 8), (0x9CA62004, .tlbinv 5 6 1 0),
    (0x9CA02001, .tlbinv 5 0 0 1), (0x9C853000, .keyset 4 5), (0x9C803001, .keysetClr 4), (0x8C000001, .stop)] = true := by decide +kernel

/-- The encoder gives the worked words back. -/
theorem test_encodeWorked :
    encode (.amoAdd 7 3 4 1 4 3) = some 0x54E32530 ∧ encode (.vfma 4 5 6 1 10) = some 0x648530D3 ∧ encode (.br 1 0 0x3FFFFD) = some 0x34BFFFFD ∧
      encode (.tlbinv 5 6 1 0) = some 0x9CA62004 := by decide

/-! ## Single steps

The expected values stand in the specification's own worked tables, or follow by hand from the rule named. -/

/-- The state after an instruction. -/
def after (i : Instr) (s : State) : State := match exec i s with | .next t => t | _ => s

/-- g3 after an instruction on g1 and g2. -/
def g3 (i : Instr) (x y : Word) : Word := (after i (regs ran [(1, x), (2, y)])).cur.reg 3

/-- The table of R113's edge cases. -/
theorem test_integerTable :
    g3 (.div 3 1 2) 0x8000000000000000 0xFFFFFFFFFFFFFFFF = 0x8000000000000000 ∧ g3 (.rem 3 1 2) 0x8000000000000000 0xFFFFFFFFFFFFFFFF = 0 ∧
    g3 (.div 3 1 2) 0xFFFFFFFFFFFFFFF9 2 = 0xFFFFFFFFFFFFFFFD ∧ g3 (.rem 3 1 2) 0xFFFFFFFFFFFFFFF9 2 = 0xFFFFFFFFFFFFFFFF ∧
    g3 (.divz 3 1 2) 7 0 = 0xFFFFFFFFFFFFFFFF ∧ g3 (.remz 3 1 2) 7 0 = 7 ∧ g3 (.mulhz 3 1 2) 0xFFFFFFFFFFFFFFFF 0xFFFFFFFFFFFFFFFF = 0xFFFFFFFFFFFFFFFE ∧
    g3 (.mulh 3 1 2) 0xFFFFFFFFFFFFFFFF 0xFFFFFFFFFFFFFFFF = 0 ∧ g3 (.rot 3 1 2) 0x8000000000000001 0x44 = 0x18 ∧
    g3 (.bfx 3 1 2) 0x12345678 0xC08 = 0x456 ∧ g3 (.clz 3 1) 0 0 = 64 ∧ g3 (.adda 3 1 2) 0x28FFFFFFFFFFFFF0 0x20 = 0x2800000000000010 := by decide

/-- ADD wraps; SUB into its own source; a write of g0 is discarded (R24); MOVK keeps the other halves (R115). -/
theorem test_wraps :
    g3 (.add 3 1 2) 0xFFFFFFFFFFFFFFFF 2 = 1 ∧ (after (.sub 2 1 2) (regs ran [(1, 5), (2, 7)])).cur.reg 2 = 0xFFFFFFFFFFFFFFFE ∧
    (after (.add 0 1 2) (regs ran [(1, 5), (2, 7)])).cur.reg 0 = 0 ∧
    (after (.movk 4 2 0x1234) (regs ran [(4, 0xABCD)])).cur.reg 4 = 0x000012340000ABCD := by decide

/-- The fused multiply-add of the worked table rounds once and sets no flag; the product alone rounds and sets NX, bit 12 (R40). -/
theorem test_fused :
    let s := regs ran [(5, 0x3F800001), (6, 0x3F7FFFFE), (4, 0xBF800000)]
    (after (.fma 4 5 6 1) s).cur.reg 4 = 0xA8800000 ∧ (after (.fma 4 5 6 1) s).cur.fmtctl = 0 ∧
      (after (.fmul 7 5 6 1) s).cur.reg 7 = 0x3F800000 ∧ (after (.fmul 7 5 6 1) s).cur.fmtctl ≠ 0 := by decide +kernel

/-- A branch taken goes back three words, one not taken goes on (R63, R117); JAL saves the next address (R118). -/
theorem test_branches :
    let s := on ran fun p => { p with pc := 0x1014, pred := 2 }
    (after (.br 1 0 0x3FFFFD) s).cur.pc = 0x1008 ∧ (after (.br 1 1 0x3FFFFD) s).cur.pc = 0x1018 ∧ (after (.jal 2) s).cur.reg 31 = 0x1018 ∧
      (after (.jal 2) s).cur.pc = 0x101C := by decide

/-- BREAK traps with detail 0 at its own address (R351); a privileged encoding in user mode traps PRIV (R68). -/
theorem test_trapped :
    (after .break ran).cur.state = .stopped ∧ (after .break ran).cur.cause = 0x16 ∧ (after .break ran).cur.pc = ran.cur.pc ∧
      (after (.sets 1 4) (on ran fun p => { p with supv := false })).cur.cause = 2 := by decide

/-- A store waits in the queue of its core, and the issuer's load reads it (R172, R173). -/
theorem test_forwarded :
    let s := after (.st 2 1 2 1) (regs ran [(1, pad 64), (2, 0x11223344AABBCCDD)])
    (s.core 255).storeQ.length = 1 ∧ s.mem.get (locSpad 255 68) = 0 ∧ (after (.ld 3 1 2 0 1) s).cur.reg 3 = 0xAABBCCDD ∧
      (after (.ld 3 1 2 1 1) s).cur.reg 3 = 0xFFFFFFFFAABBCCDD := by decide +kernel

/-- The reduction of the worked example goes in tree order and sets NX (R105): lane 0 is 2^24, the others 1.0. -/
theorem test_reduction :
    let v : BitVec 512 := BitVec.ofNat 512 (0x4B800000 + (List.range 15).foldl (fun n i => n + 0x3F800000 * 2 ^ (32 * (i + 1))) 0)
    let e := { VExt.fresh 0 with v := (VExt.fresh 0).v.set 8 v }
    let t := after (.vred 7 8 0 1 0) (on ran fun p => { p with vext := some e })
    (t.cur.vext.map fun e => e.v[7]) = some 0x4B800007 ∧ t.cur.fmtctl ≠ 0 := by decide +kernel

end Sys2Proof.Tests
end

