-- ==== Sys2Proof/Tests/Witness1.lean ====
section
/-! SUPPORT. Witnesses for the statements on the checks before an instruction, the scalar instructions, memory, the step and its
traps, and the vector and tile instructions: states and operands that meet their hypotheses. -/

namespace Sys2Proof.Tests

open Sys2Proof Sys2Proof.Machine

set_option Elab.async false

/-! ## Checks, ports and plain arithmetic -/

/-- ChecksInOrder: a light process names a register above g8; an open ALT meets another instruction, and an ALT member no open
ALT; a user process meets a privileged encoding; a process without an extension finds no free slot. -/
theorem test_witness_checksInOrder :
    (shapeOf (.add 9 1 2) = some (.abd 9 1 2) ∧ (on ran fun p => { p with light := true }).cur.phase = .fresh ∧
      (on ran fun p => { p with light := true }).cur.light = true ∧ ∃ r ∈ (Shape.abd 9 1 2).named, 9 ≤ r.toNat) ∧
    (shapeOf (.fadd 1 1 1 0) = some { srcs := [1, 1], dst := some 1, full := true }) ∧
    (shapeOf .nop = some {} ∧ (on ran fun p => { p with inalt := true }).cur.inalt = true) ∧
    (shapeOf (.altg 1 2) = some { srcs := [1, 2], alt := 2 } ∧ ran.cur.inalt = false) ∧
    (shapeOf (.kill 1 2) = some { srcs := [2], dst := some 1, full := true, priv := true } ∧
      (on ran fun p => { p with supv := false }).cur.supv = false) ∧
    (shapeOf (.vand 1 2 3 15) = some .vector ∧ ran.cur.vext = none ∧
      (State.modCore ran 255 fun x => { x with extn := 0 }).freeExt = none) := by decide

/-- A process whose port q0 pops from endpoint 0 and whose port q1 pushes to the peer of endpoint 1. -/
def ported (fifo : List Word) (st : Nat) : State :=
  let s := on ran fun p => { p with qen := 3, qdir := 2, qeps := [(0, epNo 0), (1, epNo 1)] }
  withEntry (withEntry s 0 { bound 1 false 0 hand1 with portv := true, fifo := fifo })
    1 { bound 1 true 0 hand0 with state := st, portv := true }

/-- QueuePorts: a pop of a push port is misuse; too few words, no room and an unbound end make a wait, so
does a queued store before a push; two words let `sub` pop
both and a push port takes a result. -/
theorem test_witness_queuePorts :
    (shapeOf (.add 1 17 2) = some (.abd 1 17 2) ∧ (ported [] 2).cur.port 17 = some 1 ∧
      (ported [] 2).cur.qdir.getLsbD 1 = true) ∧
    ((ported [7] 2).cur.port 16 = some 0 ∧ (ported [7] 2).cur.qdir.getLsbD 0 = false ∧
      ((ported [7] 2).ep ((ported [7] 2).fifoEp (ported [7] 2).cur 0)).fifo.length = 1) ∧
    ((ported [] 1).cur.port 17 = some 1 ∧ ((ported [] 1).ep ((ported [] 1).cur.qeps.get 1 0)).state = 1 ∧
      ((ported [] 1).ep ((ported [] 1).cur.qeps.get 1 0)).linkReason = none) ∧
    (16 ≤ ((ported (List.replicate 16 0) 2).ep ((ported (List.replicate 16 0) 2).fifoEp
      (ported (List.replicate 16 0) 2).cur 1)).fifo.length) ∧
    ((ported [7] 2).cur.port 17 = some 1 ∧ (withStores (ported [7] 2) [queued 64]).drained monitorSlot .corePoint = false) ∧
    (Ready (Shape.abd 1 16 16) (ported [7, 9] 2) ∧
      ((ported [7, 9] 2).ep ((ported [7, 9] 2).fifoEp (ported [7, 9] 2).cur 0)).fifo = 7 :: 9 :: []) ∧
    (Ready (Shape.ad 17 1) (ported [7] 2) ∧ (ported [7] 2).cur.port 17 = some 1 ∧ (ported [7] 2).cur.port 1 = none) := by
  simp only [ready_iff]; decide

/-- The plain instructions start: AluResults, ImmediateResults, ComparesAndPredicates and ControlTransfers, also with g0
as destination and with a target that is not aligned, and the floating-point ones. -/
theorem test_witness_plainInstructions :
    Ready (.abd 1 2 3) ran ∧ Ready (.abd 0 2 3) ran ∧ Ready (.ad 1 2) ran ∧
    Ready { srcs := [2, 3], dst := some 1, dsrc := some 1 } ran ∧ Ready { dst := some 1 } ran ∧
    Ready { dst := some 1, dsrc := some 1 } ran ∧ Ready { srcs := [1, 2] } ran ∧ Ready { srcs := [1] } ran ∧
    Ready {} ran ∧ Ready { full := true } ran ∧ Ready { srcs := [2, 3], dst := some 1, full := true } ran ∧
    Ready { srcs := [2, 3], dst := some 1, dsrc := some 1, full := true } ran ∧
    Ready { srcs := [2], dst := some 1, full := true } ran ∧ Ready { srcs := [1, 2], full := true } ran ∧
    Ready (.ad 1 2) (regs ran [(2, 6)]) ∧ (regs ran [(2, 6)]).source (.ad 1 2) 0 = 6 ∧ (6 : Word).toNat % 4 ≠ 0 := by
  simp only [ready_iff]; decide

/-- ExactRounding: 1.5 in each format. -/
theorem test_witness_exactRounding :
    (∀ x ∈ [(FFmt.fp32, 0x3FC00000), (.fp64, 0x3FF8000000000000), (.bf16, 0x3FC0), (.fp16, 0x3E00)],
      x.2 < 2 ^ x.1.width ∧ (x.1.decode x.2).isNaN = false ∧ (x.1.decode x.2).isInf = false) := by decide

/-- FloatingPoint: NaN, infinite, zero and negative operands of FP32. -/
theorem test_witness_floatingPoint :
    (∃ pay pw, FFmt.fp32.decode 0x7F800001 = .nan false true pay pw) ∧ (∃ pay pw, FFmt.fp32.decode 0xFFC00001 = .nan true false pay pw) ∧
    FFmt.fp32.decode 0x7F800000 = .inf false ∧ FFmt.fp32.decode 0xFF800000 = .inf true ∧
    (FFmt.fp32.decode 0x80000000).isZero = true ∧ FFmt.fp32.hasInf = true ∧
    ((FFmt.fp32.decode 0xBF800000).isNaN = false ∧ (FFmt.fp32.decode 0xBF800000).isInf = false ∧
      (FFmt.fp32.decode 0xBF800000).neg = true ∧ (FFmt.fp32.decode 0xBF800000).isZero = false) := by
  refine ⟨⟨_, _, rfl⟩, ⟨_, _, rfl⟩, ?_⟩; decide

/-! ## Loads, stores, atomics and ordering -/

/-- Loads: an aligned and a misaligned address, a load of the scratchpad from memory, from the own store queue, from a STEP and an
ATOMIC page; a HOST page and the completions that end the wait; LDT of FP32 and of a tag that is no format. -/
theorem test_witness_loads :
    (((ran.core ran.here).storeQ = [] ∧ ran.ordadds = []) ∧ ∃ bs u, ReadsAll ran [padAcc 64 8] bs u) ∧
    (Ready (.ad 1 2) (regs ran [(2, pad 65)]) ∧ (addAddr (pad 65) 0).toNat % 2 ^ 56 % 8 ≠ 0) ∧
    (Ready (.ad 1 2) (regs ran [(2, pad 64)]) ∧
      ∃ accs u bs v, LocatesAll .load 8 (regs ran [(2, pad 64)]) [(pad 64, 8)] accs u ∧ ReadsAll u accs [bs] v) ∧
    (∃ bs v, ReadsAll (withStores ran [queued 64]) [padAcc 64 8] [bs] v) ∧
    (∃ accs u bs v, LocatesAll .load 8 paged [(0x10008, 8)] accs u ∧ ReadsAll u accs [bs] v) ∧
    (∃ accs u bs v, LocatesAll .load 8 paged [(0x20008, 8)] accs u ∧ ReadsAll u accs [bs] v) ∧
    ((∃ p ad io u, LocatesAll .load 8 (regs paged [(2, 0x30008)]) [(0x30008, 8)]
        [{ ea := 0x30008, n := 8, spot := .port p ad io }] u) ∧ (regs paged [(2, 0x30008)]).ownQueue = [] ∧
      Ready (.ad 1 2) (regs paged [(2, 0x30008)])) ∧
    (Resumed (.ad 1 2) (again paged [0x30008] 9 1) [0x30008] 9 1 ∧ Resumed (.ad 1 2) (again paged [0x30008] 9 2) [0x30008] 9 2 ∧
      (∃ p ad io u, LocatesAll .load 8 (again paged [0x30008] 9 1) [(0x30008, 8)]
        [{ ea := 0x30008, n := 8, spot := .port p ad io }] u) ∧
      ∃ p ad io u, LocatesAll .load 8 (again paged [0x30008] 9 2) [(0x30008, 8)]
        [{ ea := 0x30008, n := 8, spot := .port p ad io }] u) ∧
    (Ready { srcs := [2, 3], dst := some 1, full := true } ran ∧ ∃ c ds, elem 0xF800000000000000 0 = .trap c ds) ∧
    ∃ e accs u bss v, elem (0x1000000000000000 + pad 64) 1 = .ok e ∧
      LocatesAll .load 1 ran (parts e.addr e.nb) accs u ∧ ReadsAll u accs bss v := by
  simp only [ready_iff, resumed_iff]
  exact ⟨⟨by decide +kernel, _, _, _, _, _, .inr ⟨rfl, rfl⟩, rfl, rfl, rfl⟩, by decide +kernel,
    ⟨by decide +kernel, _, _, _, _, locates_one _ _ _ _ _ (padSpot 64) (by decide +kernel), _, _, _, .inr ⟨rfl, rfl⟩, rfl, rfl, rfl⟩,
    ⟨_, _, _, _, _, .inl ⟨rfl, rfl⟩, rfl, rfl, rfl⟩,
    ⟨_, _, _, _, locates_one _ _ _ _ _ (.step 65544 0 0) (by decide +kernel), _, _, _, ⟨rfl, rfl, .inl ⟨rfl, rfl⟩⟩, rfl, rfl, rfl⟩,
    ⟨_, _, _, _, locates_one _ _ _ _ _ (.atomic 131080 0) (by decide +kernel), _, _, _, (rfl : _ = _), rfl, rfl, rfl⟩,
    ⟨⟨_, _, _, _, locates_one _ _ _ _ _ (.port 0 196616 false) (by decide +kernel)⟩, by decide +kernel, by decide +kernel⟩,
    ⟨by decide +kernel, by decide +kernel, ⟨_, _, _, _, locates_one _ _ _ _ _ (.port 0 196616 false) (by decide +kernel)⟩, ⟨_, _, _, _, locates_one _ _ _ _ _ (.port 0 196616 false) (by decide +kernel)⟩⟩,
    ⟨by decide +kernel, _, _, rfl⟩,
    ⟨_, _, _, _, _, rfl, locates_one _ _ _ _ _ (padSpot 68) (by decide +kernel), _, _, _, .inr ⟨rfl, rfl⟩, rfl, rfl, rfl⟩⟩

/-- Stores: to the scratchpad with an empty queue and with eight stores queued, misaligned, to a STEP page with its entry; the
release of STL; STT of a whole element and of a 4-bit one. -/
theorem test_witness_stores :
    (Ready { srcs := [1, 2] } (regs ran [(2, pad 65)]) ∧ (addAddr (pad 65) 0).toNat % 2 ^ 56 % 8 ≠ 0) ∧
    (Ready { srcs := [1, 2] } (regs ran [(2, pad 64)]) ∧
      ∃ accs u v, LocatesAll .store 8 (regs ran [(2, pad 64)]) [(pad 64, 8)] accs u ∧ Released u 15 ∧
        Puts accs [leBytes 7 8] (.unsigned 8) u v) ∧
    (∃ accs u, LocatesAll .store 8 (withStores ran (List.replicate 8 (queued 64))) [(pad 64, 8)] accs u ∧
      u.roomFor (putsOf (accs.zip [leBytes 7 8])).length = false) ∧
    (∃ accs u v, LocatesAll .store 8 paged [(0x10008, 8)] accs u ∧ Puts accs [leBytes 7 8] (.unsigned 8) u v) ∧
    (Ready { srcs := [2, 3], dsrc := some 1, full := true } ran ∧
      ∃ e accs u v, elem (fp32At 64) 1 = .ok e ∧ 8 ≤ e.w ∧ LocatesAll .store 1 ran (parts e.addr e.nb) accs u ∧
        (∀ x ∈ accs, stepRefuses x.spot e.f e.w = false) ∧ Puts accs [leBytes 7 4, []] (elemDesc e.f e.nb) u v) ∧
    ∃ e pre u1 accs u2 bss u3 post u4 v, elem (e2m1At 64) 1 = .ok e ∧ e.w < 8 ∧
      LocatesAll .store 1 ran (parts e.addr e.nb) pre u1 ∧ (∀ x ∈ pre, stepRefuses x.spot e.f e.w = false) ∧
      LocatesAll .load 1 ran (parts e.addr e.nb) accs u2 ∧ ReadsAll u2 accs bss u3 ∧
      LocatesAll .store 1 u3 (parts e.addr e.nb) post u4 ∧ (∀ x ∈ post, stepRefuses x.spot e.f e.w = false) ∧
      Puts post [leBytes 7 1, []] (elemDesc e.f e.nb) u4 v := by
  simp only [ready_iff]
  refine ⟨by decide +kernel, ⟨by decide +kernel, [padAcc 64 8], _, _, locates_one _ _ _ _ _ (padSpot 64) (by decide +kernel), fun _ => ⟨rfl, fun _ => rfl⟩, _, rfl, ⟨_, rfl, rfl⟩, rfl⟩,
    ⟨[padAcc 64 8], _, locates_one _ _ _ _ _ (padSpot 64) (by decide +kernel), by decide +kernel⟩,
    ⟨_, _, _, locates_one _ _ _ _ _ (.step 65544 0 0) (by decide +kernel), _, rfl, ⟨_, ⟨_, rfl, rfl⟩, rfl⟩, rfl⟩,
    ⟨by decide +kernel, _, [{ ea := fp32At 64 + 4, n := 4, spot := .mem (locSpad 255 68) none }], _, _, rfl, by decide +kernel, locates_one _ _ _ _ _ (padSpot 68) (by decide +kernel), by decide +kernel, _, rfl, ⟨_, rfl, rfl⟩, rfl⟩,
    ⟨_, [{ ea := e2m1At 64, n := 1, spot := .mem (locSpad 255 64) none }], _,
      [{ ea := e2m1At 64, n := 1, spot := .mem (locSpad 255 64) none }], _, _, _,
      [{ ea := e2m1At 64, n := 1, spot := .mem (locSpad 255 64) none }], _, _, rfl, by decide +kernel, locates_one _ _ _ _ _ (padSpot 64) (by decide +kernel), by decide +kernel,
      locates_one _ _ _ _ _ (padSpot 64) (by decide +kernel), ⟨_, _, _, .inr ⟨rfl, rfl⟩, rfl, rfl, rfl⟩, locates_one _ _ _ _ _ (padSpot 64) (by decide +kernel), by decide +kernel, _, rfl, ⟨_, rfl, rfl⟩, rfl⟩⟩

/-- Atomics: at the own scratchpad, with acquire and release, and at an ATOMIC and a STEP page; the frame's premises. -/
theorem test_witness_atomics :
    (ran.Inv ∧ (ran.core ran.here).storeQ = [] ∧ ran.ordadds = [] ∧ kindOf (locSpad 255 64) ≠ .hbm) ∧
    (Ready (.abd 1 2 3) (regs ran [(2, pad 65)]) ∧ (pad 65).toNat % 2 ^ 56 % 8 ≠ 0) ∧
    (∀ p ∈ amoTable, p.2.1.code < 10) ∧ Ready (.abd 1 2 3) (regs ran [(2, pad 64)]) ∧
    (∃ acc t old u, LocatesAll (.amo 0) 8 (regs ran [(2, pad 64)]) [(pad 64, 8)] [acc] t ∧ Released t 15 ∧
      Drained t .stores ∧ Performs t acc.spot 8 (fun old => some ((old + 1) % 2 ^ 64)) (.unsigned 8) 1 old u) ∧
    (∃ acc t old u, LocatesAll (.amo 0) 8 paged [(0x20008, 8)] [acc] t ∧ Drained t .stores ∧
      Performs t acc.spot 8 (fun old => some ((old + 1) % 2 ^ 64)) (.unsigned 8) 1 old u) ∧
    (∃ acc t old u, LocatesAll (.amo 0) 8 paged [(0x50008, 8)] [acc] t ∧ Drained t .stores ∧
      Performs t acc.spot 8 (fun old => some ((old + 1) % 2 ^ 64)) (.unsigned 8) 1 old u) ∧
    (Ready { srcs := [2, 3], dst := some 1, dsrc := some 1 } (regs ran [(2, pad 64)]) ∧
      ∃ acc t old u, LocatesAll .cas 8 (regs ran [(2, pad 64)]) [(pad 64, 8)] [acc] t ∧ Released t 15 ∧ Drained t .stores ∧
        Performs t acc.spot 8 (fun old => if old = 0 then some 1 else none) (.unsigned 8) 1 old u) := by
  simp only [ready_iff]
  refine ⟨⟨(rfl : _ = _), by decide +kernel, by decide +kernel, by decide +kernel⟩, by decide +kernel, by decide +kernel, by decide +kernel,
    ⟨padAcc 64 8, _, _, _, locates_one _ _ _ _ _ (padSpot 64) (by decide +kernel), fun _ => ⟨rfl, fun _ => rfl⟩, ⟨rfl, fun _ => rfl⟩, _, _, rfl, rfl, rfl⟩,
    ⟨{ ea := 0x20008, n := 8, spot := .atomic (locHbm 0 0x20008) 0 }, _, _, _, locates_one _ _ _ _ _ (.atomic 131080 0) (by decide +kernel), ⟨rfl, fun _ => rfl⟩, _, _, rfl, rfl, rfl⟩,
    ?_,
    ⟨by decide +kernel, padAcc 64 8, _, _, _, locates_one _ _ _ _ _ (padSpot 64) (by decide +kernel), fun _ => ⟨rfl, fun _ => rfl⟩, ⟨rfl, fun _ => rfl⟩, _, _, rfl, rfl, rfl⟩⟩
  obtain ⟨o, u, h⟩ : ∃ o u, Performs paged (.step (locHbm 0 0x50008) 3 0) 8 (fun old => some ((old + 1) % 2 ^ 64)) (.unsigned 8) 1 o u :=
    ⟨_, _, _, _, rfl, ⟨_, rfl, rfl⟩, rfl, rfl, rfl⟩
  exact ⟨{ ea := 0x50008, n := 8, spot := .step (locHbm 0 0x50008) 3 0 }, paged, o, u, locates_one _ _ _ _ _ (.step 327688 3 0) (by decide +kernel), ⟨rfl, fun _ => rfl⟩, h⟩

/-- A pointer to an offset of die 0's common store. -/
def store0 (o : Nat) : Word := BitVec.ofNat 64 (0x00E0000000000000 + o)

/-- A process whose ORDADD meets a group of another size. -/
def grouped : State :=
  { regs ran [(2, store0 64)] with
    ordadds := [{ gran := locCommon 0 0 64 / 8, rank := 1, core := 3, mask := 0, size := 4, sum := 0 }] }

/-- OrderingInstructions: ORDADD accepted, and refused for a group of another size; FENCE with and without its stores passed;
FENCESC before and after its tick; WAITA at its start and after a wake. -/
theorem test_witness_orderingInstructions :
    (Ready (.abd 1 2 3) (regs ran [(2, store0 64)]) ∧ ∃ loc key t v,
      LocatesAll .ord 8 (regs ran [(2, store0 64)]) [(store0 64, 8)] [{ ea := store0 64, n := 8, spot := .mem loc key }] t ∧
      Released t 15 ∧ Drained t .stores ∧ (t.settle t.here (homesOf loc 8)).ordAccept loc 8 1 = .inl v) ∧
    (Ready (.abd 1 2 3) grouped ∧ grouped.source (.abd 1 2 3) 0 = store0 64 ∧ ∃ loc key code,
      LocatesAll .ord 8 grouped [(store0 64, 8)] [{ ea := store0 64, n := 8, spot := .mem loc key }] grouped ∧
      Drained grouped .stores ∧ (grouped.settle grouped.here (homesOf loc 8)).ordAccept loc 8 1 = .inr code) ∧
    (Ready {} ran ∧ ran.cur.lost = none ∧ ran.drained ran.self .corePoint = true) ∧
    (Ready {} (withStores ran [queued 64]) ∧ (withStores ran [queued 64]).cur.lost = none ∧
      (withStores ran [queued 64]).drained ran.self .corePoint = false ∧ (0xC : BitVec 4).getLsbD 2 = true ∧ drainOf 4 ≠ .none) ∧
    Drained ran .system ∧ Resumed {} (again ran [] 0 1) [] 0 1 ∧
    (Ready { srcs := [2, 3], dst := some 1, dsrc := some 1 } (regs ran [(2, pad 64)]) ∧
      ∃ loc key t bs u, LocatesAll .wait 8 { regs ran [(2, pad 64)] with armed := [] } [(pad 64, 8)]
        [{ ea := pad 64, n := 8, spot := .mem loc key }] t ∧ Drained t .corePoint ∧ t.coreRead t.here loc 8 key = (bs, false, u)) ∧
    (Resumed { srcs := [2, 3], dst := some 1, dsrc := some 1 } (again ran [pad 64, 0, 5] 0 0) [pad 64, 0, 5] 0 0 ∧
      ∃ loc key t bs u, LocatesAll .wait 8 { again ran [pad 64, 0, 5] 0 0 with armed := [] } [(pad 64, 8)]
        [{ ea := pad 64, n := 8, spot := .mem loc key }] t ∧ Drained t .corePoint ∧ t.coreRead t.here loc 8 key = (bs, false, u)) := by
  simp only [ready_iff, resumed_iff]
  exact ⟨⟨by decide +kernel, locCommon 0 0 64, none, regs ran [(2, store0 64)], _, ⟨_, regs ran [(2, store0 64)], _, by decide +kernel, rfl, rfl, rfl⟩, fun _ => ⟨rfl, fun _ => rfl⟩, ⟨rfl, fun _ => rfl⟩, rfl⟩, ⟨by decide +kernel, by decide +kernel, locCommon 0 0 64, none, 2, ⟨_, grouped, _, by decide +kernel, rfl, rfl, rfl⟩, ⟨rfl, fun _ => rfl⟩, rfl⟩,
    by decide +kernel, by decide +kernel, ⟨rfl, fun _ => rfl⟩, by decide +kernel,
    ⟨by decide +kernel, _, _, _, _, _, locates_one _ _ _ _ _ (padSpot 64) (by decide +kernel), ⟨rfl, fun _ => rfl⟩, rfl⟩,
    ⟨by decide +kernel, _, _, _, _, _, locates_one _ _ _ _ _ (padSpot 64) (by decide +kernel), ⟨rfl, fun _ => rfl⟩, rfl⟩⟩

/-- A process on `paged` with a store of `n` bytes to HOST address 0x30008 in its queue. -/
def hostQueued (n : Nat) : State :=
  withStores (regs paged [(2, 0x30008)]) [{ queued 64 with target := some (.port 0 196616 false), bytes := leBytes 7 n }]

/-- The HOST clauses of Loads and Atomics: an own queued store that holds all the bytes, and one that holds a part; an AMO that
becomes a request of the port, and its two completions. -/
theorem test_witness_hostPages :
    (∀ n, n = 8 ∨ n = 4 → Ready (.ad 1 2) (hostQueued n) ∧ LocatesAll .load 8 (hostQueued n) [(0x30008, 8)]
      [{ ea := 0x30008, n := 8, spot := .port 0 196616 false }] (hostQueued n)) ∧
    (hostQueued 8).forwardBy (QStore.hostByte 0) (fromTo 196616 8) = .whole (leBytes 7 8) ∧
    (hostQueued 4).forwardBy (QStore.hostByte 0) (fromTo 196616 8) = .partly ∧
    (∀ s, s = regs paged [(2, 0x30008)] ∨ s = again paged [0x30008, 1] 9 1 ∨ s = again paged [0x30008, 1] 9 2 →
      LocatesAll (.amo 0) 8 s [(0x30008, 8)] [{ ea := 0x30008, n := 8, spot := .port 0 196616 false }] s ∧ Released s 15 ∧
        Drained s .stores) ∧
    Ready (.abd 1 2 3) (regs paged [(2, 0x30008)]) ∧ (regs paged [(2, 0x30008)]).source (.abd 1 2 3) 0 = 0x30008 ∧
    Resumed (.abd 1 2 3) (again paged [0x30008, 1] 9 1) [0x30008, 1] 9 1 ∧
    Resumed (.abd 1 2 3) (again paged [0x30008, 1] 9 2) [0x30008, 1] 9 2 := by
  simp only [ready_iff, resumed_iff]
  refine ⟨?_, by decide +kernel, by decide +kernel, ?_, by decide +kernel, by decide +kernel, by decide +kernel, by decide +kernel⟩
  · rintro n (rfl | rfl) <;> exact ⟨by decide +kernel, locates_one _ _ _ _ _ _ (by decide +kernel)⟩
  · rintro s (rfl | rfl | rfl) <;>
      exact ⟨locates_one _ _ _ _ _ _ (by decide +kernel), fun _ => ⟨rfl, fun _ => rfl⟩, ⟨rfl, fun _ => rfl⟩⟩

/-! ## The step, traps and the invariant -/

/-- StepKeepsInvariant: the machine with an instruction placed steps from a state that meets the invariant. -/
theorem test_witness_stepKeepsInvariant :
    State.Inv (State.withFetchWord State.reset 32 0x0841FFFF) ∧
      ∃ t, step (State.withFetchWord State.reset 32 0x0841FFFF) = .next t := ⟨(rfl : _ = _), _, rfl⟩

/-- UnassignedWords: the zero word, and words of the reserved major opcodes 7 and 0x28. -/
theorem test_witness_unassignedWords :
    (0 : IWord).toNat / 2 ^ 26 = 0 ∧ (0x1C000000 : IWord).toNat / 2 ^ 26 = 7 ∧ 0x28 ≤ (0xA0000000 : IWord).toNat / 2 ^ 26 := by
  decide

/-- DecodeEncode: a well-formed instruction and its word. -/
theorem test_witness_decodeEncode :
    (Instr.addi 1 2 0xFFFF).wellFormed = true ∧ encode (.addi 1 2 0xFFFF) = some (0x02#6 ++ 1#5 ++ 2#5 ++ 0xFFFF#16) ∧
      decodeWord (0x02#6 ++ 1#5 ++ 2#5 ++ 0xFFFF#16) = .ok (.addi 1 2 0xFFFF) := ⟨rfl, rfl, rfl⟩

/-- The word of `addi g1, g2, −1` placed. -/
def placed : State := State.withFetchWord State.reset 32 (0x02#6 ++ 1#5 ++ 2#5 ++ 0xFFFF#16 : IWord).toNat

/-- The focus of the placed state's step. -/
def focused : State := State.focus { placed with agenda := [] } monitorSlot

/-- StepRunsDecoded: a fetch whose bytes decode, and an instruction in progress. -/
theorem test_witness_stepRunsDecoded :
    (∃ sp t u bs, placed.agenda = [.issue 255] ∧ placed.hasPkg (pkgOf 255) = true ∧ (placed.core 255).running = some monitorSlot ∧
      focused.coreUp 255 = true ∧ focused.cur.held = none ∧ focused.cur.inflight = none ∧ focused.boundary 255 = none ∧
      focused.cur.pc.toNat < 2 ^ 52 ∧ focused.translate focused.here focused.cur.domain.toNat focused.cur.pc .exec = (.ok sp, t) ∧
      sp = .mem 0 (some 0) ∧ t.engFetch t.here sp 4 = .ok bs u ∧ (∀ b ∈ bs, b.2 = false) ∧
      decode (bs.map (·.1)) = .ok (.addi 1 2 0xFFFF, [])) ∧
    (let s := on placed fun p => { p with inflight := some (.addi 1 2 0xFFFF, 0) }
     let f := State.focus { s with agenda := [] } monitorSlot
     s.agenda = [.issue 255] ∧ s.hasPkg (pkgOf 255) = true ∧ (s.core 255).running = some monitorSlot ∧ f.coreUp 255 = true ∧
       f.cur.held = none ∧ f.cur.inflight = some (.addi 1 2 0xFFFF, 0)) := by
  exact ⟨⟨.mem 0 (some 0), focused, focused, (bytesOfWord (0x02#6 ++ 1#5 ++ 2#5 ++ 0xFFFF#16)).map (·, false), by decide, by decide,
    by decide, by decide, by decide, by decide, by decide, by decide, rfl, rfl, rfl, by decide +kernel, rfl⟩, by decide⟩

/-- TakingTrap, ReturningFromTrap: a cause with its details; a process in single step whose instruction names no port. -/
theorem test_witness_traps :
    ((0x05 < 256) ∧ [(1 : Word), 2].length ≤ 4) ∧
    ((Shape.ad 1 2).dst = some 1 ∧ (∀ r ∈ (Shape.ad 1 2).named, (on ran fun p => { p with sstep := true }).cur.port r = none) ∧
      (on ran fun p => { p with sstep := true }).cur.sstep = true) := by decide

/-- RegisterFrame: an instruction on registers, and a process with a vector extension. -/
theorem test_witness_registerFrame :
    ran.cur.sstep = false ∧ registerOnly (.add 1 2 3) = true ∧ shapeOf (.add 1 2 3) = some (.abd 1 2 3) ∧ Ready (.abd 1 2 3) ran ∧
    Unported (.abd 1 2 3) ran ∧ (∃ t, exec (.add 1 2 3) ran = .next t) ∧ (.abd 1 2 3 : Shape).dst = some 1 ∧
    (on ran fun p => { p with vext := some (VExt.fresh 0) }).cur.vext = some (VExt.fresh 0) := by
  simp only [ready_iff, Unported]
  exact ⟨by decide, by decide, by decide, by decide, by decide, ⟨_, rfl⟩, by decide, rfl⟩

/-! ## Stores performed, walks and the scheduler -/

/-- StorePerformed: a store to the own scratchpad, one to a common store and one to HBM, at the head of the queue. -/
theorem test_witness_storePerformed :
    ∀ loc ∈ [locSpad 255 64, locCommon 0 0 64, locHbm 0 65536], let q := { queued 64 with target := some (.mem loc) }
      let s := withStores ran [q]
      s.mem.wf = true ∧ (s.core 255).storeQ[0]? = some q ∧ (s.core 255).storeQ.length = 1 ∧ q.target = some (.mem loc) ∧
        q.bytes ≠ [] ∧ (∀ x ∈ q.parts loc, x.1 / 8 = loc / 8 ∧ x.1 + x.2.length ≤ loc / 8 * 8 + 8) ∧ q.passed = false ∧ s.mayPass 255 0 q = true ∧
        (s.modCore 255 fun x => { x with storeQ := passedOf x.storeQ q }).mayPerform 255 0 q = true ∧ s.ordadds = [] ∧
        (s.base (baseOfHbm loc)).fenced = none ∧ s.seals = [] ∧ s.dieUp 0 = true ∧ s.dieUp (dieOfCore 255) = true := by
  decide +kernel

/-- A page table of domain 0 at physical address 0x10000 that shows frame 0 as page 0, read and written by the walker. -/
def walkable : State :=
  let d : Domain := { Domain.atReset 0 with root := 0x10000 }
  let s := pkg0 ran fun x => { x with domains := x.domains.put 0 d }
  let t := State.modCluster s 15 fun x => { x with tcache := [] }
  { t with mem := (((t.mem.write (locHbm 0 0x10000) (leBytes 0x11001 8)).write (locHbm 0 0x11000)
      (leBytes 0x12001 8)).write (locHbm 0 0x12000) (leBytes 0x13001 8)).write (locHbm 0 0x13000) (leBytes 0x27 8) }

/-- A fault of domain 0 that waits for its pager, an ANY receiving end of four slots at endpoint 0. -/
def faulted : State :=
  let d : Domain := { Domain.atReset 0 with pager := hand0 }
  let f : FaultEntry :=
    { serial := 1, va := 0x70000, domain := 0, writes := false, fetches := false, engines := false, malformed := false,
      level := 0, first := 1, waiters := [], sent := false, ticket := none, toMonitor := false }
  let s := pkg0 ran fun x => { x with domains := x.domains.put 0 d }
  let t := s.modBase 0 fun x => { x with faults := x.faults.put 3 f }
  withEntry t 0 { Endpoint.empty with state := 1, mode := 2, cls := 1, shape := 64, rlen := 4, called := 4 }

/-- A process that waits for a completion of port 0's reads, three posted writes behind it. -/
def awaiting : State := on ran fun p => { p with wait := .reply, portRead := some (0, 3) }

/-- `faulted` with the ticket of its fault taken. -/
def ticketed : State :=
  faulted.modBase 0 fun x => { x with faults := x.faults.map fun e => (e.1, { e.2 with ticket := some (epNo 0, 0) }) }

/-- `faulted` with the pager's endpoint gone since the fault waited there, and the monitor's open. -/
def orphaned : State :=
  withEntry (faulted.modBase 0 fun x => { x with faults := x.faults.map fun e => (e.1, { e.2 with toMonitor := true }) })
    Config.monitorIndex { Endpoint.empty with state := 1, mode := 2, cls := 1, shape := 192, rlen := 3, called := 1 }

/-- A parked process with the reply of its access on its way. -/
def slow : State :=
  { on ran fun p => { p with state := .parked, waitk := 13, wait := .memory } with
    late := [(monitorSlot, { ran.cur with pc := 0x10004 })] }

/-- MemoryEvents: a process that waits for a completion and two that wait for a slow access, one held for 16 cycles, a walk that
misses, a fault that takes its ticket, one that goes to the monitor, and one whose ticket has been called. -/
theorem test_witness_memoryEvents :
    (((on ran fun p => { p with wait := .reply }).proc monitorSlot).wait = .reply ∧
      ((on ran fun p => { p with wait := .reply }).proc monitorSlot).portRead = none) ∧
    ((awaiting.proc monitorSlot).wait = .reply ∧ (awaiting.proc monitorSlot).portRead = some (0, 3)) ∧
    (((on ran fun p => { p with wait := .memory }).proc monitorSlot).wait = .memory ∧ ran.late.find? monitorSlot = none) ∧
    (∃ q, (slow.proc monitorSlot).wait = .memory ∧ slow.late.find? monitorSlot = some q ∧
      (slow.proc monitorSlot).state = .parked ∧ (slow.proc monitorSlot).waitk = 13 ∧
      (slow.proc monitorSlot).resident = true) ∧
    ((ran.proc monitorSlot).wait ≠ .reply ∧ (ran.proc monitorSlot).wait ≠ .memory) ∧
    (let s := pkg0 (on ran fun p => { p with held := some 0 }) fun x => { x with time := 16 }
     (s.core 255).running = some monitorSlot ∧ coreOf monitorSlot = 255 ∧ (s.proc monitorSlot).held = some 0 ∧
       0 + 16 ≤ s.now 255) ∧
    ((walkable.mem.wf = true ∧ (walkable.cluster (clusterOf 255)).hit 0 0 = none) ∧
      walkable.walkFenced (baseOfDie (dieOfCore 255)) 0 0 = none ∧
      ∃ w level pa, walkable.walk (baseOfDie (dieOfCore 255)) 0 0 = .inl (w, level, pa)) ∧
    (∃ f, (faulted.base 0).faults.find? 3 = some f ∧ f.sent = false ∧ f.toMonitor = false ∧ ((faulted.pkg 0).domain f.domain).pager = hand0 ∧
      (faulted.ep (epOfHandle hand0)).isSink (fun n => 1 ≤ n && n ≤ 64) = true ∧
      f.ticket = none) ∧
    (∃ f, (orphaned.base 0).faults.find? 3 = some f ∧ f.sent = false ∧ f.ticket = none ∧ f.toMonitor = true ∧
      (orphaned.ep (monitorEp 0)).takesRecords = true) ∧
    (∃ f, (ticketed.base 0).faults.find? 3 = some f ∧ f.sent = false ∧ f.ticket = some (epNo 0, 0) ∧
      (ticketed.ep (epNo 0)).hasCalled 0 = true) ∧ hand0 ≠ 0 ∧ faulted.accepts hand0 0 = true := by
  exact ⟨by decide, by decide, by decide, ⟨_, by decide, rfl, by decide, by decide, by decide⟩, by decide, by decide,
    ⟨by decide +kernel, by decide +kernel, _, _, _, rfl⟩, ⟨_, rfl, rfl, rfl, rfl, by decide, by decide⟩,
    ⟨_, rfl, rfl, rfl, rfl, by decide⟩, ⟨_, rfl, rfl, rfl, by decide⟩, by decide, accepts0 _ rfl rfl (by decide) rfl⟩

/-- Two ready contexts of core 255 beside an idle issue slot: context 1 of level 2, context 2 of level 3 not resident. -/
def queuedUp : State :=
  let s := core255 ran fun x => { x with running := none, ready2 := [ctx 1], ready3 := [ctx 2] }
  let t := on s fun p => { p with state := .parked, waitk := 8, deadline := some 0, wait := .sleep }
  withProc (withProc t (ctx 1) (procIn .ready 2)) (ctx 2) { procIn .ready 3 with resident := false }

/-- The running process at level 3, with the ready process of level 2 before it. -/
def contested : State :=
  core255 (on queuedUp fun p => { p with state := .running, prio := 3, waitk := 0, wait := .none, slice := some 0 }) fun x =>
    { x with running := some monitorSlot }

/-- Eight resident contexts, and context 9 first in the queue and not resident. -/
def crowded : State :=
  let s := core255 ran fun x => { x with ready0 := [ctx 9], ready3 := [ctx 1] }
  let t := (upTo 7).foldl (fun (u : State) i => withProc u (ctx (i + 1)) (procIn (if i = 0 then .ready else .parked) 3)) s
  withProc t (ctx 9) { procIn .ready 0 with resident := false }

/-- SchedulerAndTime: dispatch, pre-emption, the end of a slice and of a budget, a spill, a fill, an arrival, a deadline and a
heartbeat. -/
theorem test_witness_schedulerAndTime :
    ((queuedUp.core 255).running = none ∧ queuedUp.coreUp 255 = true ∧ queuedUp.choice 255 = some (ctx 1) ∧
      coreOf (ctx 1) = 255 ∧ 2 ≤ (queuedUp.proc (ctx 1)).prio.toNat) ∧
    ((contested.core 255).running = some monitorSlot ∧ contested.outranked 255 = true ∧
      (contested.proc monitorSlot).sliceOver = true) ∧
    (let s := on ran fun p => { p with used := 65536 }
     (s.core 255).running = some monitorSlot ∧ (s.proc monitorSlot).overBudget = true) ∧
    (crowded.wanted 255 = some (ctx 9) ∧ crowded.victim 255 = some (ctx 2) ∧ 8 ≤ (crowded.residents 255).length ∧
      (crowded.proc (ctx 2)).state = .parked) ∧
    (contested.wanted 255 = none ∧ (core255 queuedUp fun x => { x with ready2 := [] }).wanted 255 = some (ctx 2) ∧
      ((core255 queuedUp fun x => { x with ready2 := [] }).residents 255).length < 8) ∧
    (let s := withProc (core255 ran fun x => { x with arrivals := [ctx 1] }) (ctx 1) (procIn .arriving 0)
     (s.core 255).arrivals = [ctx 1] ∧ (s.proc (ctx 1)).state = .arriving) ∧
    ((queuedUp.proc monitorSlot).deadline = some 0 ∧ (queuedUp.proc monitorSlot).state = .parked ∧
      0 ≤ queuedUp.now (coreOf monitorSlot) ∧ (queuedUp.proc monitorSlot).waitk = 8) ∧
    (let s := pkg0 (on ran fun p => { p with wait := .tick 511, held := some 0 }) fun x => { x with time := 512 }
     (s.pkg 0).present = true ∧ 512 * ((s.pkg 0).heartbeat + 1) ≤ (s.pkg 0).time ∧ monitorSlot ∈ s.live ∧
       (s.proc monitorSlot).wait = .tick 511 ∧ 511 < (s.pkg 0).time ∧ (s.proc monitorSlot).held.isSome = true ∧
       (s.proc monitorSlot).state = .running) := by decide

/-! ## Vector and tile instructions -/

/-- A process that holds a vector extension whose m1 makes lanes 0 and 1 of eight-byte lanes active. -/
def vec : State := on ran fun p => { p with vext := some { VExt.fresh 0 with m := (VExt.fresh 0).m.set 1 0x0101 } }

/-- The vector instructions start, with an extension held and with one to be allocated: VectorArithmetic,
VectorCompares, VectorConversions, VectorMisc. -/
theorem test_witness_vectorInstructions :
    Ready .vector ran ∧ Ready .vector vec ∧ 8 ≤ (11 : BitVec 4).toNat ∧ (∀ t : BitVec 4, t = 0 ∨ t = 3 → t.toNat < 4) ∧
    Ready { full := true, vec := true } ran ∧ Ready { full := true, vec := (0 : PReg) ≠ 0 || (0 : PReg) ≠ 0 || (0 : PReg) ≠ 0 } ran ∧
    Ready { srcs := [1], full := true, vec := true } ran ∧ Ready { srcs := [2], dst := some 1, full := true, vec := true } ran ∧
    Ready { srcs := [1, 2], full := true, vec := true } ran := by
  simp only [ready_iff]; decide

/-- The format codes of VectorConversions: each legal code, the narrow ones of VQMX, the widths of VSEXP, and the types of
VSFU's special cases. -/
theorem test_witness_vectorFormats :
    (∃ N, Fmt.ofCode 14 = some N) ∧ (∀ n ∈ [5, 6, 7, 8, 9], ∃ N, Fmt.ofCode n = some (.float N) ∧ 5 ≤ n ∧ n ≤ 9) ∧ (1 : BitVec 4) ≠ 0 ∧
    (∃ N, Fmt.ofCode 9 = some N ∧ 0 < widthOfCode 9 ∧ widthOfCode 9 ≤ laneBits 0 ∧ 512 / laneBits 0 * widthOfCode 9 ≤ 384) ∧
    (∀ c, c < 4 → ∃ F, F = FFmt.ofType c) := by
  refine ⟨⟨_, rfl⟩, ?_, by decide +kernel, ⟨_, rfl, by decide +kernel⟩, fun c _ => ⟨_, rfl⟩⟩
  intro n hn
  simp only [List.mem_cons, List.not_mem_nil, or_false] at hn
  rcases hn with rfl | rfl | rfl | rfl | rfl <;> exact ⟨_, rfl, by decide +kernel⟩

/-- The shapes of vector accesses with a base, and a base and a stride. -/
def vone : Shape := { srcs := [2], full := true, vec := true }
def vtwo : Shape := { srcs := [2, 3], full := true, vec := true }

/-- The lanes m1 makes active in eight-byte lanes. -/
theorem test_witness_activeLanes :
    ((List.range 8).filter fun i => ((vec.extended vone).cur.mask 1).getLsbD (8 * i)) = [0, 1] := by decide +kernel

/-- VectorLoads: two lanes located and read, a lane that is not aligned after one that is, elements of a pointer. -/
theorem test_witness_vectorLoads :
    (let s := regs vec [(2, pad 64), (3, 8)]
     Ready vone s ∧ Ready vtwo s ∧ (∃ accs u bs v, LocatesAll .load 8 (s.extended vone) [(pad 64, 8), (pad 72, 8)] accs u ∧
       ReadsAll u accs bs v)) ∧
    (let s := regs vec [(2, pad 64), (3, 1)]
     addAddr (s.source vtwo 0) (((1 : Nat) : Int) * (s.source vtwo 1).toInt) = pad 65 ∧ (pad 65).toNat % 2 ^ 56 % 8 ≠ 0 ∧
       ∃ accs u, LocatesAll .load 8 (s.extended vtwo) [(pad 64, 8)] accs u) ∧
    (let s := regs vec [(2, fp32At 64)]
     Ready vone s ∧ ∃ x y accs u bs v, [0, 1].map (fun i => elem (s.source vone 0) i) = [.ok x, .ok y] ∧
       LocatesAll .load 1 (s.extended vone) [(fp32At 64, 4), (fp32At 68, 4)] accs u ∧
       [x, y].flatMap (fun x => parts x.addr x.nb) = [(fp32At 64, 4), (fp32At 68, 4)] ∧ ReadsAll u accs bs v) := by
  simp only [ready_iff]
  exact ⟨⟨by decide +kernel, by decide +kernel, [padAcc 64 8, padAcc 72 8], _, _, _, locates_cons _ _ _ _ _ (padSpot 64) _ _ (by decide +kernel) (locates_one _ _ _ _ _ (padSpot 72) (by decide +kernel)),
      _, _, _, .inr ⟨rfl, rfl⟩, rfl, _, _, _, .inr ⟨rfl, rfl⟩, rfl, rfl, rfl⟩,
    ⟨by decide +kernel, by decide +kernel, [padAcc 64 8], _, locates_one _ _ _ _ _ (padSpot 64) (by decide +kernel)⟩,
    ⟨by decide +kernel, { addr := fp32At 64, nb := 4, sh := 0, w := 32, f := 2, k := 0 }, { addr := fp32At 68, nb := 4, sh := 0, w := 32, f := 2, k := 0 },
      [{ ea := fp32At 64, n := 4, spot := .mem (locSpad 255 64) none }, { ea := fp32At 68, n := 4, spot := .mem (locSpad 255 68) none }],
      _, _, _, rfl, locates_cons _ _ _ _ _ (padSpot 64) _ _ (by decide +kernel) (locates_one _ _ _ _ _ (padSpot 68) (by decide +kernel)), by decide +kernel,
      ⟨_, _, _, .inr ⟨rfl, rfl⟩, rfl, _, _, _, .inr ⟨rfl, rfl⟩, rfl, rfl, rfl⟩⟩⟩

/-- VectorStores: two lanes to the scratchpad, a VSCAT with lane 0 already performed, VSTT of whole and of 4-bit elements. -/
theorem test_witness_vectorStores :
    (let s := regs vec [(2, pad 64), (3, 8)]
     Ready vone s ∧ Ready vtwo s ∧ ∃ accs u v, LocatesAll .store 8 (s.extended vone) [(pad 64, 8), (pad 72, 8)] accs u ∧
       Puts accs [leBytes 1 8, leBytes 2 8] (.unsigned 8) u v) ∧
    ([0, 1].filter fun i => !((on vec fun p => p.setVprog 1).extended vone).cur.vprog.getLsbD i) = [1] ∧
    (∃ x accs u v, elem (fp32At 64) 0 = .ok x ∧ 8 ≤ elemWidth ((fp32At 64).toNat / 2 ^ 59) ∧
      LocatesAll .store 1 (vec.extended vone) (parts x.addr x.nb) accs u ∧
      (∀ a ∈ accs, stepRefuses a.spot 2 32 = false) ∧ PutsElems 2 [(x, 7)] u v) ∧
    (∃ x accs u accs2 u2 bs u3 v, elem (e2m1At 64) 0 = .ok x ∧ elemWidth ((e2m1At 64).toNat / 2 ^ 59) < 8 ∧
      LocatesAll .store 1 (vec.extended vone) (parts x.addr x.nb) accs u ∧ (∀ a ∈ accs, stepRefuses a.spot 9 4 = false) ∧
      LocatesAll .load 1 u (parts x.addr x.nb) accs2 u2 ∧ ReadsAll u2 accs2 bs u3 ∧
      PutsElems 9 (packStores [(x, 3, 0)] []) u3 v) := by
  simp only [ready_iff]
  refine ⟨⟨by decide +kernel, by decide +kernel, [padAcc 64 8, padAcc 72 8], _, _, locates_cons _ _ _ _ _ (padSpot 64) _ _ (by decide +kernel) (locates_one _ _ _ _ _ (padSpot 72) (by decide +kernel)), ⟨_, rfl, ⟨_, rfl, _, rfl, rfl⟩, rfl⟩⟩, by decide +kernel,
    ⟨{ addr := fp32At 64, nb := 4, sh := 0, w := 32, f := 2, k := 0 }, [{ ea := fp32At 64, n := 4, spot := .mem (locSpad 255 64) none }],
      _, _, rfl, by decide +kernel, locates_one _ _ _ _ _ (padSpot 64) (by decide +kernel), by decide +kernel,
      ⟨[{ ea := fp32At 64, n := 4, spot := .mem (locSpad 255 64) none }], _, locates_one _ _ _ _ _ (padSpot 64) (by decide +kernel), _, rfl, ⟨_, rfl, rfl⟩, rfl⟩⟩, ?_⟩
  refine ⟨{ addr := e2m1At 64, nb := 1, sh := 0, w := 4, f := 9, k := 0 }, [{ ea := e2m1At 64, n := 1, spot := .mem (locSpad 255 64) none }],
    vec.extended vone, [{ ea := e2m1At 64, n := 1, spot := .mem (locSpad 255 64) none }], vec.extended vone, [[0]],
    vec.extended vone, _, rfl, by decide +kernel, locates_one _ _ _ _ _ (padSpot 64) (by decide +kernel), by decide +kernel, locates_one _ _ _ _ _ (padSpot 64) (by decide +kernel),
    ⟨_, _, _, .inr ⟨rfl, rfl⟩, rfl, rfl, rfl⟩,
    [{ ea := e2m1At 64, n := 1, spot := .mem (locSpad 255 64) none }], _, locates_one _ _ _ _ _ (padSpot 64) (by decide +kernel), _, rfl, ⟨_, rfl, rfl⟩, rfl⟩

/-- VectorAtomics: each member with its type code, and a lane performed. -/
theorem test_witness_vectorAtomics :
    (∀ p ∈ amoTable, p.2.1.code < 9 → ∃ o : BitVec 4, p.2.1.code = o.toNat ∧ o.toNat < 9) ∧
    (let s := regs vec [(2, pad 64)]
     Ready vone s ∧ ∃ accs t u olds v, LocatesAll (.amo 0) 8 (s.extended vone) [(pad 64, 8)] accs t ∧ Drained t .stores ∧
       ReservesAll t accs u ∧ PerformsAll .add (fun old x => (old + x) % 2 ^ 64) (fun _ => 1) u ([0].zip accs) olds v) := by
  simp only [ready_iff]
  refine ⟨by decide +kernel, by decide +kernel, [padAcc 64 8], _, _, _, _, locates_one _ _ _ _ _ (padSpot 64) (by decide +kernel), ⟨rfl, fun _ => rfl⟩, ⟨_, rfl, rfl⟩,
    _, _, _, ⟨_, _, rfl, rfl, rfl⟩, rfl, rfl, rfl⟩

/-- A process with a pool of four templates at scratchpad offset 0, the first a TZ of tile 1, the second a CPL, the third of a
code that is none, the fourth a TMMA of FMTA code 20. -/
def pooled : State :=
  let s := on ran fun p => { p with pool := BitVec.ofNat 64 (4 * 2 ^ 20) }
  withPad (withPad (withPad (withPad s 0 (cword 1 1 0 0 0 0 0 0 0 0 0).toNat 32) 32 (cword 0x40 0 0 0 0 0 8 0 0 0 0).toNat 32) 64 9 32) 96
    (cword 2 0 20 3 2 0 0 0 0 0 0).toNat 32

/-- The four words of the template at an offset, as located accesses. -/
def template (pa : Nat) : List Acc := (List.range 4).map fun j => padAcc (pa + 8 * j) 8

/-- Queues of sixteen commands. -/
def full16 : State :=
  core255 pooled fun x => { x with tileQ := List.replicate 16 (cmd (cword 0 0 0 0 0 0 0 0 0 0 0) 0) }

/-- TileIssue: an index past the pool, a template that is taken, one of no code, one with a reserved format, a full queue;
TWAIT with and without commands; SETLUT with its 1,024 bytes. -/
theorem test_witness_tileIssue :
    Ready { srcs := [1, 2, 3], full := true } pooled ∧ pooled.cur.pool.toNat / 2 ^ 20 % 2 ^ 12 = 4 ∧
    (∀ i : Nat, i < 4 → ∃ bss t, ReadsAll pooled (template (32 * i)) bss t) ∧
    (∃ bss, ReadsAll pooled (template 0) bss pooled ∧ leVal bss.flatten = (cword 1 1 0 0 0 0 0 0 0 0 0).toNat) ∧
    (∃ bss, ReadsAll pooled (template 64) bss pooled ∧ leVal bss.flatten % 256 = 9) ∧
    (∃ bss, ReadsAll pooled (template 96) bss pooled ∧ reservedFormat (BitVec.ofNat 256 (leVal bss.flatten)) = true) ∧
    reservedFormat (cword 1 1 0 0 0 0 0 0 0 0 0) = false ∧ reservedFormat (cword 0x40 0 0 0 0 0 8 0 0 0 0) = false ∧
    namedTiles (cword 1 1 0 0 0 0 0 0 0 0 0) = [1] ∧ pooled.tileTaken pooled.self 1 = false ∧
    (Ready { srcs := [1, 2, 3], full := true } full16 ∧ (full16.core 255).tileQ.length = 16 ∧
      ∃ bss t, ReadsAll full16 (template 0) bss t) ∧
    (Ready { full := true } ran ∧ ran.commandsOf ran.self = [] ∧ ran.openTape = none) ∧
    (Ready { full := true } full16 ∧ full16.commandsOf full16.self ≠ []) ∧ Ready { dst := some 1, full := true } full16 ∧
    (let s := regs ran [(1, pad 1024)]
     Ready { srcs := [1], full := true } s ∧ ∃ key u bs,
       s.classify s.here s.cur.domain.toNat s.cur.supv (pad 1024) 1024 .read = (.ok (.mem (locSpad s.here 1024) key), u) ∧
       1024 + 1024 ≤ 393216 ∧ (pad 1024).toNat % 64 = 0 ∧
       (s.settle s.here (homesOf (locSpad s.here 1024) 1024)).lutSource (locSpad s.here 1024) [] (upTo 128) [] = some (.inl bs) ∧
       bs.length = 1024) := by
  simp only [ready_iff]
  refine ⟨by decide, by decide, ?_, ⟨_, ⟨_, _, _, .inr ⟨rfl, rfl⟩, rfl, _, _, _, .inr ⟨rfl, rfl⟩, rfl, _, _, _, .inr ⟨rfl, rfl⟩, rfl, _, _, _, .inr ⟨rfl, rfl⟩, rfl, rfl, rfl⟩, rfl⟩,
    ⟨_, ⟨_, _, _, .inr ⟨rfl, rfl⟩, rfl, _, _, _, .inr ⟨rfl, rfl⟩, rfl, _, _, _, .inr ⟨rfl, rfl⟩, rfl, _, _, _, .inr ⟨rfl, rfl⟩, rfl, rfl, rfl⟩, rfl⟩,
    ⟨_, ⟨_, _, _, .inr ⟨rfl, rfl⟩, rfl, _, _, _, .inr ⟨rfl, rfl⟩, rfl, _, _, _, .inr ⟨rfl, rfl⟩, rfl, _, _, _, .inr ⟨rfl, rfl⟩, rfl, rfl, rfl⟩, rfl⟩,
    by decide, by decide, by decide, by decide,
    ⟨by decide, by decide, _, _, _, _, _, .inr ⟨rfl, rfl⟩, rfl, _, _, _, .inr ⟨rfl, rfl⟩, rfl, _, _, _, .inr ⟨rfl, rfl⟩, rfl, _, _, _, .inr ⟨rfl, rfl⟩, rfl, rfl, rfl⟩,
    by decide, by decide, by decide, ⟨by decide, _, _, List.replicate 1024 0, rfl, by decide, by decide, by decide +kernel, by decide +kernel⟩⟩
  intro i hi
  have : i = 0 ∨ i = 1 ∨ i = 2 ∨ i = 3 := by omega
  rcases this with rfl | rfl | rfl | rfl <;>
    exact ⟨_, _, _, _, _, .inr ⟨rfl, rfl⟩, rfl, _, _, _, .inr ⟨rfl, rfl⟩, rfl, _, _, _, .inr ⟨rfl, rfl⟩, rfl, _, _, _, .inr ⟨rfl, rfl⟩, rfl, rfl, rfl⟩

/-! ## Engine commands -/

/-- An address field that names an offset of the issuer's scratchpad. -/
def spadField (o : Nat) : Nat := 0x00C0000000000000 + o

/-- TMMA of BF16 with K 1, TSMMA of SP 1 with a K that is no multiple of 24, TLDACC, TEW, TST, TMOV and TRED, one unit before
their ends. -/
def mma : Cmd := cmd (cword 2 1 3 3 2 0 1 (spadField 0) (spadField 1024) 0 0) 31
def smma (k ss : Nat) : Cmd := cmd (cword 3 1 3 3 2 1 k (spadField 0) (spadField 1024) ss 0) 31
def ldacc (fa a slay : Nat) : Cmd := cmd (cword 4 1 fa 0 0 0 0 a 0 (spadField 512) slay) 31
def ew (slay a b : Nat) : Cmd := cmd (cword 6 1 0 0 0 0 0 a b 0 slay) 31
def stc (fo a slay : Nat) : Cmd := cmd (cword 5 1 0 0 fo 0 0 a 0 (spadField 512) slay) 31
def red (fo a slay : Nat) : Cmd := cmd (cword 7 1 0 0 fo 0 0 a 0 0 slay) 0

/-- Every command named here is the next of its queue. -/
theorem test_witness_nextTile :
    ∀ q ∈ [cmd (cword 0 0 0 0 0 0 0 0 0 0 0) 0, cmd (cword 1 1 0 0 0 0 0 0 0 0 0) 0, cmd (cword 8 1 0 0 0 0 0 0 0 0 2) 0,
      mma, smma 24 0, smma 25 0, smma 24 4, ldacc 2 (spadField 0) 0, ldacc 5 (spadField 0) 1, ldacc 13 0 0, ldacc 2 8 0, ew 0 0 0,
      ew 9 0 0, ew 10 0 0, ew 0 8 0, ew 0 0 8, stc 2 (spadField 0) 0, stc 5 (spadField 0) 1, stc 13 0 0, stc 2 8 0, red 2 (spadField 0) 0,
      red 13 0 0, red 2 0 3, red 2 8 0], (tiling q).nextTile 255 = some q := by decide +kernel

/-- TileCommands: the operation codes, legal and illegal formats, aligned and misaligned addresses, K of 0. -/
theorem test_witness_tileFields :
    (mma.word.toNat % 2 ^ 8 = 2 ∧ mma.word.toNat / 2 ^ 11 % 2 ^ 5 = 3 ∧ mma.word.toNat / 2 ^ 32 % 2 ^ 16 = 1) ∧
    (20 ∉ [3, 4, 5, 6, 7, 8, 9, 10, 11, 12, 16] ∧ 3 ∈ [3, 4, 5, 6, 7, 8, 9, 10, 11, 12, 16]) ∧
    (25 % 24 ≠ 0 ∧ (smma 25 0).word.toNat / 2 ^ 32 % 2 ^ 16 = 25 ∧ (smma 25 0).word.toNat / 2 ^ 30 % 2 ^ 2 = 1) ∧
    (smma 24 4).word.toNat / 2 ^ 192 % 2 ^ 56 % 8 ≠ 0 ∧ (ldacc 2 8 0).word.toNat / 2 ^ 64 % 2 ^ 56 % 16 ≠ 0 ∧
    (ldacc 5 (spadField 0) 1).word.getLsbD 248 = true ∧ (ew 10 0 0).word.toNat / 2 ^ 248 % 2 ^ 8 % 16 = 10 ∧
    (red 2 0 3).word.toNat / 2 ^ 248 % 2 ^ 8 % 4 = 3 ∧ (ldacc 13 0 0).word.toNat / 2 ^ 11 % 2 ^ 5 = 13 := by decide

/-- A core's first command once it has started and the unit in progress has ended: the command, and the state then. -/
def begun (s : State) (q : Cmd) : Cmd × State :=
  let p := s.startCmd 255 q
  p.2.flushUnit 255 p.1

/-- Whether a part of a command waits. -/
def isHeld {α : Type} : Eng α → Bool
  | .held => true
  | _ => false

theorem held_of {α : Type} (r : Eng α) (h : isHeld r = true) : r = .held := by
  cases r <;> first | rfl | cases h

/-- A TLDACC whose row lies on a STEP page while its home applies a calends. -/
def waitingHome : State := core255 (pkg0 paged fun x => { x with applying := true }) fun x => { x with tileQ := [ldacc 2 0x10000 0] }

/-- A TST with MX quantisation to E4M3. -/
def stmx : Cmd := stc 5 (spadField 0) 1

/-- TileCommands and TileResults: the rows of B and the scales are read and the last row of A runs; a row of TLDACC, plain and
scaled, of TEW and of TST, plain and quantised, and the one unit of TRED run; a row of TLDACC whose page is missing, one
outside every class and one whose home applies a calends do not. -/
theorem test_witness_tileUnits :
    (let b := begun (tiling mma) mma
     (∃ rows t, State.engRows 255 b.1 (spadField 1024) 0 (rowBytes 3 32) (List.range 1) [] b.2 = .ok rows t) ∧
     (∃ sc u, b.2.engScales 255 b.1 false 0 32 = .ok sc u) ∧
     (∃ t, RunsUnits 255 b.1 (State.mmaRow 255 b.1 false ((List.range 32).map fun _ => ([], false))) 1 31 b.2 t) ∧
     (∃ row t, b.2.engRead 255 b.1 (spadField 0) (rowBytes 3 1) = .ok row t) ∧ (∃ F, Fmt.ofCode 3 = some F) ∧
     ((List.range 32).map fun _ => (([] : List XVal), false)).length = 32) ∧
    (let b := begun (tiling (ldacc 2 (spadField 0) 0)) (ldacc 2 (spadField 0) 0)
     (∃ t, RunsUnits 255 b.1 (State.ldRow 255 b.1) 1 31 b.2 t) ∧
     (∃ row t, b.2.engRead 255 b.1 (spadField 0) (rowBytes 2 32) = .ok row t)) ∧
    (let b := begun (tiling (ldacc 5 (spadField 0) 1)) (ldacc 5 (spadField 0) 1)
     ∃ sc u, b.2.engScales 255 b.1 true (spadField 543) 1 = .ok sc u) ∧
    (let b := begun (tiling (ew 0 0 0)) (ew 0 0 0)
     ∃ t, RunsUnits 255 b.1 (State.ewRow 255 b.1) 1 31 b.2 t) ∧
    (let b := begun (tiling (stc 2 (spadField 0) 0)) (stc 2 (spadField 0) 0)
     ∃ t, RunsUnits 255 b.1 (State.stRow 255 b.1) 1 31 b.2 t) ∧
    (stmx.word.getLsbD 248 = true ∧ stmx.word.toNat / 2 ^ 21 % 2 ^ 5 = 5 ∧ ∃ F, Fmt.ofCode 5 = some (.float F)) ∧
    (let b := begun (tiling (red 2 (spadField 0) 0)) (red 2 (spadField 0) 0)
     ∃ t, RunsUnits 255 b.1 (State.redUnit 255 b.1) 1 0 b.2 t) ∧
    (let b := begun (tiling (ldacc 2 0x00B0000000000000 0)) (ldacc 2 0x00B0000000000000 0)
     ∃ cause v, State.ldRow 255 b.1 31 b.2 = .err cause v) ∧
    (let b := begun (tiling (ldacc 2 0x70000 0)) (ldacc 2 0x70000 0)
     ∃ va l g w, State.ldRow 255 b.1 31 b.2 = .miss va l g w) ∧
    (let b := begun waitingHome (ldacc 2 0x10000 0)
     State.ldRow 255 b.1 31 b.2 = .held) := by
  refine ⟨⟨ok_of _ ?_, ok_of _ ?_, runs_one _ _ _ _ _ ?_, ok_of _ ?_, ⟨_, rfl⟩, rfl⟩, ⟨runs_one _ _ _ _ _ ?_, ok_of _ ?_⟩, ok_of _ ?_,
    runs_one _ _ _ _ _ ?_, runs_one _ _ _ _ _ ?_, ⟨?_, ?_, _, rfl⟩, runs_one _ _ _ _ _ ?_, err_of _ ?_, miss_of _ ?_, held_of _ ?_⟩ <;>
    decide +kernel

/-- Whether a part of a command comes to a place. -/
def isAt (sp : Spot) : Eng Spot → Bool
  | .ok x _ => x = sp
  | _ => false

theorem at_of (sp : Spot) (r : Eng Spot) (h : isAt sp r = true) : ∃ u, r = .ok sp u := by
  cases r with
  | ok x u => exact ⟨u, by rw [of_decide_eq_true h]⟩
  | _ => cases h

/-- A CPL of eight bytes from scratchpad offset 0 to 64, with a barrier or none. -/
def cplc (ss : Nat) : Cmd := cmd (cword 0x40 0 0 0 0 0 8 (spadField 64) (spadField 0) ss 0) 0

/-- CopyCommands: the commands are next, the barrier is none, misaligned, in class 0, in the scratchpad; its moves do not overlap;
one unit runs, one stops, one misses its page; its bytes are read and the writes of them located. -/
theorem test_witness_copyCommands :
    (∀ q ∈ [cplc 0, cplc 8, cplc 32, cplc (spadField 128), cmd (cword 0x41 0 0 0 0 0 8 (spadField 64) (spadField 0) 0 0) 0,
      cmd (cword 0x42 0 0 0 0 0 1 (spadField 64) (spadField 0) 0 0) 0], (copying q).nextCopy 255 = some q) ∧
    ((cplc 0).word.toNat % 2 ^ 8 = 0x40 ∧ (cplc 0).word.toNat / 2 ^ 192 % 2 ^ 56 = 0 ∧ 8 % 32 ≠ 0 ∧ 32 % 32 = 0 ∧
      32 < 12 * 2 ^ 52 ∧ 12 * 2 ^ 52 ≤ spadField 128 ∧ spadField 128 % 32 = 0) ∧
    (let b := begun (copying (cplc 0)) (cplc 0)
     let m := b.2.copyMoves 255 b.1
     m.overlaps = false ∧
     (∀ r ∈ b.2.movesOf 255 b.1 (spadField 64, spadField 0, 8), ∀ i, i < r.n → m.source (r.src + i) = none) ∧
     b.2.movesOf 255 b.1 (spadField 64, spadField 0, 8) ≠ [] ∧
     (∃ t, RunsUnits 255 b.1 (fun i t => t.copyUnit 255 b.1 m (spadField 64 + 64 * i, spadField 0 + 64 * i, min 64 (8 - 64 * i)))
       1 0 b.2 t) ∧
     (∃ cause v, b.2.copyUnit 255 b.1 m (0x00B0000000000000, spadField 0, 8) = .err cause v) ∧
     (∃ va l g w, b.2.copyUnit 255 b.1 m (0x70000, spadField 0, 8) = .miss va l g w) ∧
     (∃ new t, b.2.engRead 255 b.1 (spadField 0) 8 = .ok new t) ∧
     (∃ ws u, b.2.engWrite 255 b.1 [(spadField 64, List.replicate 8 (1, false))] = .ok ws u) ∧
     b.2.mem.wf = true ∧ b.2.ordadds = [] ∧ (b.2.core 255).storeQ = []) ∧
    (let b := begun (copying (cplc (spadField 128))) (cplc (spadField 128))
     (∃ u, b.2.engLocate 255 b.1 (spadField 128) 32 .both = .ok (.mem (locSpad 255 128) none) u) ∧ kindOf (locSpad 255 128) ≠ .hbm) := by
  refine ⟨by decide +kernel, by decide, ⟨?_, ?_, ?_, runs_one _ _ _ _ _ ?_, err_of _ ?_, miss_of _ ?_, ok_of _ ?_, ok_of _ ?_, ?_, ?_, ?_⟩,
    ⟨at_of _ _ ?_, by decide⟩⟩ <;> decide +kernel

end Sys2Proof.Tests
end

