-- ==== Sys2Proof/Tests/Witness2.lean ====
section
/-! SUPPORT. Witnesses for the statements on channels, processes, supervision and barriers. -/

namespace Sys2Proof.Tests

open Sys2Proof Sys2Proof.Machine

set_option Elab.async false

/-! ## Channels -/

/-- The running process with registers that name endpoint 0 in g2 and a second operand in g3, and an entry there; its peer is
endpoint 1. -/
def chan (x : Endpoint) (y : Word) : State :=
  withEntry (withEntry (regs ran [(2, hand0), (3, y)]) 0 x) 1 (bound x.mode (!x.dir) x.cls hand0)

/-- ChannelHandles: a handle of another core, one of a free entry, a lost peer, DESYNC, an unbound end. -/
theorem test_witness_channelHandles :
    (Ready da (regs ran [(2, 0)]) ∧ coreOfEp (epOfHandle 0) ≠ ran.here) ∧
    (Ready ab (regs ran [(2, hand0)]) ∧ coreOfEp (epOfHandle hand0) = ran.here ∧ ran.accepts hand0 0 = false ∧
      (ran.ep (epOfHandle hand0)).state = 0) ∧
    (let s := chan { bound 0 true 0 hand1 with linkReason := some 2 } 0
     Ready ab s ∧ OwnEp s hand0 ∧ (s.ep (epOfHandle hand0)).linkReason = some 2) ∧
    (let s := chan { bound 0 true 0 hand1 with state := 3 } 0
     OwnEp s hand0 ∧ (s.ep (epOfHandle hand0)).linkReason = none ∧ (s.ep (epOfHandle hand0)).state = 3) ∧
    (let s := chan { bound 0 true 0 0 with state := 1 } 0
     Ready ab s ∧ s.source ab 0 = hand0 ∧ Usable s hand0 { bound 0 true 0 0 with state := 1 }) := by
  simp only [ready_iff]
  exact ⟨by decide, by decide, ⟨by decide, own0 _ (by decide), by decide⟩, ⟨own0 _ (by decide), by decide⟩,
    ⟨by decide, by decide, usable0 _ _ (by decide)⟩⟩

/-- ChannelWords: a rendezvous sender free to offer and one behind another waiter; a port channel with and without room; a
receiver with a word, with an offer and with neither; the sender acknowledged and the receiver given its word. -/
theorem test_witness_channelWords :
    (let x := bound 0 true 0 hand1
     let s := chan x 7
     Ready ab s ∧ s.source ab 0 = hand0 ∧ Usable s hand0 x ∧ s.isPorted (epNo 0) = false ∧
       Drained (s.operated (epNo 0)) (drainBetween s.here (epNo 1))) ∧
    (let x := { bound 0 true 0 hand1 with waiter := some (ctx 1) }
     Usable (chan x 7) hand0 x ∧ (withProc (chan x 7) (ctx 1) (procIn .parked 2)).behind x = true) ∧
    (let x := { bound 1 true 0 hand1 with portv := true }
     Usable (chan x 7) hand0 x ∧ (chan x 7).isPorted (epNo 0) = true ∧
       (((chan x 7).operated (epNo 0)).ep (epNo 1)).fifo.length < 16 ∧ Drained ((chan x 7).operated (epNo 0)) .corePoint) ∧
    (let x := { bound 1 true 0 hand1 with portv := true }
     let s := withEntry (chan x 7) 1 { bound 1 false 0 hand0 with fifo := List.replicate 16 0 }
     Usable s hand0 x ∧ s.isPorted (epNo 0) = true ∧ 16 ≤ ((s.operated (epNo 0)).ep (epNo 1)).fifo.length) ∧
    (let x := { bound 1 false 0 hand1 with fifo := [5] }
     Ready da (chan x 0) ∧ Usable (chan x 0) hand0 x) ∧
    (let x := { bound 0 false 0 hand1 with offer := some (.word (ctx 1) 2 5) }
     Usable (chan x 0) hand0 x ∧ (chan x 0).behind x = false ∧ x.fifo = []) ∧
    (let x := bound 0 false 0 hand1
     Usable (chan x 0) hand0 x ∧ x.offer = none) ∧
    Resumed ab (again ran [hand0, 7] 0 1) [hand0, 7] 0 1 ∧ Resumed da (again ran [hand0] 7 1) [hand0] 7 1 := by
  simp only [ready_iff, resumed_iff]
  exact ⟨⟨by decide, by decide, usable0 _ _ (by decide), by decide, ⟨by decide, fun _ => by decide⟩⟩, ⟨usable0 _ _ (by decide), by decide⟩,
    ⟨usable0 _ _ (by decide), by decide, by decide, ⟨by decide, fun _ => by decide⟩⟩, ⟨usable0 _ _ (by decide), by decide, by decide⟩,
    ⟨by decide, usable0 _ _ (by decide)⟩, ⟨usable0 _ _ (by decide), by decide⟩, ⟨usable0 _ _ (by decide), by decide⟩, by decide, by decide⟩

/-- ChannelBlocks: a block of 16 of 64 bytes, one too long, a pointer of class 0 and one that is not aligned, the tile class; a
receiver with and without an offer. -/
theorem test_witness_channelBlocks :
    (let x := { bound 0 true 1 hand1 with shape := 64 }
     let s := regs (chan x (pad 128)) [(1, 16)]
     Ready abDst s ∧ Usable s hand0 x ∧ (s.cur.reg 1).toNat ≤ x.shape.toNat ∧ InOwnPad s (pad 128) 8 16 128 ∧ s.behind x = false ∧
       Drained (s.operated (epNo 0)) (drainBetween s.here (epNo 1))) ∧
    (let x := { bound 0 true 1 hand1 with shape := 64 }
     let s := regs (chan x (pad 128)) [(1, 65)]
     Ready abDst s ∧ Usable s hand0 x ∧ x.shape.toNat < (s.cur.reg 1).toNat) ∧
    (ownOffset ran.here 0x100 = none ∧ ownOffset ran.here (pad 129) = some 129 ∧ 129 % 8 ≠ 0) ∧
    (let x := { bound 0 true 2 hand1 with shape := 2 + 2 ^ 16 * 3, fmt := 2 }
     Usable (chan x (pad 128)) hand0 x ∧ InOwnPad (chan x (pad 128)) (pad 128) 8 24 128) ∧
    (let x := { bound 0 false 1 hand1 with shape := 64, offer := some (.block (ctx 1) 2 (locSpad 255 256) 16) }
     Ready dab (chan x (pad 128)) ∧ Usable (chan x (pad 128)) hand0 x ∧ InOwnPad (chan x (pad 128)) (pad 128) 8 64 128) ∧
    (let x := { bound 0 false 1 hand1 with shape := 64 }
     Usable (chan x (pad 128)) hand0 x ∧ x.offer = none) ∧
    Resumed abDst (again ran [hand0, pad 128] 0 1) [hand0, pad 128] 0 1 ∧
    Resumed dab (again ran [hand0, pad 128] 16 1) [hand0, pad 128] 16 1 := by
  simp only [ready_iff, resumed_iff, InOwnPad]
  exact ⟨⟨by decide, usable0 _ _ (by decide), by decide, by decide, by decide, ⟨by decide, fun _ => by decide⟩⟩,
    ⟨by decide, usable0 _ _ (by decide), by decide⟩, by decide, ⟨usable0 _ _ (by decide), by decide⟩,
    ⟨by decide, usable0 _ _ (by decide), by decide⟩, ⟨usable0 _ _ (by decide), by decide⟩, by decide, by decide⟩

/-- Core 255 with every endpoint entry open. -/
def crammed : State := { ran with eps := (List.range 1024).map fun i => (255 * 1024 + i, bound 0 true 0 0) }

theorem crammed_get (l : List Nat) (i n : Nat) (x d : Endpoint) (h : i ∈ l) :
    Map.get (l.map fun i => (n + i, x)) (n + i) d = x := by
  induction l with
  | nil => cases h
  | cons a r ih =>
    by_cases e : a = i
    · simp [Map.get, e]
    · have : i ∈ r := by simpa [Ne.symm e] using h
      simp [Map.get, e, ih this]

theorem crammed_full (i : Nat) (h : i < 1024) : (crammed.ep (255 * 1024 + i)).state ≠ 0 := by
  have := crammed_get (List.range 1024) i (255 * 1024) (bound 0 true 0 0) Endpoint.empty (List.mem_range.2 h)
  simp only [State.ep, crammed]
  rw [this]; decide

/-- ChannelSetup: CHNEW with a good descriptor, one of CLASS 3, MODE 3 in user mode, a ring past the context area, a full table. -/
theorem test_witness_channelNew :
    (let s := regs ran [(2, 0), (3, 0)]
     Ready dab s ∧ badDescriptor 0 = false ∧ badConfig 0 0 (ctxBase (s.core s.here)) = false ∧
       (s.ep (s.here * 1024 + 0)).state = 0) ∧
    badDescriptor 0xC0 = true ∧ ((0xC : Word).toNat / 4 % 4 = 3 ∧ (on ran fun p => { p with supv := false }).cur.supv = false) ∧
    badConfig 0x4000000040 4 (ctxBase (ran.core ran.here)) = true ∧
    crammed.core 255 = ran.core 255 ∧ ∀ i, i < 1024 → (crammed.ep (255 * 1024 + i)).state ≠ 0 := by
  simp only [ready_iff]
  exact ⟨by decide, by decide, by decide, by decide, by decide, crammed_full⟩

/-- ChannelSetup: CHBIND of an unbound end to a peer, and to one that cannot be reached; its answer. -/
theorem test_witness_channelBind :
    (let x := { bound 0 true 0 0 with state := 1 }
     let s := chan x hand1
     Ready dab s ∧ Usable s hand0 x ∧ s.reachable (pkgOf s.here) (pkgOf (coreOfEp (epNo 1))) = true ∧
       s.dieUp (dieOfCore (coreOfEp (epNo 1))) = true ∧ Drained (s.operated (epNo 0)) (drainBetween s.here (epNo 1)) ∧
       s.reachable 0 5 = false) ∧
    Resumed dab (again ran [hand0, hand1] 1 1) [hand0, hand1] 1 1 := by
  simp only [ready_iff, resumed_iff]
  exact ⟨⟨by decide, usable0 _ _ (by decide), by decide, by decide, ⟨by decide, fun _ => by decide⟩, by decide⟩, by decide⟩

/-- ChannelSetup: CHFREE with and without a port; CHSTAT here, refused, and on another core. -/
theorem test_witness_channelFreeStat :
    (let s := chan (bound 0 true 0 hand1) 0
     Ready { srcs := [2] } s ∧ Ready dab s ∧ OwnEp s hand0 ∧ (s.ep (epOfHandle hand0)).portv = false) ∧
    (let s := chan { bound 1 true 0 hand1 with portv := true } 0
     OwnEp s hand0 ∧ (s.ep (epOfHandle hand0)).portv = true) ∧ ran.accepts hand0 0 = false ∧
    (coreOfEp (epOfHandle 0) ≠ ran.here ∧ ran.reachable (pkgOf ran.here) (pkgOf (coreOfEp (epOfHandle 0))) = true ∧
      ran.dieUp (dieOfCore (coreOfEp (epOfHandle 0))) = true) ∧
    Resumed dab (again ran [0, 0] 5 1) [0, 0] 5 1 := by
  simp only [ready_iff, resumed_iff]
  exact ⟨⟨by decide, by decide, own0 _ (by decide), by decide⟩, ⟨own0 _ (by decide), by decide⟩, by decide, by decide, by decide⟩

/-- ChannelSetup: CHSYNC of an end that is not in DESYNC, of the second end, of the first, and a second CHSYNC of the
first. -/
theorem test_witness_channelSync :
    (let s := chan (bound 1 true 0 hand1) 0
     Ready da s ∧ OwnEp s hand0 ∧ (s.ep (epOfHandle hand0)).linkReason = none ∧ (s.ep (epOfHandle hand0)).state ≠ 3) ∧
    (let s := chan { bound 1 true 0 hand1 with state := 3, syncPeer := [epNo 1] } 0
     OwnEp s hand0 ∧ (s.ep (epOfHandle hand0)).state = 3 ∧ (s.ep (epOfHandle hand0)).syncPeer = [epNo 1]) ∧
    (let s := chan { bound 1 true 0 hand1 with state := 3 } 0
     OwnEp s hand0 ∧ (s.ep (epOfHandle hand0)).state = 3 ∧ (s.ep (epOfHandle hand0)).syncPeer = []) ∧
    (let s := chan { bound 1 true 0 hand1 with state := 3, syncing := [ctx 1] } 0
     OwnEp s hand0 ∧ (s.ep (epOfHandle hand0)).syncPeer = [] ∧ (s.ep (epOfHandle hand0)).peer ≠ 0 ∧
       (s.ep (epOfHandle hand0)).syncing ≠ []) ∧
    Resumed da (again ran [hand0] 5 1) [hand0] 5 1 := by
  simp only [ready_iff, resumed_iff]
  exact ⟨⟨by decide, own0 _ (by decide), by decide⟩, ⟨own0 _ (by decide), by decide⟩, ⟨own0 _ (by decide), by decide⟩, ⟨own0 _ (by decide), by decide⟩, by decide⟩

/-- ChannelTickets: a sending end of an ANY channel whose receiving end has called its four tickets, and one that has not. -/
theorem test_witness_channelTickets :
    (let x := bound 2 true 1 hand1
     let s := chan x 3
     Ready da s ∧ Ready ab s ∧ Usable s hand0 x ∧
       ¬ 2 ^ 31 ≤ (BitVec.ofNat 32 3 - ((s.operated (epNo 0)).ep (epNo 1)).called).toNat) ∧
    (let x := bound 2 true 1 hand1
     let s := withEntry (chan x 3) 1 { bound 2 false 1 hand0 with called := 4 }
     Usable s hand0 x ∧ 2 ^ 31 ≤ (BitVec.ofNat 32 3 - ((s.operated (epNo 0)).ep (epNo 1)).called).toNat) ∧
    (let x := { bound 2 true 1 hand1 with ticket := some 2 }
     Usable (chan x 3) hand0 x ∧ x.ticket ≠ none) ∧
    Resumed da (again ran [hand0] 3 1) [hand0] 3 1 := by
  simp only [ready_iff, resumed_iff]
  exact ⟨⟨by decide, by decide, usable0 _ _ (by decide), by decide⟩, ⟨usable0 _ _ (by decide), by decide⟩,
    ⟨usable0 _ _ (by decide), by decide⟩, by decide⟩

/-- A ring of eight granules. -/
def ring (mode : Nat) (dir : Bool) (head tail : BitVec 16) (reserved : Nat) : Endpoint :=
  { bound mode dir 1 hand1 with shape := 64, rlen := 8, head := head, tail := tail, reserved := reserved }

/-- ChannelRings: CLAIM with room and without, on an ANY ring with a ticket and without; AWAIT with granules and without; a limit
that has passed; an end that is not bound, one that another process has chosen; COMMIT of reserved granules and of too many; RETIRE in each mode. -/
theorem test_witness_channelRings :
    (let x := ring 1 true 0 3 1
     Ready dab (chan x 4) ∧ Usable (chan x 4) hand0 x ∧ 1 ≤ 4 ∧ 4 ≤ x.rlen ∧ (x.tail - x.head).toNat + x.reserved + 4 ≤ x.rlen) ∧
    (let x := ring 1 true 0 3 2
     Usable (chan x 4) hand0 x ∧ x.rlen < (x.tail - x.head).toNat + x.reserved + 4) ∧
    (let x := { ring 2 true 0 0 0 with ticket := some 3 }
     Usable (chan x 1) hand0 x ∧ 1 = max 1 ((x.shape.toNat + 63) / 64)) ∧
    (Usable (chan (ring 2 true 0 0 0) 1) hand0 (ring 2 true 0 0 0)) ∧
    (let x := ring 1 false 0 3 0
     Usable (chan x 3) hand0 x ∧ 3 ≤ (x.tail - x.head).toNat) ∧
    (let x := { ring 2 false 0 0 0 with called := 8, slots := [0] }
     Usable (chan x 1) hand0 x ∧ (x.called - BitVec.ofNat 32 8).toNat ∈ x.slots) ∧
    (let x := { ring 1 true 0 0 0 with state := 1, peer := 0 }
     Usable (chan x 4) hand0 x) ∧
    (let x := { ring 1 false 0 0 0 with state := 1, peer := 0, tlimit := 5 }
     Usable (chan x 4) hand0 x) ∧
    (let x := { ring 1 false 0 3 0 with chosen := some (ctx 1, 0x00000FF000000002) }
     let s := withProc (chan x 3) (ctx 1) (procIn .parked 2)
     Usable s hand0 x ∧ s.chosenBy x = some (ctx 1) ∧ ctx 1 ≠ s.self) ∧
    (let x := { ring 1 true 0 8 0 with tlimit := 5 }
     let s := pkg0 (again (chan x 1) [hand0, 1, 5] 0 0) fun y => { y with time := 5 }
     Resumed dab s [hand0, 1, 5] 0 0 ∧ Usable s hand0 x ∧ x.nb = false ∧ (5 : Word) ≠ 0 ∧ (5 : Word).toNat ≤ s.now s.here ∧
       x.rlen < (x.tail - x.head).toNat + x.reserved + 1) ∧
    (let x := { ring 1 false 3 3 0 with tlimit := 5 }
     let s := pkg0 (again (chan x 1) [hand0, 1, 5] 0 0) fun y => { y with time := 5 }
     Resumed dab s [hand0, 1, 5] 0 0 ∧ Usable s hand0 x ∧ ¬ 1 ≤ (x.tail - x.head).toNat) ∧
    (let x := ring 1 true 0 3 2
     let s := regs (chan x (pad 128)) [(1, 2)]
     Ready abDst s ∧ Usable s hand0 x ∧ (s.cur.reg 1).toNat ≤ x.reserved ∧ InOwnPad s (pad 128) 64 (64 * 2) 128 ∧
       Drained (s.operated (epNo 0)) (drainBetween s.here (epNo 1))) ∧
    (let x := ring 1 true 0 3 2
     let s := regs (chan x (pad 128)) [(1, 3)]
     Usable s hand0 x ∧ x.reserved < (s.cur.reg 1).toNat) ∧
    (let x := ring 3 true 0 3 2
     Usable (regs (chan x (pad 128)) [(1, 2)]) hand0 x ∧ Drained ((regs (chan x (pad 128)) [(1, 2)]).operated (epNo 0)) .host) ∧
    Resumed abDst (again ran [hand0, pad 128] 0 1) [hand0, pad 128] 0 1 ∧
    (∀ m ∈ [1, 3], usableB (chan (ring m false 0 3 0) 2) (ring m false 0 3 0) = true ∧
      2 ≤ ((ring m false 0 3 0).tail - (ring m false 0 3 0).head).toNat) ∧
    Ready ab (chan (ring 1 false 0 3 0) 2) := by
  simp only [ready_iff, resumed_iff, InOwnPad]
  exact ⟨⟨by decide, usable0 _ _ (by decide), by decide⟩, ⟨usable0 _ _ (by decide), by decide⟩, ⟨usable0 _ _ (by decide), by decide⟩,
    usable0 _ _ (by decide), ⟨usable0 _ _ (by decide), by decide⟩, ⟨usable0 _ _ (by decide), by decide⟩,
    usable0 _ _ (by decide), usable0 _ _ (by decide), ⟨usable0 _ _ (by decide), by decide⟩,
    ⟨by decide, usable0 _ _ (by decide), by decide⟩, ⟨by decide, usable0 _ _ (by decide), by decide⟩,
    ⟨by decide, usable0 _ _ (by decide), by decide, by decide, ⟨by decide, fun _ => by decide⟩⟩, ⟨usable0 _ _ (by decide), by decide⟩,
    ⟨usable0 _ _ (by decide), ⟨by decide, fun _ => by decide⟩⟩, by decide, by decide, by decide⟩

/-! ## ALT -/

/-- The running process in an open construction at scratchpad offset 512, with `n` deadline guards of value 7. -/
def alting (n : Nat) : State :=
  let s := withPad (on (regs ran [(2, pad 512), (3, 7)]) fun p => { p with inalt := true }) 512 n 8
  (List.range n).foldl (fun t i => withPad (withPad t (512 + 8 * (1 + 2 * i)) 7 8) (512 + 8 * (2 + 2 * i)) 1 8) s

/-- The settled area of the construction is its state itself, and nothing in it is poisoned. -/
def altArea (s : State) : State := s.settle s.here (homesOf (locSpad s.here 512) 264)

/-- One channel guard on endpoint 0, an entry of which is given. -/
def altChan (x : Endpoint) : State :=
  let s := withPad (withPad (withPad (on (regs ran [(2, pad 512), (3, hand0)]) fun p => { p with inalt := true }) 512 1 8)
    520 hand0.toNat 8) 528 0 8
  withEntry s 0 x

/-- Alternatives: the area of the three kinds of member; COUNT 0, 1 and 16; a reserved bit; a channel guard on a sending end. -/
theorem test_witness_altAreas :
    (Ready { srcs := [2], alt := 1 } (regs ran [(2, pad 512)]) ∧ InOwnPad (regs ran [(2, pad 512)]) (pad 512) 8 264 512 ∧
      Drained ran .corePoint) ∧
    (Ready { srcs := [2, 3], alt := 2 } (alting 1) ∧ InOwnPad (alting 1) (pad 512) 8 264 512 ∧ Drained (alting 1) .corePoint ∧
      (∀ i, i < 33 → natMem (altArea (alting 1)).poison (locSpad 255 (512 + 8 * i) / 8) = false) ∧
      leVal ((altArea (alting 1)).mem.read (locSpad 255 512) 8) % 32 = 1) ∧
    (leVal ((altArea (alting 16)).mem.read (locSpad 255 512) 8) % 32 = 16 ∧
      leVal ((altArea (alting 0)).mem.read (locSpad 255 512) 8) % 32 = 0) ∧
    (leVal ((altArea (withPad (alting 1) 528 3 8)).mem.read (locSpad 255 528) 8) % 2 ^ 64 / 2 ≠ 0) ∧
    (Usable (altChan (bound 0 true 0 hand1)) hand0 (bound 0 true 0 hand1)) ∧
    (Usable (altChan (bound 0 false 0 hand1)) hand0 (bound 0 false 0 hand1) ∧
      Drained ((altChan (bound 0 false 0 hand1)).operated (epNo 0)) .corePoint) := by
  simp only [ready_iff, InOwnPad]
  exact ⟨⟨by decide, by decide, ⟨by decide, fun _ => by decide⟩⟩, ⟨by decide, by decide, ⟨by decide, fun _ => by decide⟩, by decide +kernel, by decide +kernel⟩,
    by decide +kernel, by decide +kernel, usable0 _ _ (by decide), usable0 _ _ (by decide), by decide, fun _ => by decide⟩

/-- Alternatives: the two scans start; a deadline guard that has passed, one that has not, and a channel guard whose end
holds an offer. -/
theorem test_witness_altScans :
    Ready { srcs := [2], dst := some 1, alt := 2 } (alting 1) ∧ Ready { srcs := [2, 3], dst := some 1, alt := 2 } (alting 1) ∧
    (leVal ((altArea (alting 1)).mem.read (locSpad 255 520) 8) = 7 ∧ leVal ((altArea (alting 1)).mem.read (locSpad 255 528) 8) = 1) ∧
    ((altArea (alting 1)).now 255 < 7 ∧ 7 ≤ (pkg0 (altArea (alting 1)) fun x => { x with time := 7 }).now 255) ∧
    (let x := { bound 0 false 0 hand1 with offer := some (.word (ctx 1) 2 5) }
     leVal ((altArea (altChan x)).mem.read (locSpad 255 528) 8) = 0 ∧
       leVal ((altArea (altChan x)).mem.read (locSpad 255 520) 8) = hand0.toNat ∧ Usable (altChan x) hand0 x ∧
       (altArea (altChan x)).behind x = false ∧ x.offer ≠ none) := by
  simp only [ready_iff]
  exact ⟨by decide, by decide, by decide +kernel, by decide +kernel, by decide +kernel, by decide +kernel, usable0 _ _ (by decide), by decide⟩

/-! ## Processes -/

/-- The shape of SPAWN here, and a process with an entry in g2 and a placement word in g3. -/
def spawning (entry w : Word) : State := regs ran [(2, entry), (3, w)]

/-- Spawn: reserved placement bits, no right, a misaligned entry, no tier, an unreachable package, a child on the own core with and
without a free slot, another core, the distributor with its 64 bytes. -/
theorem test_witness_spawn :
    (Ready dab (spawning 0 0x80) ∧ (0x80 : Word).getLsbD 7 = true) ∧
    (let s := on (spawning 0 0x41) fun p => { p with supv := false }
     Ready dab s ∧ s.badPlacement 0x41 = false ∧ s.cur.supv = false ∧ (0x41 : Word).getLsbD 6 = true) ∧
    ((spawning 2 0).badPlacement 0 = false ∧ (2 : Word).toNat % 4 ≠ 0 ∧ (0 : Word).toNat % 8 ≠ 5) ∧
    (let s := on (spawning 0 3) fun p => { p with domain := 5 }
     s.badPlacement 3 = false ∧ s.tierChoice 0 false = none) ∧
    (∃ c, (spawning 0 0).spawnTarget 0 = some c ∧ c = 255 ∧ (spawning 0 0).reachable 0 (pkgOf c) = true ∧
      (spawning 0 0).dieUp (dieOfCore c) = true ∧ Drained (spawning 0 0) (drainCores 255 c) ∧ ran.cur.chv = false) ∧
    ((spawning 0 0).takes 255 0 ran.cur.jobKey = true ∧ ∃ k, (spawning 0 0).freeSlot 255 false = some k ∧ k ≠ ran.self) ∧
    (core255 (spawning 0 0) fun x => { x with busy := true }).takes 255 0 ran.cur.jobKey = false ∧
    (∃ c, (spawning 0 0x301).spawnTarget 0x301 = some c ∧ c ≠ 255 ∧ (spawning 0 0x301).reachable 0 (pkgOf c) = true ∧
      (spawning 0 0x301).badPlacement 0x301 = false ∧
      (spawning 0 0x301).dieUp (dieOfCore c) = true ∧ Drained (spawning 0 0x301) (drainCores 255 c)) ∧
    (let s := spawning (pad 64) 5
     Ready dab s ∧ s.badPlacement 5 = false ∧ InOwnPad s (pad 64) 64 64 64 ∧ (pad 64).toNat % 64 = 0 ∧ Drained s .package ∧
       s.poisoned (locSpad s.here 64) 64 = false) ∧
    Resumed dab (again ran [0, 0] 9 1) [0, 0] 9 1 := by
  simp only [ready_iff, resumed_iff, InOwnPad]
  exact ⟨by decide, by decide, by decide, by decide, ⟨_, rfl, by decide, by decide, by decide, ⟨by decide, fun _ => by decide⟩, by decide⟩,
    ⟨by decide, _, rfl, by decide⟩, by decide, ⟨_, rfl, by decide, by decide, by decide, by decide, ⟨by decide, fun _ => by decide⟩⟩,
    ⟨by decide, by decide, by decide, by decide, ⟨by decide, fun _ => by decide⟩, by decide⟩, by decide⟩

/-- A second process on core 255, in context 1, and the handle that names it. -/
def pair (p : Proc) (rs : List (Reg × Word)) : State := withProc (regs ran rs) (ctx 1) p
def handP : Word := (withProc ran (ctx 1) (procIn .parked 2)).handleOf (ctx 1)

/-- ProcessControl: a process with and without engine commands, a deadline passed and to come, a level above 3, SETPRI of the
issuer, of a live and of a dead process here, and of one on another core. -/
theorem test_witness_processControl :
    (Ready {} ran ∧ ran.commandsOf ran.self = [] ∧ ran.cur.state = .running ∧ ran.cur.sstep = false) ∧
    (Ready {} (tiling (cmd 0 0)) ∧ (tiling (cmd 0 0)).commandsOf ran.self ≠ []) ∧
    (Ready { srcs := [1] } (regs ran [(1, 5)]) ∧ ran.now 255 < 5 ∧ (0 : Word).toNat ≤ ran.now 255) ∧
    Resumed { srcs := [1] } (again ran [5] 0 0) [5] 0 0 ∧ Ready { dst := some 1 } ran ∧
    (let s := regs ran [(2, 0), (3, 4)]
     Ready ab s ∧ 3 < (s.source ab 1).toNat) ∧
    (let s := regs ran [(2, ran.handleOf monitorSlot), (3, 1)]
     Ready ab s ∧ s.source ab 0 = s.handleOf s.self ∧ (s.source ab 1).toNat ≤ 1 ∧ s.cur.supv = true) ∧
    (let s := pair (procIn .ready 2) [(2, handP), (3, 3)]
     Ready ab s ∧ s.source ab 0 ≠ s.handleOf s.self ∧ coreOf (slotOfHandle handP) = s.here ∧ s.dead handP = false ∧
       s.rightOver s.cur.supv (s.isMonitor s.self) s.cur.domain (slotOfHandle handP) = true ∧ slotOfHandle handP ≠ s.self) ∧
    (let s := pair { procIn .ready 2 with domain := 5 } [(2, handP), (3, 3)]
     s.dead handP = false ∧ s.rightOver s.cur.supv false s.cur.domain (slotOfHandle handP) = false) ∧ ran.dead handP = true ∧
    (coreOf (slotOfHandle 0) ≠ ran.here ∧ ran.reachable (pkgOf ran.here) (pkgOf (coreOf (slotOfHandle 0))) = true ∧
      ran.dieUp (dieOfCore (coreOf (slotOfHandle 0))) = true) ∧
    Resumed ab (again ran [0, 3] 0 1) [0, 3] 0 1 := by
  simp only [ready_iff, resumed_iff]; decide

/-- The process as a light one. -/
def lit (s : State) : State := on s fun p => { p with light := true }

/-- MigrationAndPorts: an address of class 0, of a core of another domain, a full process, the own scratchpad, another core;
MIGB with every core loaded and with one free; ports with the wrong direction, a remote peer, a port already bound, a
free endpoint. -/
theorem test_witness_migrationAndPorts :
    (Ready { srcs := [1] } (regs ran [(1, 0)]) ∧ (0 : Word).toNat / 2 ^ 52 % 16 = 0) ∧
    ((State.modCore ran 3 fun x => { x with cdom := 5 }).core 3).cdom ≠ ran.cur.domain ∧
    (ran.badOwner 0x00D0060000000000 = false ∧ (0x00D0060000000000 : Word).toNat / 2 ^ 52 % 16 = 13) ∧
    (let s := lit (regs ran [(1, pad 0)])
     Ready { srcs := [1] } s ∧ s.cur.light = true ∧ Drained s .package) ∧
    (let s := lit (regs ran [(1, 0x00D0060000000000)])
     Ready { srcs := [1] } s ∧ s.badOwner 0x00D0060000000000 = false ∧ Drained s .package ∧ s.dieUp (dieOfCore 3) = true) ∧
    (Ready {} (lit ran) ∧ Drained (lit ran) .package ∧ (lit ran).dieUp (dieOfCore ((lit ran).leastLoaded 255)) = true) ∧
    (∀ j, j < 16 → ((State.modCluster ran 15 fun x => { x with loadreg := BitVec.allOnes 64 }).cluster 15).loadreg.toNat / 2 ^ (4 * j) % 16 = 15) ∧
    (∀ m, m < 16 → (ran.cluster 15).loadreg.toNat / 2 ^ (4 * 0) % 16 ≤ (ran.cluster 15).loadreg.toNat / 2 ^ (4 * m) % 16) ∧
    (let s := chan (bound 1 true 0 hand1) 0
     Ready { full := true } s ∧ Usable s hand0 (bound 1 true 0 hand1) ∧ coreOfEp (epOfHandle hand1) = s.here) ∧
    (Usable (chan (bound 1 false 0 hand1) 0) hand0 (bound 1 false 0 hand1)) ∧
    (Usable (chan (bound 1 true 0 0) 0) hand0 (bound 1 true 0 0) ∧ coreOfEp (epOfHandle 0) ≠ ran.here) ∧
    (Usable (chan { bound 1 true 0 hand1 with portv := true } 0) hand0 { bound 1 true 0 hand1 with portv := true }) ∧
    (Map.find? (ported [] 2).cur.qeps 0 = some (epNo 0) ∧ epNo 0 ≠ epNo 1 ∧ Map.find? ran.cur.qeps 0 = none) := by
  simp only [ready_iff]
  exact ⟨by decide, by decide, by decide, ⟨by decide, by decide, by decide, fun _ => by decide⟩,
    ⟨by decide, by decide, ⟨by decide, fun _ => by decide⟩, by decide⟩, ⟨by decide, ⟨by decide, fun _ => by decide⟩, by decide⟩,
    by decide, by decide, ⟨by decide, usable0 _ _ (by decide), by decide⟩, usable0 _ _ (by decide),
    ⟨usable0 _ _ (by decide), by decide⟩, usable0 _ _ (by decide), by decide⟩

/-! ## Supervision -/

/-- The shapes of the privileged operations on a process. -/
def sup2 : Shape := { srcs := [2, 3], dst := some 1, full := true, priv := true }
def supP : Shape := { srcs := [2, 3], dsrc := some 1, full := true, priv := true }
def sup1 : Shape := { srcs := [2], dst := some 1, full := true, priv := true }

/-- The running process over a target in context 1, which it names in g2, with a selector or an image in g3. -/
def above (p : Proc) (x : Word) : State := pair p [(2, handP), (3, x)]

/-- Supervision: a target stopped, parked, of another domain, dead, on another core; a reserved image bit; good and bad
selectors of the three areas. -/
theorem test_witness_supervision :
    (let s := above (procIn .stopped 2) 0
     Ready sup2 s ∧ Ready supP s ∧ Ready sup1 s ∧ s.cur.supv = true ∧ s.source sup2 0 = handP ∧ coreOf (slotOfHandle handP) = s.here ∧
       s.dead handP = false ∧ (s.proc (slotOfHandle handP)).domain = s.cur.domain ∧ (s.proc (slotOfHandle handP)).state = .stopped ∧
       slotOfHandle handP ≠ s.self ∧ handP ≠ s.handleOf s.self ∧ s.leftFor (slotOfHandle handP) = false ∧
       s.badSelector (slotOfHandle handP) 0 = false ∧ s.badSelector (slotOfHandle handP) 3 = true ∧
       s.badSelector (slotOfHandle handP) 8 = false ∧ badImage 0x40 = true ∧ badImage 8 = false) ∧
    ((0x40 : Word).toNat / 64 % 4 ≠ 0) ∧
    ((above { procIn .stopped 2 with resident := false } 0).proc (slotOfHandle handP)).resident = false ∧
    ((above (procIn .stopped 2) 0).proc (slotOfHandle handP)).resident = true ∧
    (coreOf (slotOfHandle (BitVec.allOnes 64)) ≠ ran.here ∧
      ran.reachable (pkgOf ran.here) (pkgOf (coreOf (slotOfHandle (BitVec.allOnes 64)))) = false) ∧
    ((above (procIn .parked 2) 0).proc (slotOfHandle handP)).state ≠ .stopped ∧
    (let s := pkg0 (above { procIn .stopped 2 with domain := 5 } 0) fun x => { x with monitorPid := none }
     s.isMonitor s.self = false ∧ (s.proc (slotOfHandle handP)).domain ≠ s.cur.domain) ∧ ran.dead handP = true ∧
    (coreOf (slotOfHandle 0) ≠ ran.here ∧ (0 : Word) ≠ ran.handleOf ran.self ∧
      ran.reachable (pkgOf ran.here) (pkgOf (coreOf (slotOfHandle 0))) = true ∧ ran.dieUp (dieOfCore (coreOf (slotOfHandle 0))) = true) ∧
    (let s := above { procIn .stopped 2 with vext := some (VExt.fresh 0) } 1
     s.badSelector (slotOfHandle handP) 1 = false ∧ (s.proc (slotOfHandle handP)).vext = some (VExt.fresh 0)) ∧
    (let s := above { procIn .stopped 2 with tileown := 1 } 2
     s.badSelector (slotOfHandle handP) 2 = false ∧ s.tileOwner s.here 0 = none ∧ (s.core s.here).accBad 0 0 0 = false ∧
       (s.core s.here).accBad 0 0 1 = false) ∧
    (let s := core255 (above { procIn .stopped 2 with tileown := 1 } 2) fun x => { x with tileQ := [cmd 1 0] }
     s.badSelector (slotOfHandle handP) 2 = false ∧ s.tileOwner s.here 0 = some (cmd 1 0)) ∧
    (regs ran [(2, ran.handleOf monitorSlot)]).source sup1 0 = ran.handleOf ran.self ∧
    Resumed sup2 (again ran [0, 0] 0 1) [0, 0] 0 1 ∧ Resumed sup1 (again ran [0] 0 1) [0] 0 1 ∧ Resumed supP (again ran [0] 0 2) [0] 0 2 ∧ Ready {} ran := by
  simp only [ready_iff, resumed_iff]; decide +kernel

/-! ## Barriers and steps -/

/-- Two launches of domain 0 with the identities 0x10008003, of the device table, and 0x10003, of host queue 3. -/
def launchOf (id : Word) (deps : Nat) : Launch :=
  { id := id, entry := 0, arg := 0, first := 0, count := 1, chunk := 1, domain := 0, prio := 2, light := false, supv := false,
    deps := deps, compl := 0, user := 0, next := 0, again := [], sent := [], reissued := 0, stage := 0, status := 0,
    cores := [], awaiting := [], held := [], begun := false, freeThen := 0, ticket := none }

def launching (l : Launch) : State := pkg0 (regs ran [(2, l.id)]) fun x => { x with launches := [l] }

/-- Barriers: an object in the scratchpad, its words read, for each order of its operation, sound and poisoned; PHASE as named and
not; EXPECT above 65,535; an evaluation that flips and one that does not. -/
theorem test_witness_barriers :
    (let s := regs ran [(2, pad 64), (3, 0)]
     Ready ab s ∧ Ready da s ∧ s.source ab 0 = pad 64 ∧
     (∃ u, BarrierAt s (pad 64) .stores False (locSpad 255 64) false u ∧ u.mem.wf = true ∧ u.ordadds = []) ∧
     (∃ u, BarrierAt s (pad 64) .stores True (locSpad 255 64) false u) ∧
     (∃ u, BarrierAt s (pad 64) .corePoint False (locSpad 255 64) false u ∧
       leVal (u.mem.read (locSpad 255 64) 8) / 2 ^ 32 % 2 = (0 : Word).toNat % 2 ∧
       leVal (u.mem.read (locSpad 255 64) 8) / 2 ^ 32 % 2 ≠ (1 : Word).toNat % 2)) ∧
    (let s := { regs ran [(2, pad 64), (3, 0)] with poison := [locSpad 255 64 / 8] }
     (∃ u, BarrierAt s (pad 64) .stores False (locSpad 255 64) true u) ∧
     (∃ u, BarrierAt s (pad 64) .stores True (locSpad 255 64) true u) ∧
     ∃ u, BarrierAt s (pad 64) .corePoint False (locSpad 255 64) true u) ∧
    65535 < (0x10000 : Word).toNat ∧ Resumed ab (again ran [pad 64, 0] 0 0) [pad 64, 0] 0 0 ∧
    (leVal (ran.mem.read (locSpad 255 64) 8) % 2 ^ 16 ≤ leVal (ran.mem.read (locSpad 255 64) 8) / 2 ^ 16 % 2 ^ 16 ∧
      leVal (ran.mem.read (locSpad 255 72) 8) % 2 ^ 40 = 0) ∧
    ¬leVal ((withPad ran 64 2 8).mem.read (locSpad 255 64) 8) % 2 ^ 16 ≤
      leVal ((withPad ran 64 2 8).mem.read (locSpad 255 64) 8) / 2 ^ 16 % 2 ^ 16 := by
  simp only [ready_iff, resumed_iff]
  have sound : ∀ dr : Drain, ∀ P : Prop, (dr = .stores ∨ dr = .corePoint) → ∃ u,
      BarrierAt (regs ran [(2, pad 64), (3, 0)]) (pad 64) dr P (locSpad 255 64) false u ∧
        u = (((regs ran [(2, pad 64), (3, 0)]).settle 255 (homesOf (locSpad 255 64) 16)).readAt (locSpad 255 64) 16 none).2.2 := by
    rintro dr P (rfl | rfl) <;>
      exact ⟨_, ⟨_, none, List.replicate 16 0, locates_one _ _ _ _ _ (padSpot 64) (by decide +kernel), fun _ => ⟨rfl, fun _ => rfl⟩,
        ⟨rfl, fun _ => rfl⟩, rfl⟩, rfl⟩
  have poisoned : ∀ dr : Drain, ∀ P : Prop, (dr = .stores ∨ dr = .corePoint) → ∃ u,
      BarrierAt { regs ran [(2, pad 64), (3, 0)] with poison := [locSpad 255 64 / 8] } (pad 64) dr P (locSpad 255 64) true u := by
    rintro dr P (rfl | rfl) <;>
      exact ⟨_, _, none, List.replicate 16 0, locates_one _ _ _ _ _ (padSpot 64) (by decide +kernel), fun _ => ⟨rfl, fun _ => rfl⟩,
        ⟨rfl, fun _ => rfl⟩, rfl⟩
  obtain ⟨u1, h1, e1⟩ := sound .stores False (.inl rfl)
  obtain ⟨u2, h2, -⟩ := sound .stores True (.inl rfl)
  obtain ⟨u3, h3, e3⟩ := sound .corePoint False (.inr rfl)
  refine ⟨⟨by decide +kernel, by decide +kernel, by decide +kernel, ⟨u1, h1, ?_⟩, ⟨u2, h2⟩, ⟨u3, h3, ?_⟩⟩,
    ⟨poisoned _ _ (.inl rfl), poisoned _ _ (.inl rfl), poisoned _ _ (.inr rfl)⟩, by decide, by decide +kernel, by decide +kernel,
    by decide +kernel⟩
  · rw [e1]; decide +kernel
  · rw [e3]; decide +kernel

/-- StepsAndDependences: STEP before and after the pod is formed; an arrival that closes the step and one that does not; DEPDEC of
a count, of a zero one in each table, and of no launch. -/
theorem test_witness_stepsAndDependences :
    (Ready { dst := some 1 } ran ∧ Drained ran .podstep ∧ ran.podFormed = false) ∧
    ({ ran with podFormed := true } : State).podFormed = true ∧ Resumed { dst := some 1 } (again ran [] 3 0) [] 3 0 ∧
    (let s := { on ran fun p => { p with enrolled := true, arrivedIn := some 0 } with podFormed := true }
     s.podFormed = true ∧ (s.pkg 0).phase = 0 ∧ ∀ k ∈ s.live, pkgOf (coreOf k) = 0 → (s.proc k).enrolled = true →
       s.leftFor k = false → (s.proc k).arrivedIn = some (s.pkg 0).openStep) ∧
    (let s := { on ran fun p => { p with enrolled := true, arrivedIn := none } with podFormed := true }
     ∃ k ∈ s.live, pkgOf (coreOf k) = 0 ∧ (s.proc k).enrolled = true ∧ s.leftFor k = false ∧
       (s.proc k).arrivedIn ≠ some (s.pkg 0).openStep) ∧
    (Ready da (launching (launchOf 0x10003 2)) ∧ Drained (launching (launchOf 0x10003 2)) .package ∧
      ((launching (launchOf 0x10003 2)).pkg 0).launches = [] ++ launchOf 0x10003 2 :: [] ∧ 0 < (launchOf 0x10003 2).deps) ∧
    ((launching (launchOf 0x10003 0)).source da 0 = 0x10003 ∧ (0x10003 : Word).getLsbD 15 = false) ∧
    ((launching (launchOf 0x18003 0)).source da 0 = 0x18003 ∧ (0x18003 : Word).getLsbD 15 = true) ∧
    (∀ l ∈ (ran.pkg 0).launches, l.id = 0 → l.domain ≠ 0) := by
  simp only [ready_iff, resumed_iff]
  exact ⟨⟨by decide +kernel, ⟨by decide, fun _ => by decide⟩, by decide⟩, by decide, by decide +kernel, by decide +kernel,
    by decide +kernel, ⟨by decide +kernel, ⟨by decide, fun _ => by decide⟩, by decide, by decide⟩, by decide +kernel, by decide +kernel,
    by decide⟩

end Sys2Proof.Tests
end

