-- ==== Sys2Proof/Tests/Witness3.lean ====
section
/-! SUPPORT. Witnesses for the statements on the almanac, the system registers, maintenance and the messages between cores. -/

namespace Sys2Proof.Tests

open Sys2Proof Sys2Proof.Machine

set_option Elab.async false

/-! ## The almanac -/

/-- A tape of identity 7 in directory entry 0: recording, or valid with one guard of value 9 and a TZ of tile 1. -/
def tape7 (state : Nat) (body : List TEntry) : Tape :=
  { id := 7, domain := 0, core := 255, pbase := 0, pcount := 0, state := state, body := body, slots := [], guards := 1,
    entries := 1 + body.length, active := 0, lastUse := 0, bad := [] }

/-- The entries of a tape: the guard, a tile command, a copy command, a wait mark. -/
def guardE : TEntry := { word := 9, tag := 0x1000 }
def tileE : TEntry := { word := cword 1 1 0 0 0 0 0 0 0 0 0, tag := 0 }
def copyE : TEntry := { word := cword 0x40 0 0 0 0 0 8 (spadField 64) (spadField 0) 0 0, tag := 0x4000 }
def waitE : TEntry := { word := 0, tag := 0x3000 }

/-- A process that records tape 7, with g2 = 7. -/
def recorder (t : Tape) (owner : Slot) : State :=
  let s := on (regs ran [(2, 7)]) fun p => { p with recording := true }
  State.modCluster (core255 s fun x => { x with recording := some { owner := owner, index := 0 } }) 15 fun x =>
    { x with tapes := [(0, t)] }

/-- Almanac: no recording, another process's recording, an open one with and without a body and with sixteen guards; a valid
tape; ALMPLAY's block aligned and not. -/
theorem test_witness_almanac :
    (let s := regs ran [(2, 7)]
     Ready { srcs := [2], full := true } s ∧ Ready { srcs := [2, 3], full := true } s ∧ Ready { dst := some 1, full := true } s ∧
       Ready { srcs := [2], dst := some 1, full := true } s ∧ (s.core s.here).recording = none ∧
       (s.cluster 15).tapes.filter (fun e => e.2.domain = 0 ∧ e.2.id.toNat = 7) = [] ∧ (s.cluster 15).freeIndex = some 0 ∧
       (s.cluster 15).segments ≤ 454 ∧ s.openTape = none ∧ s.cur.recording = false) ∧
    (((recorder (tape7 1 []) (ctx 1)).core 255).recording = some { owner := ctx 1, index := 0 } ∧ ctx 1 ≠ ran.self ∧
      (recorder (tape7 1 []) (ctx 1)).cur.recording = true ∧ (recorder (tape7 1 []) (ctx 1)).openTape = none) ∧
    ((recorder (tape7 1 []) monitorSlot).openTape = some (0, tape7 1 []) ∧ (tape7 1 []).guards < 16 ∧
      Ready { srcs := [2, 3], full := true } (recorder (tape7 1 []) monitorSlot)) ∧
    ((recorder (tape7 1 [tileE]) monitorSlot).openTape = some (0, tape7 1 [tileE]) ∧ (tape7 1 [tileE]).body ≠ []) ∧
    ((recorder { tape7 1 [] with guards := 16 } monitorSlot).openTape = some (0, { tape7 1 [] with guards := 16 })) ∧
    (let y := (recorder (tape7 1 [tileE]) monitorSlot).cluster 15
     Cluster.segments { y with tapes := y.tapes.put 0 { tape7 1 [tileE] with entries := 3 } } ≤ 455 ∧
       Cluster.segments { y with tapes := y.tapes.put 0 (tape7 1 []) } ≤ 455) ∧
    (((recorder (tape7 2 [tileE]) (ctx 1)).cluster 15).tapes.filter (fun e => e.2.domain = 0 ∧ e.2.id.toNat = 7) = [(0, tape7 2 [tileE])]) ∧
    (Ready { srcs := [2, 3], dst := some 1, full := true } (regs ran [(3, 4)]) ∧ (4 : Word).toNat % 8 ≠ 0) ∧
    ((((recorder (tape7 1 []) monitorSlot).core 255).recording.any fun r => decide (r.owner = monitorSlot)) = true ∧
      Ready { srcs := [2, 3], dst := some 1, full := true } (recorder (tape7 1 []) monitorSlot)) ∧
    Resumed { srcs := [2, 3], dst := some 1, full := true } (again ran [] 0 1) [] 0 1 ∧
    (∀ st ∈ [1, 2, 3], (((recorder (tape7 st []) (ctx 1)).cluster 15).tapes.filter fun e => decide (e.2.id.toNat = 7) && decide (e.2.state = st)).head? =
      some (0, tape7 st [])) := by
  simp only [ready_iff, resumed_iff]; decide

/-- `LocatesAll` followed by `ReadsAll` from package memory, as a computation. -/
def locs (k : AKind) (align : Nat) : State → List (Word × Nat) → Option (List Acc × State)
  | s, [] => some ([], s)
  | s, (ea, n) :: r =>
    match s.locate ea n align k with
    | (.ok sp, u) => (locs k align u r).map fun x => ({ ea := ea, n := n, spot := sp } :: x.1, x.2)
    | _ => none

theorem locates_of (k : AKind) (align : Nat) :
    ∀ (l : List (Word × Nat)) (s : State) (accs : List Acc) (t : State), locs k align s l = some (accs, t) → LocatesAll k align s l accs t
  | [], s, accs, t, h => by
    simp only [locs, Option.some.injEq, Prod.mk.injEq] at h
    exact ⟨h.1.symm, h.2.symm⟩
  | (ea, n) :: r, s, accs, t, h => by
    unfold locs at h
    split at h
    · next sp u e =>
      obtain ⟨x, h1, h2⟩ := Option.map_eq_some_iff.1 h
      obtain ⟨rfl, rfl⟩ := Prod.mk.inj h2
      exact ⟨sp, u, x.1, e, rfl, locates_of k align r u x.1 x.2 h1⟩
    · cases h

def rds : State → List Acc → Option (List (List Byte) × State)
  | s, [] => some ([], s)
  | s, a :: r =>
    match a.spot with
    | .mem loc key =>
      match s.forward loc a.n with
      | .clear =>
        match s.coreRead s.here loc a.n key with
        | (bs, false, t) => (rds t r).map fun x => (bs :: x.1, x.2)
        | _ => none
      | _ => none
    | _ => none

theorem reads_of : ∀ (l : List Acc) (s : State) (bs : List (List Byte)) (t : State), rds s l = some (bs, t) → ReadsAll s l bs t
  | [], s, bs, t, h => by
    simp only [rds, Option.some.injEq, Prod.mk.injEq] at h
    exact ⟨h.1.symm, h.2.symm⟩
  | a :: r, s, bs, t, h => by
    unfold rds at h
    split at h
    · next loc key e0 =>
      split at h
      · next e1 =>
        split at h
        · next b u e2 =>
          obtain ⟨x, h1, h2⟩ := Option.map_eq_some_iff.1 h
          obtain ⟨rfl, rfl⟩ := Prod.mk.inj h2
          refine ⟨b, u, x.1, ?_, rfl, reads_of r u x.1 x.2 h1⟩
          unfold Reads
          rw [e0]
          exact .inr ⟨e1, e2⟩
        · cases h
      · cases h
    · cases h

/-- Almanac: the 32 words of an argument block in the scratchpad are located and read. -/
theorem test_witness_almplayBlock :
    ∃ accs u bss v, LocatesAll .load 8 ran ((List.range 32).map fun i => (addAddr (pad 1024) ((8 * i : Nat) : Int), 8)) accs u ∧
      ReadsAll u accs bss v := by
  have h : ((locs .load 8 ran ((List.range 32).map fun i => (addAddr (pad 1024) ((8 * i : Nat) : Int), 8))).bind fun x => rds x.2 x.1).isSome = true := by
    decide +kernel
  obtain ⟨y, h⟩ := Option.isSome_iff_exists.1 h
  obtain ⟨x, h1, h2⟩ := Option.bind_eq_some_iff.1 h
  exact ⟨x.1, x.2, y.1, y.2, locates_of .load 8 _ _ _ _ h1, reads_of _ _ _ _ h2⟩

/-- A core whose replay context holds a replay of tape 7 in a state, at a position. -/
def replaying (st : RState) (t : Tape) (pos : Nat) (args : List Word) : State :=
  let s := core255 ran fun x => { x with replay := { state := st, owner := monitorSlot, index := 0, pos := pos, id := 7, args := args, iword := 0, waiting := [], play := 1 } }
  State.modCluster s 15 fun x => { x with tapes := [(0, t)] }

/-- Arguments whose first word is `f` and whose words 16 on are the guards' values. -/
def argsOf (f : Word) : List Word := f :: List.replicate 15 0 ++ [9] ++ List.replicate 15 0

/-- ReplaySequencer: a bad first word, no tape, a guard that differs, a tile another holds, an accepted replay; a command for each
queue with and without room, a bad entry, a guard, a wait mark, the end with and without WAITEND; the drain. -/
theorem test_witness_replaySequencer :
    (let t := tape7 2 [guardE, tileE]
     ((replaying .check t 0 (argsOf 2)).core 255).replay.state = .check ∧ (op (argsOf 2) 0).toNat / 2 ≠ 0 ∧
     (op (argsOf 0) 0).toNat / 2 = 0 ∧
     ((replaying .check (tape7 3 []) 0 (argsOf 0)).cluster 15).tapes.filter (fun e => e.2.domain = 0 ∧ e.2.id = 7 ∧ e.2.state = 2) = [] ∧
     ((replaying .check t 0 (argsOf 0)).cluster 15).tapes.filter (fun e => e.2.domain = 0 ∧ e.2.id = 7 ∧ e.2.state = 2) = [(0, t)] ∧
     ((t.body.filter fun e => e.tag.toNat / 2 ^ 12 = 1).map fun e => e.word.setWidth 64) = ((argsOf 0).drop 16).take t.guards ∧
     ((t.body.filter fun e => e.tag.toNat / 2 ^ 12 = 1).map fun e => e.word.setWidth 64) ≠ ((List.replicate 32 (0 : Word)).drop 16).take t.guards ∧
     t.tiles = [1] ∧ (∀ n ∈ t.tiles, (replaying .check t 0 (argsOf 0)).tileTaken monitorSlot n = false) ∧
     (withProc (replaying .check t 0 (argsOf 0)) (ctx 1) { procIn .parked 2 with tileown := 2 }).tileTaken monitorSlot 1 = true) ∧
    (let t := tape7 2 [guardE, tileE, copyE, waitE]
     let s := replaying .stream t 1 (argsOf 0)
     Map.find? (s.cluster (clusterOf 255)).tapes 0 = some t ∧
     (∀ x ∈ [guardE, tileE, copyE, waitE], ∃ p, p < 8 ∧ t.listing[p]? = some x) ∧
     (∃ p, p < 8 ∧ (t.listing[p]?.map fun e => e.tag.toNat / 2 ^ 12) = some 15) ∧
     isCopy tileE.word = false ∧ isCopy copyE.word = true ∧ (s.core 255).tileQ.length < 16 ∧
     16 ≤ ((core255 s fun x => { x with tileQ := List.replicate 16 (cmd 0 0) }).core 255).tileQ.length) ∧
    (let t := { tape7 2 [guardE, tileE] with bad := [1] }
     Map.find? ((replaying .stream t 1 (argsOf 0)).cluster (clusterOf 255)).tapes 0 = some t ∧ t.listing[1]?.isSome = true ∧ 1 ∈ t.bad) ∧
    (1 ∉ (tape7 2 [guardE, tileE]).bad) ∧
    (op (argsOf 1) 0).getLsbD 0 = true ∧ (op (argsOf 0) 0).getLsbD 0 = false ∧
    (let s := replaying .drain (tape7 2 [guardE, waitE]) 2 (argsOf 0)
     (s.core 255).replay.state = .drain ∧ ∀ q ∈ s.commandsOf monitorSlot, q.replayed = none ∨ q.play ≠ 1) := by decide +kernel

/-! ## System registers and maintenance -/

/-- The running process is another supervisor than the monitor. -/
def notMonitor : State := pkg0 ran fun x => { x with monitorPid := none }

/-- SystemRegisters: the reads; the writes as the monitor and as another, with g2 at the ends of each register's map, with no
recording, with its own and with another's. -/
theorem test_witness_systemRegisters :
    Ready { dst := some 1 } ran ∧ Ready {} ran ∧ Ready { srcs := [2] } ran ∧ Ready { srcs := [2], full := true, priv := true } ran ∧
    ran.isMonitor ran.self = true ∧ notMonitor.isMonitor notMonitor.self = false ∧
    Ready { srcs := [2], full := true, priv := true } notMonitor ∧
    (¬((10 : BitVec 12).toNat ≤ 9) ∧ (0x105 : BitVec 12).toNat = 0x105 ∧ (0x10F : BitVec 12).toNat < 0x110 ∧ (0x113 : BitVec 12).toNat = 0x113) ∧
    (let base := ctxBase (ran.core 255) / 32
     (∀ v ∈ [1, 2 ^ 19, 2 ^ 32, 2049 * 2 ^ 20, base * 32 + 2 ^ 20], v % 2 ^ 5 ≠ 0 ∨ v.testBit 19 = true ∨ 1 ≤ v / 2 ^ 32 ∨ 2048 < v / 2 ^ 20 % 2 ^ 12 ∨
       ctxBase (ran.core 255) < 32 * (v / 2 ^ 5 % 2 ^ 14) + 32 * (v / 2 ^ 20 % 2 ^ 12)) ∧
     2048 ≤ base ∧ (BitVec.ofNat 64 (2048 * 2 ^ 20) : Word).toNat % 2 ^ 5 = 0) ∧
    (ran.core ran.here).recording = none ∧
    (let s := core255 (regs ran [(2, BitVec.ofNat 64 (4 * 2 ^ 20))]) fun x => { x with recording := some { owner := monitorSlot, index := 0 } }
     Ready { srcs := [2] } s ∧ (s.core s.here).recording = some { owner := s.self, index := 0 }) ∧
    (let s := core255 ran fun x => { x with recording := some { owner := ctx 1, index := 0 } }
     Ready { srcs := [2] } s ∧ (s.core s.here).recording = some { owner := ctx 1, index := 0 } ∧ ctx 1 ≠ s.self) ∧
    (384 * 256 + 96 * 1024 + 2240 * 29 ≤ 262144 ∧ 262144 < 384 * 256 + 96 * 1024 + 2240 * 30) ∧
    (∀ k ∈ ran.live, coreOf k = ran.here → k = ran.self) ∧
    (∃ k ∈ (withProc ran (ctx 1) (procIn .parked 2)).live, coreOf k = ran.here ∧ k ≠ ran.self) := by
  simp only [ready_iff]; and_intros <;> decide

/-- A process whose last operation waits for package-wide maintenance. -/
def maintaining (i : Instr) (vals : List Word) : State :=
  withProc ran (ctx 1) { procIn .parked 2 with waitk := 14, wait := .remote, inflight := some (i, 0), phase := .after vals 0 0 }

/-- A waiter of the fault of the page 0x70000. -/
def faulter : FaultWaiter := { engine := false, slot := ctx 1, pid := 0x00000FF000000002, va := 0x70000, copy := false }

/-- The fault of that page, listed at a base die. -/
def listed : FaultEntry :=
  { serial := 0, va := 0x70000, domain := 0, writes := false, fetches := false, engines := false,
    malformed := false, level := 0, first := 0, waiters := [faulter], sent := true, ticket := none, toMonitor := false }

/-- The eight words of a KEYSET source at scratchpad offset 64. -/
def keyWords : List Acc := (List.range 8).map fun j => padAcc (64 + 8 * j) 8

/-- They are read, the machine staying as it is. -/
theorem reads_key (s : State) (n : Nat) (h : ((rds s keyWords).any fun x => decide (leVal x.1.flatten = n) && decide (x.2 = s)) = true) :
    ∃ bss, ReadsAll s keyWords bss s ∧ leVal bss.flatten = n := by
  cases e : rds s keyWords with
  | none => simp [e] at h
  | some x =>
    simp only [e, Option.any_some, Bool.and_eq_true, decide_eq_true_eq] at h
    have r := reads_of _ _ _ _ e
    rw [h.2] at r
    exact ⟨x.1, r, h.1⟩

/-- Maintenance: every check failed and passed, for the monitor and for another supervisor; the drain; the wait and its end, with
a reply for a listed fault and for none; a KEYSET source that is elsewhere, misaligned, with equal halves and good. -/
theorem test_witness_maintenance :
    (Ready { srcs := [2, 1], full := true, priv := true } ran ∧ Ready { srcs := [2], full := true, priv := true } ran ∧
      Ready { srcs := [2], dsrc := some 1, full := true, priv := true } ran ∧
      Ready { dsrc := some 1, full := true, priv := true } ran ∧ Drained ran .package ∧ ran.isMonitor ran.self = true ∧
      Ready { srcs := [2, 1], full := true, priv := true } notMonitor ∧ notMonitor.isMonitor notMonitor.self = false ∧
      Ready { srcs := [2], dsrc := some 1, full := true, priv := true } notMonitor ∧
      Ready { dsrc := some 1, full := true, priv := true } notMonitor ∧ Drained notMonitor .package ∧
      ran.cur.domain = 0 ∧ (1 : Nat) ≠ ran.cur.domain.toNat ∧ (2 ^ 12 : Word).toNat / 2 ^ 12 % 2 ^ 20 = 1 ∧ ((ran.pkg 0).domain 0).valid = true) ∧
    (Resumed { srcs := [2, 1], full := true, priv := true } (again ran [] 0 1) [] 0 1 ∧
      Resumed { srcs := [2], dsrc := some 1, full := true, priv := true } (again ran [] 0 1) [] 0 1 ∧
      Resumed { dsrc := some 1, full := true, priv := true } (again ran [] 0 1) [] 0 1 ∧
      Resumed { srcs := [2], full := true, priv := true } (again ran [] 0 1) [] 0 1) ∧
    (let s := pkg0 notMonitor fun x => { x with keys := [(3, { material := 1, owner := 1 })] }
     Ready { dsrc := some 1, full := true, priv := true } (regs s [(1, 3)]) ∧ ∃ k, Map.find? (s.pkg 0).keys 3 = some k ∧ k.owner ≠ s.cur.domain.toNat) ∧
    (∃ loc key t, ran.classify ran.here 0 true 0 64 .read = (.ok (.mem loc key), t) ∧ kindOf loc ≠ .spad) ∧
    (ran.classify ran.here 0 true (pad 64) 64 .read = (.ok (.mem (locSpad 255 64) none), ran) ∧ kindOf (locSpad 255 64) = .spad ∧
      coreOfSpad (locSpad 255 64) = ran.here ∧ (pad 64).toNat % 64 = 0 ∧
      ran.classify ran.here 0 true (pad 8) 64 .read = (.ok (.mem (locSpad 255 8) none), ran) ∧ (pad 8).toNat % 64 ≠ 0) ∧
    (∃ bss, ReadsAll ran keyWords bss ran ∧ leVal bss.flatten = 0) ∧
    ((∃ bss, ReadsAll (withPad ran 64 1 8) keyWords bss (withPad ran 64 1 8) ∧ leVal bss.flatten = 1) ∧ Drained (withPad ran 64 1 8) .package) ∧
    (∃ t port addr io, paged.translate paged.here 0 0x30000 .nothing = (.ok (.port port addr io), t)) ∧
    (∃ t loc key, ran.translate ran.here 0 0 .nothing = (.ok (.mem loc key), t) ∧ Drained t .package ∧ pkgOf t.here = 0) ∧
    (∃ t loc rule k, paged.translate paged.here 0 0x10000 .nothing = (.ok (.step loc rule k), t) ∧ Drained t .package) ∧
    (∃ t loc k, paged.translate paged.here 0 0x20000 .nothing = (.ok (.atomic loc k), t) ∧ Drained t .package) ∧
    (∃ x, Map.find? ({ ran with dirty := [(5, { cluster := 15, key := 0, bytes := List.replicate 64 0, poison := [], material := none })] } : State).dirty 5
      = some x ∧ x.bytes.length = 64) ∧
    (∀ i ∈ [Instr.keyset 1 2, .keysetClr 1, .cflush 2 0, .cinv 2 0, .tlbinv 1 2 1 0],
      let s := maintaining i [0, 1, 0]
      (s.proc (ctx 1)).state = .parked ∧ (s.proc (ctx 1)).waitk = 14 ∧ (s.proc (ctx 1)).inflight = some (i, 0) ∧
        (s.proc (ctx 1)).phase = .after [0, 1, 0] 0 0) ∧ op [0, 1, 0] 1 = 1 ∧ op [0, 0, 0] 1 = 0 ∧
    (let s := { maintaining (.tlbinv 1 2 1 0) [0, 1, 0] with bases :=
        [(0, { (ran.base 0) with faults := [(0, listed)] })] }
     ∃ f, Map.find? (s.base 0).faults 0 = some f ∧ f.serial = 0 ∧ f.domain = 0 ∧ (s.base 0).waiting = []) ∧
    (let s := withProc ran (ctx 1) { procIn .parked 2 with waitk := 9 }
     faulter.engine = false ∧ (s.proc faulter.slot).pid = faulter.pid ∧ (s.proc faulter.slot).waitk = 9 ∧
       (ran.proc faulter.slot).pid ≠ faulter.pid) := by
  simp only [ready_iff, resumed_iff]
  refine ⟨⟨by decide, by decide, by decide, by decide, ⟨by decide, fun _ => by decide⟩, by decide, by decide, by decide, by decide, by decide,
    ⟨by decide, fun _ => by decide⟩, by decide, by decide, by decide, by decide⟩, by decide, by decide, ⟨_, _, _, rfl, by decide⟩, by decide +kernel,
    reads_key _ _ (by decide +kernel), ⟨reads_key _ _ (by decide +kernel), ⟨by decide, fun _ => by decide⟩⟩, ⟨_, _, _, _, rfl⟩, ⟨_, _, _, rfl, ⟨by decide, fun _ => by decide⟩, by decide⟩,
    ⟨_, _, _, _, rfl, ⟨by decide, fun _ => by decide⟩⟩, ⟨_, _, _, rfl, ⟨by decide, fun _ => by decide⟩⟩, ⟨_, rfl, by decide⟩,
    by decide, by decide, by decide, ⟨_, rfl, by decide⟩, by decide⟩

/-! ## Messages of channels -/

/-- A message between cores 254 and 255. -/
def between (v : Body) (s : State) : State := got (.core 254) (.core 255) v s

/-- A process in slot 1 of core 255 parked on endpoint 0 with its operands. -/
def waiting (s : State) (vals : List Word) (mark : Nat) : State :=
  withProc s (ctx 1) { procIn .parked 2 with wait := .endpoint (epNo 0), waitk := 2, phase := .after vals 0 mark, deadline := some 0 }

/-- Endpoints 0 and 1 of core 255 bound to each other. -/
def couple (x y : Endpoint) : State := withEntry (withEntry ran 0 { x with peer := hand1 }) 1 { y with peer := hand0 }

/-- ChannelMessages: an offer of a word that nothing waits for and that a receiver waits for, one of a block that a receiver waits
for; an ACK and a block for a process that is there and for one that is gone; a withdrawal. -/
theorem test_witness_offers :
    (let t := between (.offer (epNo 0) (.word (ctx 2) 9 5)) (couple (bound 0 false 0 0) (bound 0 true 0 0))
     (t.ep (epNo 0)).state ≠ 0 ∧ (t.ep (epNo 0)).offer = none ∧ (t.ep (epNo 0)).waiter = none ∧ t.msgs.take 0 = []) ∧
    (let t := between (.offer (epNo 0) (.word (ctx 2) 9 5))
        (waiting (couple { bound 0 false 0 0 with waiter := some (ctx 1) } (bound 0 true 0 0)) [hand0] 0)
     (t.ep (epNo 0)).offer = none ∧ (t.ep (epNo 0)).waiter = some (ctx 1) ∧ (t.proc (ctx 1)).state = .parked ∧
       (t.proc (ctx 1)).wait = .endpoint (epNo 0) ∧ (t.proc (ctx 1)).phase = .after [hand0] 0 0) ∧
    (let t := between (.offer (epNo 0) (.block (ctx 2) 9 (locSpad 255 0) 16))
        (waiting (couple { bound 0 false 1 0 with waiter := some (ctx 1) } (bound 0 true 1 0)) [hand0, pad 128] 0)
     (t.ep (epNo 0)).offer = none ∧ (t.ep (epNo 0)).waiter = some (ctx 1) ∧ (t.proc (ctx 1)).phase = .after [hand0, pad 128] 0 0 ∧
       (t.core (coreOf (ctx 2))).storeQ = [] ∧ 16 % 8 = 0 ∧ ownOffset (coreOfEp (epNo 0)) (op [hand0, pad 128] 1) = some 128) ∧
    (let t := between (.ack (ctx 1) 0x00000FF000000002) (waiting ran [] 1)
     (t.proc (ctx 1)).pid = 0x00000FF000000002 ∧ (t.proc (ctx 1)).state = .parked) ∧
    (let t := between (.ack (ctx 1) 0x00000FF000000002) ran
     (t.proc (ctx 1)).pid ≠ 0x00000FF000000002 ∨ (t.proc (ctx 1)).state ≠ .parked) ∧
    (let t := between (.block (ctx 1) 0x00000FF000000002 8 [(locSpad 255 0, leBytes 1 8, false)]) (waiting ran [] 3)
     let u := t.land 254 [(locSpad 255 0, leBytes 1 8, false)]
     (u.proc (ctx 1)).pid = 0x00000FF000000002 ∧ (u.proc (ctx 1)).state = .parked) ∧
    (let t := between (.withdraw (epNo 0) (ctx 2) 9) ran
     t.msgs.take 0 = []) := by
  decide +kernel

/-- A BIND from endpoint 0 to endpoint 1 of core 255, by the process in slot 1. -/
def binding (x y : Endpoint) : State :=
  between (.bind (ctx 1) 0x00000FF000000002 hand0 hand1) (waiting (withEntry (withEntry ran 0 x) 1 y) [] 0)

/-- An open end, of a mode and a direction. -/
def openEnd (mode : Nat) (dir : Bool) : Endpoint := { bound mode dir 0 0 with state := 1 }

/-- ChannelMessages: BIND to a handle that is refused, to one whose class, mode or direction does not match, to one that is open,
to a server, to one bound to another and again to the same. -/
theorem test_witness_bind :
    (let t := binding (openEnd 0 true) Endpoint.empty
     t.accepts hand1 (t.proc (ctx 1)).domain = false) ∧
    (∀ y ∈ [openEnd 0 false, openEnd 1 false, openEnd 0 true, { bound 0 false 0 hand0 with state := 2 }, bound 0 false 0 5,
        { openEnd 0 false with cls := 1 }],
      let t := binding (openEnd 0 true) y
      t.secretOf (epNo 1) = 0 ∧ (t.ep (epNo 1)).domain = (t.proc (ctx 1)).domain ∧ (t.ep (epNo 1)).state ≠ 0 ∧ (t.ep (epNo 1)).gen = 0 ∧
        (t.ep (epNo 1)) = y ∧ (t.ep (epNo 0)) = openEnd 0 true ∧ (t.proc (ctx 1)).pid = 0x00000FF000000002 ∧ (t.proc (ctx 1)).state = .parked) ∧
    (∀ y ∈ [openEnd 2 false, bound 2 false 0 5],
      let t := binding (openEnd 2 true) y
      t.ep (epNo 1) = y ∧ t.ep (epNo 0) = openEnd 2 true) ∧
    (let t := binding (bound 0 true 0 5) (openEnd 0 false)
     (t.ep (epNo 0)).state = 2 ∧ (t.ep (epNo 0)).peer ≠ 0 ∧ (t.ep (epNo 0)).peer ≠ hand1) ∧
    (epOfHandle hand0 = epNo 0 ∧ epOfHandle hand1 = epNo 1) := by
  refine ⟨by decide, by decide, by decide, by decide, by decide⟩

/-- BIND of two open ends that match is accepted. -/
theorem test_witness_bindAccepts :
    (binding (openEnd 0 true) (openEnd 0 false)).accepts hand1 0 = true ∧ (binding (openEnd 2 true) (bound 2 false 0 5)).accepts hand1 0 = true :=
  ⟨accepts1 _ rfl rfl (by decide) rfl, accepts1 _ rfl rfl (by decide) rfl⟩

/-- A ring of four slots with one message committed. -/
def ring4 (dir : Bool) : Endpoint := { bound 1 dir 0 0 with rlen := 4, head := 65535, tail := 0, rbase := 0 }

/-- ChannelMessages: COMMIT and RETURN that pass and that fail their checks, one of a server, one to an end that is free; a
reply of each kind; DESYNC; CHSYNC at both ends; TIMEOUT; a lost link, a fenced die, a withdrawn package. -/
theorem test_witness_counts :
    (let s := couple (ring4 false) (ring4 true)
     let t := between (.commit (epNo 0) 3 3 [] none) s
     (t.ep (epNo 0)).state = 2 ∧ ((t.ep (epNo 0)).tail.toNat + 3) % 2 ^ 16 = 3 ∧ (3 + 2 ^ 16 - (t.ep (epNo 0)).head.toNat) % 2 ^ 16 ≤ (t.ep (epNo 0)).rlen ∧
     ¬((t.ep (epNo 0)).tail.toNat + 4 = 4 ∧ (4 + 2 ^ 16 - (t.ep (epNo 0)).head.toNat) % 2 ^ 16 ≤ (t.ep (epNo 0)).rlen) ∧
     (ran.ep (epNo 0)).state ≠ 2 ∧ (ran.ep (epNo 0)).state ≠ 1 ∧
     ((t.ep (epNo 0)).head.toNat + 1) % 2 ^ 16 = 0 ∧ 1 ≤ ((t.ep (epNo 0)).tail.toNat + 2 ^ 16 - (t.ep (epNo 0)).head.toNat) % 2 ^ 16 ∧
     ¬2 ≤ ((t.ep (epNo 0)).tail.toNat + 2 ^ 16 - (t.ep (epNo 0)).head.toNat) % 2 ^ 16) ∧
    (let t := between (.bindReply (ctx 1) 0x00000FF000000002 (.value 0)) (waiting ran [] 0)
     (t.proc (ctx 1)).pid = 0x00000FF000000002 ∧ (t.proc (ctx 1)).state = .parked) ∧
    (let s := couple { ring4 false with state := 3 } { ring4 true with state := 3 }
     (s.ep (epNo 0)).state = 3 ∧ (s.ep (epNo 0)).syncing = [] ∧ epNo 1 ∉ (s.ep (epNo 0)).syncPeer ∧ epNo 0 ≠ epNo 1) ∧
    (let t := between (.chsync (epNo 0) (epNo 1))
        (waiting (couple { ring4 false with state := 3, syncing := [ctx 1] } { ring4 true with state := 3 }) [hand0] 0)
     (t.ep (epNo 0)).state = 3 ∧ (t.ep (epNo 0)).syncing = [ctx 1] ∧ (t.proc (ctx 1)).state = .parked ∧ (t.proc (ctx 1)).waitk ≠ 9 ∧
       (t.proc (ctx 1)).phase = .after [hand0] 0 0) ∧
    (ran.ordadds = [] ∧ kindOf (locSpad 255 0) ≠ .hbm ∧ leBytes 7 8 ≠ []) ∧
    (let s := couple (ring4 false) (ring4 true)
     (s.ep (epNo 0)).peer ≠ 0 ∧ epOfHandle (s.ep (epNo 0)).peer = epNo 1 ∧ epNo 0 ≠ epNo 1) ∧
    (let s := waiting ran [] 0
     (s.proc (ctx 1)).deadline = some 0 ∧ (s.proc (ctx 1)).wait = .endpoint (epNo 0) ∧ (s.proc (ctx 1)).state = .parked ∧
       (s.proc (ctx 1)).waitk = 2 ∧ 0 ≤ s.now (coreOf (ctx 1))) ∧
    (((pkg0 (couple (ring4 false) (ring4 true)) fun x => { x with withdrawn := true }).pkg 0).withdrawn = true) ∧
    (let s := (waiting (couple { ring4 false with waiter := some (ctx 1) } (ring4 true)) [] 0).modDie 0 fun z => { z with fenced := some 1 }
     s.dieUp (dieOfCore 255) = false ∧ (s.ep (epNo 0)).waiter = some (ctx 1) ∧ (s.proc (ctx 1)).state = .parked) ∧
    (∀ x ∈ [{ ring4 false with queue := [ctx 1] }, { ring4 false with syncing := [ctx 1] }],
      let s := waiting (couple x (ring4 true)) [] 0
      (ctx 1 ∈ (s.ep (epNo 0)).queue ∨ ctx 1 ∈ (s.ep (epNo 0)).syncing) ∧ (s.proc (ctx 1)).state = .parked) := by
  decide +kernel

/-- ChannelMessages: the initial state's memory is in its canonical form. -/
theorem test_witness_invariant : ran.mem.wf = true := by decide


/-- ChannelMessages: TIMEOUT of a process that waits for the binding; COMMIT of one slot of a server; DESYNC at a bound and at a free
end. -/
theorem test_witness_counts2 :
    (let s := withProc ran (ctx 1) { procIn .parked 2 with wait := .endpoint (epNo 0), waitk := 1, deadline := some 0 }
     (s.proc (ctx 1)).deadline = some 0 ∧ (s.proc (ctx 1)).wait = .endpoint (epNo 0) ∧ (s.proc (ctx 1)).state = .parked ∧
       (s.proc (ctx 1)).waitk = 1 ∧ 0 ≤ s.now (coreOf (ctx 1))) ∧
    (let t := between (.commit (epNo 0) 1 0 [] (some 2)) (couple { bound 2 false 0 0 with rlen := 4 } (bound 2 true 0 0))
     (t.ep (epNo 0)).state = 2) ∧
    (let t := between (.desync (epNo 0) 5) (couple (ring4 false) (ring4 true))
     (t.ep (epNo 0)).state = 2 ∧ ((between (.desync (epNo 0) 5) ran).ep (epNo 0)).state ≠ 2) := by
  decide +kernel

/-- Package 0 with the links of its compute die 0 down. -/
def unlinked (s : State) : State := pkg0 s fun x => { x with links := (linksRight 0 ++ linksRight 6 ++ linksUp 0 ++ linksUp 1).map fun l => (l, 2) }

/-- ChannelMessages: a peer on another die that no link leads to. -/
theorem test_witness_noRoute :
    let s := unlinked (withEntry ran 0 { ring4 false with peer := 2 ^ 54 })
    (s.ep (epNo 0)).peer ≠ 0 ∧ 2 ≤ (s.ep (epNo 0)).state ∧
      s.routed (coreOfEp (epNo 0)) (coreOfEp (epOfHandle (s.ep (epNo 0)).peer)) = false := by
  decide +kernel

/-! ## Messages about processes -/

/-- The process identity of `procIn`. -/
def pid2 : Word := 0x00000FF000000002

/-- A light process on its way, and a full core. -/
def mover (job : BitVec 48) (domain : BitVec 12) : Proc := { procIn .parked 2 with light := true, job := job, domain := domain }
def fullCore (s : State) : State := core255 s fun x => { x with fulln := 0, lightn := 0 }

/-- RemoteMessages: an arrival on a core of another domain, on a full core with room for a refusal and with none, on a free one with and
without room in the arrival queue; ACCEPT with and without a refusal listed, REFUSE, SPACE. -/
theorem test_witness_migration :
    (let t := between (.migrate (mover 0 5) (ctx 1)) ran
     (mover 0 5).pid ≠ 0 ∧ (t.core 255).cdom ≠ (mover 0 5).domain ∧ (t.core 255).refusals.length < 64) ∧
    (let t := between (.migrate (mover 0 0) (ctx 1)) (fullCore ran)
     t.freeSlot 255 true = none ∧ (t.core 255).cdom = 0) ∧
    64 ≤ ((between (.migrate (mover 0 5) (ctx 1)) (core255 ran fun x => { x with refusals := List.replicate 64 (ctx 3) })).core 255).refusals.length ∧
    (let t := between (.migrate (mover 0 0) (254 * 2048)) ran
     (t.core 255).cdom = (mover 0 0).domain ∧ (t.core 255).busy = false ∧ (mover 0 0).sstep = false ∧ (mover 0 0).job = 0 ∧
       (t.core 255).arrivals.length < 48 ∧ ∃ k, t.freeSlot 255 true = some k ∧ coreOf k = 255) ∧
    (let t := between (.migrate (mover 7 0) (254 * 2048)) (core255 ran fun x => { x with arrivals := List.replicate 48 0 })
     (t.core 255).cdom = (mover 7 0).domain ∧ (t.core 255).busy = false ∧ (t.core 255).cancels.contains (mover 7 0).jobKey = false ∧
       48 ≤ (t.core 255).arrivals.length ∧ ∃ k, t.freeSlot 255 true = some k ∧ coreOf k = 255) ∧
    (∀ refused ∈ [[], [ctx 5, ctx 6]],
      let s := core255 (withProc ran (ctx 1) { procIn .parked 2 with waitk := 10, wait := .migration 254 }) fun x => { x with refusals := refused }
      ∀ b ∈ [Body.accept (ctx 1) pid2 0, .refuse (ctx 1) pid2 true 0, .refuse (ctx 1) pid2 false 0, .space (ctx 1) pid2, .accept (ctx 1) pid2 9],
        let t := between b s
        (t.proc (ctx 1)).pid = pid2 ∧ (t.proc (ctx 1)).state = .parked ∧ (t.proc (ctx 1)).waitk = 10 ∧
          (t.proc (ctx 1)).wait = .migration 254 ∧ (t.core 255).refusals = refused ∧ (t.core 255).drainFor.contains 9 = false ∧ (t.proc (ctx 1)).pid ≠ 9) ∧
    (let s := withProc ran (ctx 1) { procIn .parked 2 with waitk := 10, wait := .migration 254, deadline := some 0 }
     (s.proc (ctx 1)).deadline = some 0 ∧ 0 ≤ s.now (coreOf (ctx 1)) ∧ (s.proc (ctx 1)).waitk = 10 ∧ (s.proc (ctx 1)).state = .parked ∧
       (s.proc (ctx 1)).wait = .migration 254) := by
  refine ⟨by decide, by decide, by decide, ⟨by decide, by decide, by decide, by decide, by decide, _, rfl, by decide⟩,
    ⟨by decide, by decide, by decide, by decide, _, rfl, by decide⟩, by decide, by decide⟩

/-- A launch message of domain 0, of one process. -/
def launchMsg : BitVec 512 := BitVec.ofNat 512 (2 ^ (8 * 0x14) + 2 ^ (8 * 0x18) + 2 * 2 ^ (8 * 0x1C))

/-- RemoteMessages: a spawn taken and not, in a chunk and in none; CHSTAT of a handle that counts and of one that does not; the
supervisor's operations on a live, a stopped, a dead process and one of another domain; replies; a chunk's counts; a device
launch taken and not. -/
theorem test_witness_remote :
    (let t := between (.remote (.spawn (procIn .ready 2)) (254 * 2048) 9) ran
     (t.core 255).cdom = (procIn .ready 2).domain ∧ (t.core 255).busy = false ∧ (procIn .ready 2).jobKey = 0 ∧ (procIn .ready 2).chv = false ∧
       ∃ k, t.freeSlot 255 (procIn .ready 2).light = some k ∧ coreOf k = 255) ∧
    (let c := { procIn .ready 2 with chv := true, job := 7 }
     let t := between (.remote (.spawn c) (254 * 2048) 9) ran
     (t.core 255).cdom = c.domain ∧ (t.core 255).busy = false ∧ (t.core 255).cancels.contains c.jobKey = false ∧ c.chv = true ∧
       ∃ k, t.freeSlot 255 c.light = some k ∧ coreOf k = 255) ∧
    (let t := between (.remote (.spawn (procIn .ready 2)) (254 * 2048) 9) (fullCore ran)
     t.freeSlot 255 (procIn .ready 2).light = none) ∧
    (let t := between (.remote (.chstat hand0 0 0) (254 * 2048) 9) ran
     t.accepts hand0 0 = false) ∧
    (let t := between (.remote (.kill handP false 0) (254 * 2048) 9) (withProc ran (ctx 1) (procIn .parked 2))
     t.dead handP = false ∧ slotOfHandle handP = ctx 1 ∧ (t.proc (ctx 1)).domain = 0 ∧ (t.proc (ctx 1)).state ≠ .stopped ∧
       t.rightOver true false 0 (ctx 1) = true ∧ t.rightOver false false 5 (ctx 1) = false ∧ t.leftFor (ctx 1) = false ∧ (5 : BitVec 12) ≠ 0 ∧
       t.badSelector (ctx 1) 0 = false ∧ t.badSelector (ctx 1) 4 = true ∧ (0 : Word).toNat % 4 = 0) ∧
    (let t := between (.remote (.resume handP 0 false 0) (254 * 2048) 9) (withProc ran (ctx 1) (procIn .stopped 2))
     t.dead handP = false ∧ (t.proc (slotOfHandle handP)).state = .stopped) ∧
    (between (.remote (.kill handP false 0) (254 * 2048) 9) ran).dead handP = true ∧
    (∀ b ∈ [Body.reply (.value 1) (ctx 1) pid2 0, .reply .nothing (ctx 1) pid2 0, .reply (.trap 2 []) (ctx 1) pid2 9],
      let t := between b (withProc ran (ctx 1) (procIn .parked 2))
      (t.proc (ctx 1)).pid = pid2 ∧ (t.proc (ctx 1)).state = .parked ∧ (t.core 255).drainFor.contains 9 = false) ∧
    (∀ live ∈ [1, 2],
      let t := between (.decrement 3 255 7) (core255 ran fun x => { x with chunks := [(3, { launch := 7, first := 0, live := live })] })
      Map.find? (t.core 255).chunks 3 = some { launch := 7, first := 0, live := live } ∧ (7 : Word) = (7 : BitVec 48).setWidth 64) ∧
    Map.find? ((between (.decrement 3 255 7) ran).core 255).chunks 3 = none ∧
    (let t := got (.core 255) (.dist 0 0) (.device launchMsg (ctx 1) 9 true 0) ran
     goodLaunch launchMsg = true ∧ launchMsg.toNat / 2 ^ (8 * 0x1A) % 2 ^ 16 = 0 ∧ launchMsg.getLsbD 227 = false ∧
       launchMsg.toNat / 2 ^ (8 * 0x1C) % 2 ^ 8 % 4 = 2 ∧ (t.pkg 0).failover = none ∧ ∃ i, (t.pkg 0).freeDevice = some i) ∧
    ((got (.core 255) (.dist 0 0) (.device launchMsg (ctx 1) 9 true 0) (pkg0 ran fun x => { x with failover := some 0 })).pkg 0).failover ≠ none ∧
    goodLaunch 0 = false := by
  refine ⟨⟨by decide, by decide, by decide, by decide, _, rfl, by decide⟩, ⟨by decide, by decide, by decide, by decide, _, rfl, by decide⟩,
    by decide, by decide, by decide, by decide, by decide, by decide, by decide, by decide, ⟨by decide +kernel, by decide +kernel, by decide +kernel, by decide +kernel, by decide, _, rfl⟩, by decide, by decide +kernel⟩

/-- CHSTAT of a handle that counts. -/
theorem test_witness_remoteStatus :
    (between (.remote (.chstat hand0 0 0) (254 * 2048) 9) (couple (ring4 false) (ring4 true))).accepts hand0 0 = true :=
  accepts0 _ rfl rfl (by decide) rfl

/-! ## Waves and records -/

/-- A process in slot 1 of core 255 parked on endpoint 0, whose peer, endpoint 1, the process in slot 2 last operated, with an
engagement; the core's probe interval is 10. -/
def stuck (g : Option Engagement) : State :=
  core255 (withProc (withProc (couple (bound 0 true 0 0) { bound 0 false 0 0 with lastOp := some (ctx 2, pid2) }) (ctx 2) (procIn .parked 2)) (ctx 1)
    { procIn .parked 2 with wait := .endpoint (epNo 0), waitk := 2, inflight := some (.outWord 2 3, 0), engaged := g, since := 0 })
    fun x => { x with dlprobe := 10 }

/-- An engagement in the wave of a process, with a count of echoes left. -/
def wave (origin : Slot) (left since : Nat) : Engagement :=
  { origin := origin, pid := pid2, serial := 1, sender := some (ctx 4), left := left, since := since, path := [], pathLen := 0 }

/-- A state 20 cycles later. -/
def later (s : State) : State := pkg0 s fun x => { x with time := 20 }

/-- WavesAndRecords: the edges of a channel operation, of a process that waits for a ticket, of an ALT with a guard that is no
process's and of a process that is not parked; the last operator of an endpoint, there and gone. -/
theorem test_witness_edges :
    (let s := stuck none
     (s.proc (ctx 1)).state = .parked ∧ (s.proc (ctx 1)).waitk ≠ 9 ∧ (s.proc (ctx 1)).wait = .endpoint (epNo 0) ∧ (s.ep (epNo 0)).state = 2 ∧ (s.ep (epNo 0)).peer ≠ 0 ∧
       (s.proc (ctx 1)).inflight = some (.outWord 2 3, 0) ∧ s.edges (ctx 1) = some [some (ctx 2)] ∧
       (s.ep (epNo 1)).lastOp = some (ctx 2, pid2) ∧ (s.proc (ctx 2)).state ≠ .free ∧ (s.proc (ctx 2)).pid = pid2) ∧
    (let s := withProc (stuck none) (ctx 2) { procIn .parked 2 with pid := 9 }
     (s.ep (epNo 1)).lastOp = some (ctx 2, pid2) ∧ (s.proc (ctx 2)).pid ≠ pid2) ∧
    (let s := withProc ran (ctx 1) { procIn .parked 2 with wait := .ticket (epNo 1) 3 }
     (s.proc (ctx 1)).state = .parked ∧ (s.proc (ctx 1)).waitk ≠ 9 ∧ (s.proc (ctx 1)).wait = .ticket (epNo 1) 3) ∧
    (let s := withProc ran (ctx 1) { procIn .parked 2 with wait := .alt [] true }
     (s.proc (ctx 1)).state = .parked ∧ (s.proc (ctx 1)).wait = .alt [] true) ∧
    (ran.proc (ctx 1)).state ≠ .parked := by
  decide

/-- WavesAndRecords: a wave that starts; a probe that engages, comes round, meets an older and a younger wave; an echo that counts
down, goes on and ends at the origin; an engagement that expires. -/
theorem test_witness_waves :
    (let s := later (stuck none)
     s.edges (ctx 1) = some [some (ctx 2)] ∧ (s.proc (ctx 1)).engaged = none ∧ (s.core 255).dlprobe ≠ 0 ∧
       (s.proc (ctx 1)).since + (s.core 255).dlprobe.toNat ≤ s.now (coreOf (ctx 1))) ∧
    (between (.probe (ctx 1) (ctx 3) pid2 9 (ctx 3) [] 1) ran).edges (ctx 1) = none ∧
    (∀ o ∈ [ctx 1, ctx 3],
      let t := between (.probe (ctx 1) o pid2 9 (ctx 3) [] 1) (stuck none)
      t.edges (ctx 1) = some [some (ctx 2)] ∧ t.engagedIn (ctx 1) = none ∧ (t.proc (ctx 1)).pid = pid2) ∧
    (∀ o ∈ [ctx 1, ctx 3, ctx 9], ∀ x ∈ [1, 2],
      let t := between (.probe (ctx 1) (ctx 3) pid2 x (ctx 4) [] 1) (stuck (some (wave o 1 0)))
      t.edges (ctx 1) = some [some (ctx 2)] ∧ t.engagedIn (ctx 1) = some (wave o 1 0)) ∧
    (let t := between (.probe (ctx 1) (ctx 1) pid2 1 (ctx 4) [5] 1) (stuck (some (wave (ctx 1) 1 0)))
     t.engagedIn (ctx 1) = some (wave (ctx 1) 1 0) ∧ (t.proc (ctx 1)).pid = pid2 ∧ (wave (ctx 1) 1 0).pathLen = 0) ∧
    (wave (ctx 1) 1 0).origin < ctx 3 ∧ ctx 3 < (wave (ctx 9) 1 0).origin ∧
    (∀ left ∈ [1, 2], ∀ o ∈ [ctx 1, ctx 3],
      let t := between (.echo (ctx 1) o 1 [] 0) (stuck (some (wave o left 0)))
      t.engagedIn (ctx 1) = some (wave o left 0) ∧ (t.proc (ctx 1)).state = .parked ∧ (t.proc (ctx 1)).pid = pid2) ∧
    (between (.echo (ctx 1) (ctx 3) 1 [] 0) (stuck none)).engagedIn (ctx 1) = none ∧
    (let s := later (stuck (some (wave (ctx 3) 1 0)))
     (s.proc (ctx 1)).engaged = some (wave (ctx 3) 1 0) ∧ 0 + (s.core 255).dlprobe.toNat ≤ s.now (coreOf (ctx 1))) := by
  decide

/-- A record for the monitor's sink. -/
def toMonitor : Rec := { dest := .monitor, words := [0, 0, 0, 0], source := none, ticket := none }
def calledRec : Rec := { toMonitor with ticket := some (monitorEp 0, 7) }

/-- A sink of records, endpoint `i` of core 255. -/
def sink (s : State) (i : Nat) (called : BitVec 32) : State :=
  withEntry s i { bound 2 false 1 0 with state := 1, shape := 192, rlen := 8, called := called }

/-- WavesAndRecords: a vigil of 5 cycles with nothing for 20 and one of 0; a domain without a sink. -/
theorem test_witness_records :
    (let s := (later ran).modCluster 15 fun x => { x with vigilInterval := 5, vigilSince := 0 }
     (s.cluster 15).vigilInterval ≠ 0 ∧ min (2 ^ 32 - 1) (s.now (15 * 16) - (s.cluster 15).vigilSince) = 20 ∧ 20 % 5 = 0 ∧ 20 % 6 ≠ 0) ∧
    ((ran.modCluster 15 fun x => { x with vigilInterval := 0 }).cluster 15).vigilInterval = 0 ∧
    (((ran.pkg 0).domain 0).supep = 0) := by
  decide

/-- The monitor's sink, whose index is a constant of the model (log 10), and a core that holds a record for it. -/
def monitorSink : Endpoint := { bound 2 false 1 0 with state := 1, shape := 192, rlen := 8, called := 8 }
def recorded (r : Rec) : State := core255 { ran with eps := ran.eps.put (monitorEp 0) monitorSink } fun x => { x with records := [r] }

/-- Such a record takes a ticket; with its ticket it is sent first. -/
theorem test_witness_sendable :
    (toMonitor.ticket = none ∧ ((recorded toMonitor).ep ((recorded toMonitor).recordSink 0 toMonitor)).takesRecords = true) ∧
    (calledRec.ticket ≠ none) ∧
    (let v := recorded calledRec
     v.ticketRecs 0 ((v.core 255).records.take 16) = (v, [calledRec]) ∧ [calledRec][0]? = some calledRec ∧
       (v.ep (monitorEp 0)).hasCalled 7 = true ∧ v.released calledRec (monitorEp 0) = true) := by
  have h : ∀ r, (recorded r).ep (monitorEp 0) = monitorSink := fun _ => Laws.get_put_same _ _ _ _
  refine ⟨⟨rfl, ?_⟩, by decide, ⟨rfl, rfl, ?_, rfl⟩⟩
  · have e : (recorded toMonitor).recordSink 0 toMonitor = monitorEp 0 := rfl
    rw [e, h]
    decide
  · show ((recorded calledRec).ep (monitorEp 0)).hasCalled 7 = true
    rw [h]
    decide

/-- A domain's own sink takes its records. -/
theorem test_witness_domainSink :
    let s := sink (pkg0 ran fun x => { x with domains := [(0, { x.domain 0 with supep := hand0 })] }) 0 8
    hand0 ≠ 0 ∧ ((s.pkg 0).domain 0).supep = hand0 ∧ epOfHandle hand0 = epNo 0 ∧ (s.ep (epNo 0)).state = 1 ∧ (s.ep (epNo 0)).mode = 2 ∧
      (s.ep (epNo 0)).dir = false ∧ (s.ep (epNo 0)).cls = 1 ∧ (s.ep (epNo 0)).shape = 192 ∧ s.accepts hand0 (BitVec.ofNat 12 0) = true :=
  ⟨by decide, by decide, by decide, by decide, by decide, by decide, by decide, by decide, accepts0 _ (by decide) rfl (by decide) rfl⟩

end Sys2Proof.Tests
end

