-- ==== Sys2Proof/Tests/Witness4.lean ====
section
/-! SUPPORT. Witnesses for the statements on the calends, launches, host registers, bring-up and recovery. -/

namespace Sys2Proof.Tests

open Sys2Proof Sys2Proof.Machine

set_option Elab.async false

/-! ## The calends -/

/-- Packages 0 and 1 form the pod, the root is 0; package 0 changed. -/
def pod2 (f : Package → Package) : State :=
  { ran with
    podFormed := true
    pkgs := [(0, f { Package.atReset with member := true, inPod := true, root := 0, bringup := 8 }),
             (1, { Package.atReset with member := true, inPod := true, root := 0, bringup := 8 })] }

/-- Both packages of the pod as units, and an entry of rank 3 for granule 0, of one byte. -/
def units (v : Body) (s : State) : State := got (.unit 1) (.unit 0) v s
def entryOf (rank : Nat) (b : Byte) : StepEntry :=
  { gran := 0, rank := rank, die := 0, rule := 0, key := 0, domain := 0, step := 0, overflow := false, poisoned := false,
    bytes := [some (b, .unsigned 8, false)] }

/-- A process enrolled on package 0 and parked in STEP since step `n` closed. -/
def stepping (s : State) (n : Nat) : State :=
  withProc s (ctx 1) { procIn .parked 2 with wait := .step, waitk := 7, enrolled := true, arrivedIn := some n, phase := .after [] 0 0, parkedAs := 7 }

/-- The streams of both packages have ended; the child has applied. -/
def drained2 : State :=
  pod2 fun x => { x with phase := 1, closing := false, openStep := 1, doneFrom := [0, 1, 2, 3, 4, 5, 6, 7], appliedFrom := [1] }

/-- A configuration whose list of members is package 0 alone. -/
def only0 : BitVec 1024 := BitVec.ofNat 1024 (2 ^ 128)

/-- CalendsEvents: a step to be sealed and none; ARRIVE first and later; CALL of the step that is open, of another one, with and
without an enrolled process; a stream and its end; APPLIED of this step and of another; RELEASE and the process it wakes. -/
theorem test_witness_calends :
    (let s := pod2 fun x => { x with phase := 1, closing := true, openStep := 1, entries := [entryOf 3 7] }
     (s.pkg 0).phase = 1 ∧ (s.pkg 0).closing = true ∧ s.stepPending 0 = false ∧ (s.pkg 0).doneFrom = [] ∧ s.members = [0, 1] ∧
       (entryOf 3 7).step < (s.pkg 0).openStep ∧ pkgOfLoc (8 * (entryOf 3 7).gran) = 0 ∧ unitOf (entryOf 3 7).gran = 0) ∧
    (ran.pkg 0).phase ≠ 1 ∧
    (let y := (units (.arrive 1 0) (pod2 id)).pkg 0
     y.arrives = [] ∧ y.phase = 0 ∧ y.openStep ≤ 0 ∧ ((units (.arrive 1 0) (pod2 fun x => { x with arrives := [0] })).pkg 0).arrives ≠ []) ∧
    (let y := (units (.arrive 1 0) (pod2 fun x => { x with phase := 1, openStep := 2 })).pkg 0
     y.phase ≠ 0 ∧ 0 < y.openStep - 1) ∧
    (let t := units (.call 0) (pod2 id)
     (t.pkg 0).openStep = 0 ∧ (t.pkg 0).phase = 0 ∧ t.enrolledOn 0 = [] ∧ (1 : Nat) ≠ (t.pkg 0).openStep) ∧
    (let t := units (.call 0) (stepping (pod2 id) 0)
     (t.pkg 0).phase = 0 ∧ t.enrolledOn 0 ≠ []) ∧
    ((units (.call 0) (pod2 fun x => { x with phase := 2 })).pkg 0).phase ≠ 0 ∧
    (((units (.applied 1 1) drained2).pkg 0).openStep = 1 ∧ ((units (.applied 1 1) drained2).pkg 0).phase = 1 ∧
      ((units (.applied 1 2) drained2).pkg 0).openStep ≠ 2 ∧ ((units (.applied 1 0) (pod2 id)).pkg 0).phase ≠ 1) ∧
    (let t := units .release (stepping (pod2 fun x => { x with phase := 2, openStep := 1 }) 0)
     (t.pkg 0).phase = 2 ∧ (t.pkg 0).called = none ∧ (t.pkg 0).arrivedSince = false ∧ (t.pkg 0).newStepctl = none ∧ ctx 1 ∈ t.live ∧
       (t.proc (ctx 1)).wait = .step ∧ (t.proc (ctx 1)).state = .parked ∧ (t.proc (ctx 1)).parkedAs = 7 ∧ (t.proc (ctx 1)).waitk ≠ 9 ∧
       (t.proc (ctx 1)).phase = .after [] 0 0 ∧ (t.proc (ctx 1)).arrivedIn = some ((t.pkg 0).openStep - 1)) ∧
    ((stepping (pod2 fun x => { x with phase := 2, openStep := 2 }) 0).proc (ctx 1)).arrivedIn ≠ some (2 - 1) ∧
    (let t := units .release (pod2 id)
     (t.pkg 0).phase ≠ 2) ∧
    (let s := drained2
     (s.pkg 0).phase = 1 ∧ (s.pkg 0).closing = false ∧ (∀ q ∈ s.members, ∀ k, k < 4 → q * 4 + k ∈ (s.pkg 0).doneFrom) ∧
       (∀ c ∈ s.childrenOf 0, c ∈ (s.pkg 0).appliedFrom) ∧ (s.pkg 0).conflicts ≤ 1024 ∧ s.parentOf (s.pkg 0).root 0 = none ∧
       s.parentOf 1 0 = some 1 ∧ ∀ q ∈ s.members, (s.pkg q).root = (s.pkg 0).root) ∧
    (∃ q ∈ (pod2 fun x => { x with root := 1 }).members, ((pod2 fun x => { x with root := 1 }).pkg q).root ≠ 1) ∧
    (let s := pod2 fun x => { x with phase := 1, openStep := 1, root := 1, doneFrom := [0, 1, 2, 3, 4, 5, 6, 7] }
     (s.pkg 0).root ≠ 0 ∧ s.parentOf 1 0 = some 1) ∧
    (∃ q ∈ (pod2 id).members, q * 4 + 0 ∉ ((pod2 id).pkg 0).doneFrom ∧ Map.find? ((pod2 id).pkg 0).passed (q * 4 + 0) = none) ∧
    (∀ q ∈ drained2.members, q * 4 + 0 ∈ (drained2.pkg 0).doneFrom) ∧
    (let s := pod2 fun x => { x with arrives := [0], steplim := 1, time := 2500 }
     (s.pkg 0).arrives ≠ [] ∧ (s.pkg 0).steplim ≠ 0 ∧ (s.members.filter fun q => !(s.pkg 0).arrives.contains q) = [1] ∧
       (s.pkg 0).firstArrive + ((s.pkg 0).lateSent + 1) * (s.pkg 0).steplim.toNat * 2500 ≤ (s.pkg 0).time) ∧
    ((ran.pkg 0).arrives = [] ∧ [entryOf 3 7] ≠ [] ∧ (covering [entryOf 3 7] 0).map (fun c => c.2.1) = [7] ∧ covering [entryOf 3 7] 1 = [] ∧
      (covering [entryOf 3 7, entryOf 4 8] 0).map (fun c => c.2.1) = [7, 8]) ∧
    (let s : State := { ran with pkgs := [(0, { Package.atReset with member := true, root := 0, bringup := 7, config := some only0 })] }
     s.podFormed = false ∧ ((s.pkgs.filter fun e => e.2.member && decide (e.2.root = e.1)).map (·.1)).head? = some 0 ∧
       (s.pkg 0).config = some only0 ∧ (s.pkg 0).member = true ∧ 7 ≤ (s.pkg 0).bringup ) ∧
    (let s := withProc ran (ctx 1) { procIn .parked 2 with wait := .pod }
     ctx 1 ∈ s.live ∧ (s.proc (ctx 1)).wait = .pod ∧ (s.proc (ctx 1)).state = .parked) := by
  and_intros <;> decide +kernel

/-- The configuration that lists package 0 alone. -/
theorem test_witness_formation (i : Nat) (h : only0.getLsbD (128 + i) = true) : i = 0 := by
  simp only [only0, BitVec.getLsbD_ofNat, Nat.testBit_two_pow, Bool.and_eq_true, decide_eq_true_eq] at h
  omega

/-! ## Launches -/

/-- Package 0 with host queue 3 and launches; the launch 0x10003 of that queue. -/
def launched (h : HostQueue) (ls : List Launch) : State := pkg0 ran fun x => { x with queues := [(3, h)], launches := ls }
def job3 : Launch := launchOf 0x10003 0
def open3 : HostQueue := { HostQueue.atReset with en := true }

/-- A message to the master distributor of package 0. -/
def toMaster (v : Body) (s : State) : State := got (.core 255) (.dist 0 0) v s
def toCore (v : Body) (s : State) : State := got (.dist 0 0) (.core 255) v s

/-- LaunchEvents: the write of a launch that is short, on the wrong port, to a full queue, malformed and good; DEPDEC and CANCEL of no
launch and of one in each stage; a QCTL write with reserved bits, one that moves a queue with launches, one that does not. -/
theorem test_witness_launchWrites :
    (HostQueue.atReset.en = false ∧ open3.en = true ∧ (if open3.port = true then 1 else 0) = 0 ∧ open3.free ≠ 0 ∧ { open3 with free := 0 }.free = 0) ∧
    ((launched open3 []).pkg 0).queues.get 3 HostQueue.atReset = open3 ∧
    (let f := fun (at_ n : Nat) => launchMsg.toNat / 2 ^ (8 * at_) % 2 ^ (8 * n)
     f 0 8 % 4 = 0 ∧ 1 ≤ f 0x14 4 ∧ f 0x10 4 + f 0x14 4 ≤ 2 ^ 32 ∧ 1 ≤ f 0x18 2 ∧ f 0x18 2 ≤ 256 ∧ f 0x1A 2 < 2 ^ 12 ∧ f 0x1C 1 < 16 ∧ f 0x1D 1 = 0 ∧
       f 0x30 16 = 0 ∧ f 0x1A 2 = open3.domain ∧ launchMsg.getLsbD 227 = false) ∧
    (¬1 ≤ (0 : BitVec 512).toNat) ∧
    (let l := job3
     ((launched open3 []).pkg 0).launches.find? (fun a => a.id = 0x10003) = none ∧ (0x10003 : Word).toNat % 2 ^ 16 = 3 ∧ 3 < 2 ^ 15 ∧
     ∀ a ∈ [l, { l with deps := 1 }, { l with stage := 1 }, { l with stage := 3 }, { l with next := 1, count := 2 }],
       ((launched open3 [a]).pkg 0).launches.find? (fun l => l.id = 0x10003) = some a) ∧
    (job3.begun = false ∧ { job3 with begun := true }.begun = true ∧ { job3 with stage := 3 }.status = 0) ∧
    (∃ l ∈ ((launched open3 [job3]).pkg 0).launches, l.id.getLsbD 15 = false ∧ l.id.toNat % 2 ^ 15 = 3) ∧
    ((2 : Word).getLsbD 1 ≠ open3.port ∧ (32 : Word).toNat / 2 ^ 5 % 2 ^ 11 ≠ 0 ∧ (0x100000FF : Word).toNat / 2 ^ 28 ≠ 0 ∧
      (1 : Word).toNat / 2 ^ 5 % 2 ^ 11 = 0 ∧ (1 : Word).toNat / 2 ^ 28 = 0 ∧ (1 : Word).toNat / 2 ^ 16 % 2 ^ 12 = open3.domain) := by
  and_intros <;> decide +kernel

/-- A launch of domain 5 that a chunk of has been sent, and core 255, whose domain it is. -/
def begun5 (cancels : List Nat) : State :=
  core255 (launched open3 [{ job3 with domain := 5, begun := true }]) fun x => { x with cdom := 5, cancels := cancels }

/-- LaunchEvents: CANCEL of such a launch, with room in the core's cancel table and with none. -/
theorem test_witness_cancelBegun :
    (let s := begun5 []
     s.coresOf 0 5 = [255] ∧ [255].Nodup ∧ s.cancelRoom 255 (0 * 2 ^ 48 + 0x10003) = true) ∧
    (let s := begun5 (List.replicate 64 1)
     s.coresOf 0 5 = [255] ∧ s.cancelRoom 255 (0 * 2 ^ 48 + 0x10003) = false) := by
  and_intros <;> decide +kernel

/-- Package 0 whose master has a report of two cores. -/
def reported (ls : List Launch) : State :=
  pkg0 ran fun x => { x with launches := ls, report := [(1, 8, 8, 8, 8), (2, 9, 8, 9, 8)] }

/-- LaunchEvents: the slots of a base die at a multiple of 256 cycles; the core a chunk goes to; a cut; the mirror with a chunk
to send and with none. -/
theorem test_witness_chunks :
    ((ran.base (0 * 4 + 1)).fenced = none ∧ (ran.pkg 0).time % 256 = 0 ∧ (1 : Nat) ≠ (ran.pkg 0).master ∧ (0 : Nat) = (ran.pkg 0).master) ∧
    ran.dieUp (dieOfCore 3) = true ∧ 3 / 512 = 0 * 4 + 0 ∧
    (reported [job3]).chunkCore 0 job3 9 = some 2 ∧
    (job3.again = [] ∧ ∃ e ∈ (reported [job3]).usable 0 job3, job3.chunk ≤ limitIn job3.light e.2) ∧
    (ran.pkg 0).toSend = none ∧ (ran.pkg 0).failover = none ∧ ran.nextChunk 0 = none ∧
    (∃ l first size c, (reported [job3]).nextChunk 0 = some (l, first, size, c)) := by
  refine ⟨by decide, by decide, by decide, by decide, ⟨by decide, by decide⟩, by decide, by decide, by decide, _, _, _, _, rfl⟩

/-- LaunchEvents: the messages of a chunk: the mirror's acknowledgement, the chunk for a core that takes it and for one that does
not, its refusal and its report; the two phases of a cancellation. -/
theorem test_witness_launchMessages :
    (let t := toMaster (.mirrorAck 0x10003) (pkg0 (reported [job3]) fun x => { x with toSend := some (0x10003, 0, 1, 2) })
     (t.pkg 0).toSend = some (0x10003, 0, 1, 2) ∧ (t.pkg 0).launches.find? (fun l => l.id = 0x10003) = some job3 ∧ job3.stage = 0) ∧
    (let t := toCore (.chunk 0x10003 0 1 job3) ran
     (∃ i, i < 1024 ∧ Map.find? (t.core 255).chunks i = none) ∧ (t.core 255).cdom = BitVec.ofNat 12 job3.domain ∧ (t.core 255).busy = false ∧
       (t.core 255).cancels.contains (pkgOf 255 * 2 ^ 48 + (0x10003 : Word).toNat % 2 ^ 48) = false ∧ 1 ≤ t.freeSlots 255 job3.light ∧
       ∃ k, t.freeSlot 255 job3.light = some k ∧ coreOf k = 255) ∧
    (let t := toCore (.chunk 0x10003 0 1 job3) (core255 ran fun x => { x with busy := true })
     (t.core 255).busy = true) ∧
    (let t := toMaster (.chunkRefused 0x10003 0 1 2) (reported [{ job3 with sent := [{ core := 2, first := 0, size := 1 }] }])
     (t.pkg 0).launches.find? (fun l => l.id = 0x10003) = some { job3 with sent := [{ core := 2, first := 0, size := 1 }] }) ∧
    (let l := { job3 with next := 1, sent := [{ core := 2, first := 0, size := 1 }] }
     (((toMaster (.chunkReport 0x10003 0 2) (reported [l])).pkg 0).launches.filter fun a => decide (a.id = 0x10003)) = [l] ∧ l.dev = false ∧ l.stage = 0 ∧ l.again = [] ∧ l.first + l.count ≤ l.next ∧
       ∀ e ∈ l.sent, e.first = 0 ∧ e.core = 2) ∧
    (((toCore (.cancel 0x10003 0) ran).core 255).cancels.contains (0 * 2 ^ 48 + (0x10003 : Word).toNat % 2 ^ 48) = false ∧
      ((toCore (.cancel 0x10003 0) ran).core 255).cancels.length < 64) ∧
    ((toCore (.cancel 0x10003 0) (core255 ran fun x => { x with cancels := [0x10003] })).core 255).cancels.contains
      (0 * 2 ^ 48 + (0x10003 : Word).toNat % 2 ^ 48) = true ∧
    (let t := toCore (.cancel 0x10003 0) (core255 ran fun x => { x with cancels := List.replicate 64 1 })
     (t.core 255).cancels.contains 0x10003 = false ∧ 64 ≤ (t.core 255).cancels.length) ∧
    (let t := toCore (.cancel 0x10003 0) (withProc ran (ctx 1) { procIn .ready 2 with job := 0x10003 })
     ctx 1 ∈ t.live ∧ coreOf (ctx 1) = 255 ∧ (t.proc (ctx 1)).jobKey = 0 * 2 ^ 48 + (0x10003 : Word).toNat % 2 ^ 48 ∧ t.leftFor (ctx 1) = false) ∧
    (∀ l : List Nat, l ∈ [[], [0x10003]] → ((toCore (.drain 0x10003) (core255 ran fun x => { x with inFlight := l })).core 255).inFlight = l) ∧
    (let l := { job3 with stage := 1, awaiting := [255], cores := [255] }
     (((toMaster (.cancelAck 0x10003 255) (reported [l])).pkg 0).launches.filter fun a => decide (a.id = 0x10003)) = [l] ∧
       natErase l.awaiting 255 = [] ∧ l.cores ≠ [] ∧ natErase [254, 255] 255 ≠ []) ∧
    (let l := { job3 with stage := 2, awaiting := [255], cores := [255] }
     let t := toMaster (.drained 0x10003 255) (reported [l])
     ((t.pkg 0).launches.filter fun a => decide (a.id = 0x10003)) = [l] ∧ t.chunkOnWay 0x10003 = false) ∧
    (let s : State := { ran with msgs := [{ src := .dist 0 0, dst := .core 3, cls := .control, body := .chunk 0x10003 0 1 job3 }] }
     s.chunkOnWay 0x10003 = true) := by
  and_intros <;> decide +kernel

/-- LaunchEvents: a distributor that hears what is sent to the master, one that is not the master, and one that nobody leads. -/
theorem test_witness_hears :
    (let y := (toMaster (.cancelAck 0x10003 255) ran).pkg 0
     y.failover = none ∧ 0 = y.master ∧ 1 ≠ y.master) ∧
    ((toMaster (.cancelAck 0x10003 255) (pkg0 ran fun x => { x with failover := some 0 })).pkg 0).failover ≠ none := by
  decide

/-- A state 25,000 cycles later. -/
def muchLater (s : State) : State := pkg0 s fun x => { x with time := 25000 }

/-- LaunchEvents: a chunk report that is resent and one that is not yet; the completion of a launch without an endpoint, with one that
is refused, with a server's whose ticket is called and is not, with a host's that has room and has none, with neither; the new master before and after 10 µs, with and without the mirror. -/
theorem test_witness_completions :
    (let s := core255 ran fun x => { x with unreported := [(0x10003, 0, 0)] }
     (s.core 255).unreported[0]? = some (0x10003, 0, 0) ∧ s.now 255 < 0 + 25000 ∧ 0 + 25000 ≤ (muchLater s).now 255) ∧
    job3.dev = false ∧ job3.stage ≠ 3 ∧ hand0 ≠ 0 ∧
    (launched open3 []).accepts hand0 (BitVec.ofNat 12 job3.domain) = false ∧
    (let z := { bound 2 false 1 0 with rlen := 8, shape := 64, called := 8 }
     z.mode = 2 ∧ z.dir = false ∧ z.cls ≤ 1 ∧ z.state = 2 ∧ z.hasCalled 9 = false ∧ z.hasCalled 7 = true ∧ job3.ticket = none) ∧
    (let s := pkg0 (launched open3 []) fun x =>
      { x with hostEps := [(0, { handle := hand0, ring := 0, valid := true, port := false, rlen := 4, hostidx := 0 })] }
     ∀ z ∈ [{ bound 3 true 1 0 with rlen := 4 }, { bound 3 true 1 0 with rlen := 4, reserved := 1 }, { bound 3 true 1 0 with rlen := 4, tail := 4 }],
       z.mode = 3 ∧ z.dir = true ∧ z.state = 2 ∧ ((withEntry s 0 z).hostEpOf (epNo 0)).isSome = true ∧
         ((z.reserved = 0 ∧ 1 ≤ z.freeGranules) ∨ z.reserved ≠ 0 ∨ z.freeGranules = 0)) ∧
    (bound 0 false 0 0).mode ≠ 2 ∧ (bound 0 false 0 0).mode ≠ 3 ∧
    (let s := muchLater (pkg0 (launched open3 []) fun x => { x with failover := some 0, mirror := [job3] })
     (s.pkg 0).failover = some 0 ∧ 0 + 25000 ≤ (s.pkg 0).time ∧ (s.base (0 * 4 + (s.pkg 0).mirrorAt)).fenced = none ∧ (s.pkg 0).mirror = [job3] ∧
       job3.stage = 0 ∧ (∀ e ∈ job3.sent, s.chunkKnown 0 job3.id e = true) ∧ (s.base 0).fenced = none) ∧
    (let s := (pkg0 ran fun x => { x with failover := some 0, mirror := [job3] }).modBase 1 fun b => { b with fenced := some 1 }
     (s.base (0 * 4 + (s.pkg 0).mirrorAt)).fenced ≠ none ∧ (s.pkg 0).time < 0 + 25000) := by
  and_intros <;> decide +kernel

/-- A launch with any completion endpoint is done. -/
theorem test_witness_doneLaunch (c : Word) :
    ((launched open3 [{ job3 with stage := 3, compl := c }]).pkg 0).failover = none ∧
      ((launched open3 [{ job3 with stage := 3, compl := c }]).pkg 0).launches = [{ job3 with stage := 3, compl := c }] := ⟨rfl, rfl⟩

/-- A completion endpoint accepts. -/
theorem test_witness_completionAccepts (x : Endpoint) (h1 : x.domain = 0) (h2 : x.state ≠ 0) (h3 : x.gen = 0) :
    (withEntry (launched open3 []) 0 x).accepts hand0 0 = true := by
  have e : (withEntry (launched open3 []) 0 x).ep (epNo 0) = x := Laws.get_put_same _ _ _ _
  exact accepts0 _ (by unfold State.secretOf; rw [e, h1]; rfl) (by rw [e]; exact h1) (by rw [e]; exact h2) (by rw [e]; exact h3)

/-! ## Host registers -/

/-- Host endpoint entry 5 of package 0 names endpoint 0 of core 255. -/
def hosted (h : HostEp) (x : Endpoint) : State := withEntry (pkg0 ran fun y => { y with hostEps := [(5, h)] }) 0 x
def hostEnd (dir : Bool) (state : Nat) : Endpoint :=
  { Endpoint.empty with state := state, mode := 3, dir := dir, rlen := 4, head := 65535, tail := 0, rbase := 0 }
def hostEntry (valid : Bool) : HostEp := { handle := hand0, ring := 0, valid := valid, port := false, rlen := 3, hostidx := 0 }

/-- Semaphore 7 of package 0 with a value. -/
def sem7 (v : Nat) : State := pkg0 ran fun x => { x with sems := [(7, v)] }

/-- A window of two units from unit `b` for domain 0, and die 0 with windows. -/
def windowAt (b d : Nat) : Window := { base := b, size := 2, domain := d, valid := true }
def windows (l : Map Window) (clearing : Option (Nat × Window)) : State :=
  ran.modDie 0 fun z => { z with windows := l, clearing := clearing }

/-- HostRegisters: semaphores free, held by a host and by the monitor; a CDOM write that is refused and one that clears; windows that
overlap and that do not; a window that clears, and a process that waits in it; a descriptor in use and out of it. -/
theorem test_witness_hostRegisters :
    (((sem7 0).pkg 0).sem 7 % 2 = 0 ∧ ((sem7 1).pkg 0).sem 7 = 1 + 2 * 0 ∧ ((sem7 3).pkg 0).sem 7 = 1 + 2 * 1 ∧ ((sem7 5).pkg 0).sem 7 = 1 + 2 * 2 ∧
      (∀ e ∈ ((sem7 1).pkg 0).sems, ((sem7 1).pkg 0).sem e.1 = e.2)) ∧
    ((1 : Word).toNat / 2 ^ 13 = 0 ∧ ((ran.pkg (3 / 2048)).domain 0).valid = true ∧ ((ran.pkg 0).domain 1).valid = false ∧ 3 % 2048 ≠ 255 ∧
      (ran.live.filter fun k => decide (coreOf k = 3)) = [] ∧ (ran.core 3).tileQ = [] ∧ (ran.core 3).copyQ = [] ∧ (ran.core 3).replay.state = .idle ∧
      (ran.core 3).recording = none ∧ (ran.core 3).busy = false) ∧
    (let s := ran.modCore 3 fun x => { x with busy := true, newDom := 0 }
     (s.core 3).busy = true ∧ s.eps = [] ∧ (s.ep (3 * 1024)).ticket = none) ∧
    (let v : Word := BitVec.ofNat 64 (4 + 2 * 2 ^ 11 + 2 ^ 63)
     v.toNat % 2 ^ 10 = 4 ∧ v.toNat / 2 ^ 11 % 2 ^ 11 = 2 ∧ v.getLsbD 63 = true ∧ v.getLsbD 10 = false ∧ v.toNat / 2 ^ 22 % 2 ^ 10 = 0 ∧
       v.toNat / 2 ^ 44 % 2 ^ 19 = 0 ∧ v.toNat / 2 ^ 32 % 2 ^ 12 = 0 ∧ ((ran.die (0 * 8 + 0)).clearing = none)) ∧
    (((windows [(1, windowAt 5 3)] none).die 0).window 1).valid = true ∧ (((windows [(1, windowAt 5 3)] none).die 0).window 1).domain ≠ 0 ∧
    (let s := windows [(0, windowAt 0 0)] (some (0, windowAt 4 0))
     (s.die 0).clearing = some (0, windowAt 4 0) ∧ (windowAt 4 0).covers (4 * 65536 / 65536) = true ∧ (s.die 0).gives 0 (4 * 65536 / 65536) = false ∧
       4 * 65536 < 2 ^ 26 ∧ ((s.die 0).window 0).covers (8 / 65536) = true) ∧
    (let s : State := { withProc (windows [(0, windowAt 0 0)] (some (0, windowAt 4 0))) (ctx 1) { procIn .parked 2 with wait := .barrier (locCommon 0 0 8) } with
        barriers := [(locCommon 0 0 8, ctx 1)] }
     s.barriers = [(locCommon 0 0 8, ctx 1)] ∧ s.armed = [] ∧ (s.proc (ctx 1)).state = .parked ∧
       ((s.die 0).window 0).covers (8 / 65536) = true) ∧
    ((ran.pkg 0).thermtrip = false ∧ 3 ≤ (ran.pkg 0).bringup ∧ (ran.base 0).fenced = none ∧
      ((ran.modBase 2 fun b => { b with fenced := some 1 }).base 2).fenced ≠ none) ∧
    ((2 : Word).toNat / 2 ≠ 0 ∧ (1 : Word).toNat / 2 = 0 ∧ (1 : Word).getLsbD 0 = true ∧ (1 : Word).toNat % 2 ^ 12 ≠ 0 ∧
      (BitVec.ofNat 64 (768 * 2 ^ 30)).toNat % 2 ^ 12 = 0 ∧ 768 * 2 ^ 30 ≤ (BitVec.ofNat 64 (768 * 2 ^ 30)).toNat ∧
      (BitVec.ofNat 64 (768 * 2 ^ 30 - 4096)).toNat % 2 ^ 12 = 0 ∧ (BitVec.ofNat 64 (768 * 2 ^ 30 - 4096)).toNat < 768 * 2 ^ 30) := by
  and_intros <;> decide +kernel

/-- HostRegisters: an endpoint entry that binds an open end, one that is bound, to the host and from it, and one that is not; counts
within the ring and past it; step-unit registers in each phase; locations a host reaches and does not. -/
theorem test_witness_hostEndpoints :
    (let s := hosted (hostEntry true) (hostEnd true 2)
     ((s.pkg 0).hostEp 5).valid = true ∧ epOfHandle ((s.pkg 0).hostEp 5).handle = epNo 0 ∧ (s.hostEpOf (epNo 0)).isSome = true ∧ (s.ep (epNo 0)).state = 2 ∧
       (s.ep (epNo 0)).mode = 3 ∧ (s.ep (epNo 0)).dir = true ∧ (1 : Word).setWidth 16 - ((s.pkg 0).hostEp 5).hostidx = 1 ∧ 1 ≤ (s.ep (epNo 0)).committed ∧
       (s.ep (epNo 0)).committed < 5) ∧
    (let s := hosted (hostEntry true) (hostEnd false 2)
     (s.hostEpOf (epNo 0)).isSome = true ∧ (s.ep (epNo 0)).dir = false ∧ 1 ≤ (s.ep (epNo 0)).rlen - (s.ep (epNo 0)).committed ∧
       (s.ep (epNo 0)).rlen - (s.ep (epNo 0)).committed < 4 ∧
       64 * ((s.ep (epNo 0)).rbase + (s.ep (epNo 0)).tail.toNat % (s.ep (epNo 0)).rlen) + 64 ≤ ctxBase (s.core (coreOfEp (epNo 0)))) ∧
    (let s := withProc (hosted (hostEntry true) { hostEnd true 2 with waiter := some (ctx 1) }) (ctx 1) (procIn .parked 2)
     (s.ep (epNo 0)).waiter = some (ctx 1) ∧ (s.proc (ctx 1)).state = .parked ∧ s.acked (ctx 1) = false) ∧
    (let s := hosted (hostEntry false) (hostEnd true 1)
     ((s.pkg 0).hostEp 5).valid = false ∧ (s.ep (epNo 0)).state = 1 ∧ (s.ep (epNo 0)).mode = 3) ∧
    ((ran.ep (epNo 0)).state ≠ 1) ∧
    ((ran.pkg 0).phase = 0 ∧ ((pod2 fun x => { x with phase := 1 }).pkg 0).phase ≠ 0 ∧ (ran.pkg 0).entries = [] ∧
      (BitVec.ofNat 64 (131073 * 2 ^ 40)).toNat < 2 ^ 58 ∧ 131072 < (BitVec.ofNat 64 (131073 * 2 ^ 40)).toNat / 2 ^ 40 ∧
      (BitVec.ofNat 64 (131072 * 2 ^ 40)).toNat / 2 ^ 40 ≤ 131072) ∧
    (let e := { entryOf 3 7 with overflow := true }
     ((pod2 fun x => { x with entries := [e] }).pkg 0).entries = [e] ∧ e.overflow = true) ∧
    (ran.hostReaches 0 (locSpad 255 0) 8 = true ∧ ran.hostReaches 0 (locSpad 255 393212) 8 = false ∧ kindOf (locSpad 255 0) ≠ .hbm ∧
      ran.ordadds = [] ∧ ran.poison = [] ∧ (ran.pkg 0).applying = false) := by
  and_intros <;> decide +kernel

/-- HostRegisters: a window write that waits for a store to the bytes that leave, one that does not, each with and without another
behind it; a granule that a receiving host endpoint reads. -/
theorem test_witness_windowWaits :
    let leaves := fun (s : State) (u : Nat) => ((s.die 0).window 0).covers u &&
      !({ s.die 0 with windows := (s.die 0).windows.put 0 (windowAt 4 0), clearing := none } : Die).gives ((s.die 0).window 0).domain u
    let s := windows [(0, windowAt 0 0)] (some (0, windowAt 4 0))
    let t := withStores s [{ queued 64 with target := some (.mem (locCommon 0 0 8)) }]
    let u := s.modDie 0 fun z => { z with windowQ := [(1, 0)] }
    ((s.die 0).windowQ = [] ∧ (s.writesTo fun loc => (unitOfDie 0 loc).any (leaves s)) = false) ∧
    ((t.die 0).clearing ≠ none ∧ (t.writesTo fun loc => (unitOfDie 0 loc).any (leaves t)) = true) ∧
    ((u.die 0).windowQ = [(1, 0)] ∧ (u.writesTo fun loc => (unitOfDie 0 loc).any (leaves u)) = false) ∧
    ∃ j, (hosted (hostEntry true) (hostEnd false 2)).hostEpOf (epNo 0) = some j ∧
      ((hosted (hostEntry true) (hostEnd false 2)).core (coreOfEp (epNo 0))).storeQ = [] := by
  exact ⟨by decide +kernel, by decide +kernel, by decide +kernel, _, rfl, by decide⟩

/-- A good handle in a host endpoint entry. -/
theorem test_witness_hostHandle : (hosted (hostEntry false) (hostEnd true 1)).accepts hand0 ((hosted (hostEntry false) (hostEnd true 1)).ep (epNo 0)).domain = true :=
  accepts0 _ rfl rfl (by decide) rfl

/-! ## Bring-up -/

/-- Package 0 with its port 0 changed, and package 0 changed. -/
def onPort (f : Port → Port) : State := pkg0 ran fun x => { x with port0 := f x.port0 }
def inPhase (n : Nat) (f : Package → Package) : State := pkg0 ran fun x => f { x with bringup := n }

/-- A configuration of package 0 as the only member and the root. -/
def goodConfig : BitVec 1024 := BitVec.ofNat 1024 (1 + 2 ^ 128)

/-- A configuration for package 3, of that package alone. -/
def config3 : BitVec 1024 := BitVec.ofNat 1024 (1 + 3 * 2 ^ 16 + 2 ^ 131)

/-- BringUp: a package held in reset and one that is not; a configuration for another package, which has none and which has one. -/
theorem test_witness_held :
    (((pkg0 ran fun x => { x with thermtrip := true }).pkg 0).thermtrip = true ∧ ((inPhase 0 id).pkg 0).bringup = 0) ∧
    ((ran.pkg 0).thermtrip = false ∧ (ran.pkg 0).bringup ≠ 0) ∧
    (let s := onPort fun y => { y with config := config3 }
     let c := fun (at_ n : Nat) => ((s.pkg 0).port 0).config.toNat / 2 ^ (8 * at_) % 2 ^ (8 * n)
     c 0 2 = 1 ∧ c 2 2 = 3 ∧ c 4 2 < 512 ∧ c 6 1 % 2 = 0 ∧ c 7 1 = 0 ∧ c 8 8 < 2 ^ 58 ∧ c 8 8 / 2 ^ 40 ≤ 131072 ∧
       ((s.pkg 0).port 0).config.getLsbD (128 + c 2 2) = true ∧ c 0x50 48 = 0 ∧ (s.pkg 3).config = none ∧
       s.pkgs.Pairwise (fun a b => a.1 < b.1) ∧ ((s.modPkg 3 fun x => { x with config := some config3 }).pkg 3).config ≠ none) := by
  and_intros <;> decide +kernel

/-- BringUp: a failed training that leaves every link of compute die 0 down. -/
theorem test_witness_cut :
    let t := inPhase 3 fun x => { x with links := (linksOfDie 0).map fun l => (l, 2) }
    (∀ l ∈ linksOfDie 0, (t.pkg 0).links.get l 0 = 2) ∧ (t.pkg 0).bringup = 3 := by
  and_intros <;> decide +kernel

/-- BringUp: a port with and without a command; no configuration, a bad one and a good one; the uploads with each port, length and block;
a report to be given and none; an image to be verified and none. -/
theorem test_witness_mailbox :
    (((onPort fun y => { y with command := some 1 }).pkg 0).port 0).command ≠ none ∧ ((ran.pkg 0).port 0).command = none ∧
    ((0 : Word) = 0 ∧ 6 ≤ (6 : Word).toNat) ∧ (ran.pkg 0).config = none ∧ ((inPhase 5 fun x => { x with config := some 0 }).pkg 0).config ≠ none ∧
    (let s := onPort fun y => { y with config := goodConfig }
     let c := fun (at_ n : Nat) => ((s.pkg 0).port 0).config.toNat / 2 ^ (8 * at_) % 2 ^ (8 * n)
     c 0 2 = 1 ∧ c 2 2 < 512 ∧ c 4 2 < 512 ∧ c 6 1 % 2 = 0 ∧ c 7 1 = 0 ∧ c 8 8 < 2 ^ 58 ∧ c 8 8 / 2 ^ 40 ≤ 131072 ∧
       ((s.pkg 0).port 0).config.getLsbD (128 + c 2 2) = true ∧ c 0x50 48 = 0 ∧ c 2 2 = 0) ∧
    ((ran.pkg 0).recovery = false ∧ ((pkg0 ran fun x => { x with recovery := true }).pkg 0).recovery = true) ∧
    ((255 % 256 ≠ 0) ∧ 256 % 256 = 0 ∧ 256 ≤ 256 ∧ 2 ^ 24 % 256 = 0 ∧ 2 ^ 24 < 2 ^ 24 + 256 ∧ (0 : Nat) < 256) ∧
    (∀ port ∈ [0, 1], ∀ l ∈ [[], [(0 : BitVec 2048)]],
      let s := pkg0 ran fun x => { x with recovery := true, upload := some { port := port, length := 256, blocks := l } }
      (s.pkg 0).upload = some { port := port, length := 256, blocks := l }) ∧
    (256 * [(0 : BitVec 2048)].length = 256 ∧ 256 * ([] : List (BitVec 2048)).length < 256) ∧
    (let s := onPort fun y => { y with command := some 1 }
     ((s.pkg 0).port 0).command = some 1) ∧
    ((pkg0 ran fun x => { x with verifying := some (0, []) }).pkg 0).verifying = some (0, []) ∧ (ran.pkg 0).verifying = none := by
  and_intros <;> decide +kernel

/-- BringUp: every phase, with attempts left and none; the state from which the monitor starts. -/
theorem test_witness_phases :
    (∀ n ∈ [1, 2, 3, 4, 5], let x := (inPhase n id).pkg 0
      x.bringup = n ∧ x.thermtrip = false ∧ x.recovery = false ∧ x.attempts.get 3 0 < 2 ∧ x.config = none) ∧
    (∀ n ∈ [2, 3], let x := (inPhase n fun x => { x with attempts := [(3, 2)] }).pkg 0
      x.bringup = n ∧ 2 ≤ x.attempts.get 3 0) ∧
    ((inPhase 5 fun x => { x with config := some goodConfig }).pkg 0).config ≠ none ∧
    (let s : State := { State.reset with pkgs := [(0, { Package.atReset with bringup := 6, config := some goodConfig })] }
     (s.pkg 0).bringup = 6 ∧ (s.pkg 0).thermtrip = false ∧ (s.pkg 0).recovery = false ∧ s.self = (0 * 2048 + 255) * 2048 ∧ s.cur = Proc.empty ∧
       s.live = [] ∧ s.core (0 * 2048 + 255) = Core.atReset ∧ (s.pkg 0).config = some goodConfig) ∧
    ((BitVec.ofNat 1024 (1 + 2 ^ 128 + 2 ^ 49)).getLsbD (48 + 1) = true) ∧
    (ran.dirty = [] ∧ (ran.pkg 0).inPod = false ∧ ran.podFormed = false ∧ pkgOfLoc 0 = 0 ∧ kindOf 0 = .hbm) ∧
    ((ran.pkg 0).thermtrip = false ∧ ((pkg0 ran fun x => { x with thermtrip := true }).pkg 0).thermtrip = true) := by
  and_intros <;> decide +kernel

/-! ## Recovery -/

/-- Package 0 with a link in a state. -/
def linked (n v : Nat) : State := pkg0 ran fun x => { x with links := [(n, v)] }

/-- Recovery: temperatures at each limit; a link with replays and without, up and retraining, with failures left and none; errors of each
place; a corrected error that is new, recent and old. -/
theorem test_witness_errors :
    ((ran.pkg 0).links.get 30 0 = 0 ∧ ((linked 30 1).pkg 0).links.get 30 0 = 1 ∧ ((linked 30 1).pkg 0).linkFails.get 30 0 < 2 ∧
      ((linked 30 1).pkg 0).links.Pairwise fun a b => a.1 < b.1) ∧
    (let s := pkg0 (linked 30 1) fun x => { x with linkFails := [(30, 2)] }
     (s.pkg 0).links.get 30 0 = 1 ∧ 2 ≤ (s.pkg 0).linkFails.get 30 0) ∧
    (let x := (pkg0 ran fun x => { x with linkReplays := [(30, [0, 0, 0])] }).pkg 0
     3 ≤ ((x.linkReplays.get 30 []).filter fun t => decide (x.time < t + 1024)).length) ∧
    ((((ran.pkg 0).linkReplays.get 30 []).filter fun t => decide ((ran.pkg 0).time < t + 1024)).length < 3) ∧
    (Map.find? (ran.pkg 0).lastCorrected 3 = none ∧
      (∀ time ∈ [0, 25000000], let x := (pkg0 ran fun x => { x with lastCorrected := [(3, 0)], time := time }).pkg 0
        Map.find? x.lastCorrected 3 = some 0 ∧ x.time = time)) ∧
    (Map.find? ran.dirty (64 / 64) = none ∧
      Map.find? [(1, ({ cluster := 15, key := 0, bytes := [], poison := [], material := none } : Dirty))] (64 / 64) ≠ none) ∧
    ((ran.proc (ctx 1)).state = .free ∧ ((withProc ran (ctx 1) (procIn .ready 2)).proc (ctx 1)).state ≠ .free) ∧
    ((ran.ep (epNo 0)).state = 0 ∧ ((couple (ring4 false) (ring4 true)).ep (epNo 0)).state ≠ 0) ∧
    (let s := State.modCluster ran 15 fun x => { x with tapes := [(0, tape7 2 [])] }
     Map.find? (s.cluster 15).tapes 0 = some (tape7 2 []) ∧ (s.cluster 15).tapes.Pairwise fun a b => a.1 < b.1) ∧
    (let s := replaying .stream (tape7 2 [guardE, tileE]) 1 (argsOf 0)
     255 / 16 = 15 ∧ coreOf monitorSlot = 255 ∧ (s.core 255).replay.state = .stream ∧ (s.core 255).replay.index = 0 ∧ (s.core 255).replay.pos = 1 ∧
       (s.core 255).replay.owner = monitorSlot ∧ (s.core 255).replay.waiting = []) := by
  and_intros <;> decide +kernel

/-- Recovery: a die up and fenced; an end on the die and its peer elsewhere; a process elsewhere that waits for a line and for a barrier on it;
a launch with a chunk on it; a base die with the master; a package that leaves the pod. -/
theorem test_witness_fences :
    ((ran.die 0).fenced = none ∧ (ran.base 0).fenced = none ∧ ((ran.modDie 0 fun z => { z with fenced := some 1 }).die 0).fenced ≠ none) ∧
    (ran.live = [monitorSlot] ∧ coreOf monitorSlot / 256 = 0) ∧
    (let s := { withEntry ran 0 { bound 0 true 0 0 with peer := 2 ^ 44 * 300 } with eps :=
        [(300 * 1024, bound 0 false 0 hand0), (epNo 0, bound 0 true 0 0)] }
     coreOfEp (epNo 0) / 256 = 0 ∧ coreOfEp (300 * 1024) / 256 ≠ 0 ∧ (s.ep (epNo 0)).state ≠ 0 ∧ 2 ≤ (s.ep (300 * 1024)).state ∧
       (s.ep (300 * 1024)).peer ≠ 0 ∧ epOfHandle (s.ep (300 * 1024)).peer = epNo 0) ∧
    (∀ w ∈ [Wait.line (locSpad 3 0 / 64), .barrier (locCommon 0 0 8)],
      let s := withProc ran (300 * 2048) { procIn .parked 2 with wait := w }
      300 * 2048 ∈ s.live ∧ coreOf (300 * 2048) / 256 ≠ 0 ∧ (s.proc (300 * 2048)).state = .parked ∧ (s.proc (300 * 2048)).chv = false ∧
        (∀ f ∈ s.eps, f.2.waiter ≠ some (300 * 2048) ∧ 300 * 2048 ∉ f.2.queue) ∧
        (∀ c ∈ s.cores, ∀ q ∈ c.2.tileQ ++ c.2.copyQ, q.owner ≠ 300 * 2048) ∧ (s.proc (300 * 2048)).wait = w) ∧ locSpad 3 0 = 64 * (locSpad 3 0 / 64) ∧
    (let l := { job3 with sent := [{ core := 2, first := 0, size := 1 }] }
     ((launched open3 [l]).pkg 0).launches = [l] ∧ l.stage = 0 ∧ 2 / 256 = 0 ∧ ((launched open3 [l]).pkg 0).toSend = none ∧
       ((pkg0 (launched open3 [l]) fun x => { x with toSend := some (l.id, 0, 1, 2) }).pkg 0).toSend = some (l.id, 0, 1, 2)) ∧
    (ran.barriers = [] ∧
      (let s : State := { withProc ran (ctx 1) { procIn .parked 2 with wait := .barrier (locSpad 255 64) } with
         barriers := [(locSpad 255 64, ctx 1)] }
       s.barriers = [(locSpad 255 64, ctx 1)] ∧ (s.proc (ctx 1)).state = .parked)) ∧
    ((ran.pkg 0).master = 0 ∧ (ran.pkg 0).failover = none ∧ ((pod2 id).pkg 0).member = true) ∧
    (let s := pod2 fun x => { x with root := 1 }
     (s.pkg 0).inPod = true ∧ s.podFormed = true ∧ (s.pkg 0).root ≠ 0 ∧ (s.pkg 0).withdrawn = false ∧ ran.podFormed = false) := by
  and_intros <;> decide +kernel

/-- Recovery: the causes of a compute die's fence: its links all down, and its base die fenced; a process with a vector extension. -/
theorem test_witness_causes :
    (let s := pkg0 ran fun x => { x with links := (linksOfDie 0).map fun l => (l, 2) }
     (∀ l ∈ linksOfDie 0, (s.pkg 0).links.get l 0 = 2) ∧ (s.die 0).fenced = none) ∧
    (let s := ran.modBase 0 fun b => { b with fenced := some 1 }
     (s.base (0 * 4 + 0 / 2)).fenced ≠ none ∧ (s.die 0).fenced = none) ∧
    (∃ l ∈ linksOfDie 0, (ran.pkg 0).links.get l 0 ≠ 2) ∧
    (let s := withProc ran (ctx 1) { procIn .parked 2 with vext := some (VExt.fresh 3) }
     (s.proc (ctx 1)).vext = some (VExt.fresh 3) ∧ (s.proc (ctx 1)).state ≠ .free) ∧
    (ran.pkgs.Pairwise fun a b => a.1 < b.1) := by
  and_intros <;> decide +kernel

end Sys2Proof.Tests
end

section
/-! SUPPORT. The decoder on words that are instructions and on words that are none (R51 to R67): when a word decodes, which
words decode to nothing, and what a word of that kind does where it is fetched. -/

namespace Sys2Proof.Proofs.DecodeWords

open Sys2Proof.Machine

/-- The three checks of R67: the opcode and member code select an instruction, the word is that instruction's own (its
reserved fields are zero), and every selector in it is assigned. -/
theorem decodeWord_eq_ok_iff {w : IWord} {i : Instr} :
    decodeWord w = .ok i ↔ selectMember w = some i ∧ encode i = some w ∧ i.wellFormed = true := by
  unfold decodeWord
  cases selectMember w with
  | none => simp only [reduceCtorEq, false_and]
  | some j =>
    constructor
    · intro hdec
      by_cases henc : encode j = some w
      · by_cases hwf : j.wellFormed = true
        · simp only [if_pos henc, if_pos hwf] at hdec
          cases hdec
          exact ⟨rfl, henc, hwf⟩
        · simp only [if_pos henc, if_neg hwf, reduceCtorEq] at hdec
      · simp only [if_neg henc, reduceCtorEq] at hdec
    · rintro ⟨hsel, henc, hwf⟩
      cases hsel
      simp only [if_pos henc, if_pos hwf]

/-- Only the word of a well-formed instruction decodes. -/
theorem decodeWord_ne_ok_of_not_encoded {w : IWord} (hw : ∀ i : Instr, i.wellFormed = true → encode i ≠ some w) (i : Instr) :
    decodeWord w ≠ .ok i := fun hdec =>
  have ⟨_, henc, hwf⟩ := decodeWord_eq_ok_iff.mp hdec
  hw i hwf henc

/-- What a fetched word runs as when it decodes to nothing. -/
theorem instrOf_of_not_decoded {w : IWord} (hw : ∀ i, decodeWord w ≠ .ok i) : instrOf w = .unassignedEncoding w := by
  unfold instrOf
  cases hdec : decodeWord w with
  | ok i => exact absurd hdec (hw i)
  | error _ => rfl

/-- The major opcode is what stands above bit 25: an instruction word has no bit above 31. -/
theorem bits_major (w : IWord) : bits w 31 26 = w.toNat / 2 ^ 26 :=
  Nat.mod_eq_of_lt (Nat.div_lt_of_lt_mul w.isLt)

/-- The illegal major opcode 0 and the reserved ones, 7 and 0x28 to 0x3F, have no member (R54, R67). -/
theorem selectMember_of_unassigned_major {w : IWord}
    (hw : w.toNat / 2 ^ 26 = 0 ∨ w.toNat / 2 ^ 26 = 7 ∨ 0x28 ≤ w.toNat / 2 ^ 26) : selectMember w = none := by
  rw [← bits_major] at hw
  unfold selectMember
  split
  case h_39 => rfl
  all_goals omega

/-- A word with an unassigned major opcode decodes to nothing. -/
theorem decodeWord_ne_ok_of_unassigned_major {w : IWord}
    (hw : w.toNat / 2 ^ 26 = 0 ∨ w.toNat / 2 ^ 26 = 7 ∨ 0x28 ≤ w.toNat / 2 ^ 26) (i : Instr) : decodeWord w ≠ .ok i := by
  intro hdec
  obtain ⟨hsel, -, -⟩ := decodeWord_eq_ok_iff.mp hdec
  rw [selectMember_of_unassigned_major hw] at hsel
  cases hsel

/-- An unassigned word traps ILLOP with detail 0 (R67). -/
theorem exec_unassignedEncoding (w : IWord) (s : State) : exec (.unassignedEncoding w) s = .next (s.trap 0x01 [0]) := rfl

/-- Settles O17: the three checks of the decoder, passed by each of the eight words and failed by every unassigned one. The
scope field of the `amo.swap` word is 1, which R178 names ENGINE. -/
theorem decodeWords : Obligations.DecodeWords := by
  refine ⟨?assigned, ⟨fun w hw => ?notEncoded, fun w hw => ?unassignedMajor, exec_unassignedEncoding⟩⟩
  case assigned => and_intros <;> exact decodeWord_eq_ok_iff.mpr ⟨rfl, rfl, rfl⟩
  case notEncoded =>
    have hdec := decodeWord_ne_ok_of_not_encoded hw
    exact ⟨hdec, instrOf_of_not_decoded hdec⟩
  case unassignedMajor => exact instrOf_of_not_decoded (decodeWord_ne_ok_of_unassigned_major hw)

end Sys2Proof.Proofs.DecodeWords
end

section
/-! SUPPORT. The end of an instruction that passed its checks (R8, R69, R111): it stands at its start again, whether or not
single step stops its process, so it keeps no words of its ports, and the issue is that end alone. -/

namespace Sys2Proof.Proofs.InstructionEnd

open Sys2Proof.Machine Sys2Proof.Laws

/-! ## The issuer stays the issuer when its process is stopped -/

theorem foldl_self {α : Type} (f : State → α → State) (hf : ∀ t x, (f t x).self = t.self) (xs : List α) (s : State) :
    (xs.foldl f s).self = s.self := by
  induction xs generalizing s with
  | nil => rfl
  | cons x rest ih => exact (ih (f s x)).trans (hf s x)

@[simp] theorem wake_self (s : State) (k : Slot) (v : Word) (mark : Nat) : (s.wake k v mark).self = s.self := by
  unfold State.wake State.toTail
  dsimp only
  repeat' split
  all_goals simp

@[simp] theorem lookAgain_self (s : State) (k : Slot) : (s.lookAgain k).self = s.self := by
  unfold State.lookAgain
  split
  · rfl
  · rfl
  · exact wake_self s k 0 0

@[simp] theorem wakeEp_self (s : State) (e : EpId) : (s.wakeEp e).self = s.self := by
  unfold State.wakeEp
  split
  · rfl
  · exact lookAgain_self s _

@[simp] theorem leaveOne_self (s : State) (k : Slot) (e : EpId) : (s.leaveOne k e).self = s.self := by
  unfold State.leaveOne
  dsimp only
  repeat' split
  all_goals simp

@[simp] theorem giveBack_self (s : State) (k : Slot) : (s.giveBack k).self = s.self := by
  unfold State.giveBack
  refine foldl_self _ (fun t x => ?_) _ s
  split
  · rfl
  · simp

@[simp] theorem leaveAll_self (s : State) (k : Slot) : (s.leaveAll k).self = s.self := by
  unfold State.leaveAll
  exact foldl_self _ (fun t (x : EpId × Endpoint) => leaveOne_self t k x.1) _ s

/-- Whatever a process waits on, leaving it changes no issuer. -/
@[simp] theorem withdraw_self (s : State) (k : Slot) : (s.withdraw k).self = s.self := by
  have hleft : (((s.giveBack k).leaveAll k).orphanOffers k).self = s.self := by simp [State.orphanOffers]
  unfold State.withdraw
  dsimp only
  repeat' split
  all_goals simpa using hleft

/-! ## An instruction that has ended stands at its start -/

theorem stopProc_cur_phase (s : State) (kind cause : Nat) (word : IWord) (ds : List Word) :
    (s.stopProc s.self kind cause word ds).cur.phase = .fresh := by
  have hself : ((s.withdraw s.self).unlist s.self).self = s.self := by simp [State.unlist]
  simp [State.stopProc, State.buffer, State.setProc, hself]

/-- `finishAt_phase` without its hypothesis: a single-stepped process stops, and stands at its start too (R37, R351). -/
theorem finishAt_cur_phase (s : State) (pc : Word) : (s.finishAt pc).cur.phase = .fresh := by
  unfold State.finishAt
  dsimp only
  split
  · exact stopProc_cur_phase _ 0 0x16 _ [1]
  · rfl

theorem doneWith_cur_phase (s : State) (sh : Shape) (v : Word) : (s.doneWith sh v).cur.phase = .fresh := by
  unfold State.doneWith
  split <;> exact finishAt_cur_phase _ _

theorem doneWithPred_cur_phase (s : State) (sh : Shape) (p : PReg) (b : Bool) :
    (s.doneWithPred sh p b).cur.phase = .fresh := finishAt_cur_phase _ _

/-! ## Issuing an instruction that ends -/

/-- An instruction that ends keeps no words, even where its sources name ports (R69). -/
theorem issue_ended {s t : State} {sh : Shape} (hready : Ready sh s) (hvec : sh.vec = false)
    {body : List Word → State → State} (hbody : body (s.sourceValues [] sh.srcs) s = t) (hend : t.cur.phase = .fresh) :
    s.issue sh body = t := by
  rw [issue_ready hready, extended_novec s sh hvec, hbody, keepWords_fresh t _ hend]

theorem issue_doneWith {s : State} {sh : Shape} (hready : Ready sh s) (hvec : sh.vec = false)
    (value : List Word → State → Word) :
    s.issue sh (fun vals s => s.doneWith sh (value vals s)) = s.doneWith sh (value (s.sourceValues [] sh.srcs) s) :=
  issue_ended hready hvec rfl (doneWith_cur_phase s sh _)

theorem issue_doneWithPred {s : State} {sh : Shape} (hready : Ready sh s) (hvec : sh.vec = false) (p : PReg)
    (value : List Word → State → Bool) :
    s.issue sh (fun vals s => s.doneWithPred sh p (value vals s)) =
      s.doneWithPred sh p (value (s.sourceValues [] sh.srcs) s) :=
  issue_ended hready hvec rfl (doneWithPred_cur_phase s sh p _)

end Sys2Proof.Proofs.InstructionEnd
end

section
/-! SUPPORT. The functions of the scalar instructions (R113, R115) in the formulas of the spec's tables: integers, powers of
two, quotients and remainders. -/

namespace Sys2Proof.Proofs.ScalarValues

open Sys2Proof.Machine

/-! ## Fields of an operand -/

theorem shiftCount_eq (y : Word) : shiftCount y = y.toNat % 64 := by simp [shiftCount, bits]

theorem fieldLo_eq (y : Word) : fieldLo y = y.toNat % 64 := by simp [fieldLo, bits]

theorem fieldWidth_eq (y : Word) : fieldWidth y = min (y.toNat / 256 % 128) 64 := by simp [fieldWidth, bits]

/-- A signed field is the signed value of the bit string it holds. -/
theorem signedOf_eq_toInt {w : Nat} (hw : 0 < w) (v : Nat) : signedOf w v = (BitVec.ofNat w v).toInt := by
  have hpow : 2 ^ w = 2 * 2 ^ (w - 1) := by rw [← Nat.pow_succ', Nat.succ_eq_add_one, Nat.sub_add_cancel hw]
  have htop : v % 2 ^ w < 2 ^ (w - 1) ↔ 2 * (v % 2 ^ w) < 2 ^ w := by omega
  simp only [signedOf, BitVec.toInt, BitVec.toNat_ofNat, htop]

theorem signExtend_eq_ofInt {w : Nat} (hw : 0 < w) (i : BitVec w) :
    i.signExtend 64 = BitVec.ofInt 64 (signedOf w i.toNat) := by
  rw [signedOf_eq_toInt hw, BitVec.ofNat_toNat, BitVec.setWidth_eq, BitVec.signExtend]

theorem setWidth_eq_ofNat {w : Nat} (i : BitVec w) : i.setWidth 64 = BitVec.ofNat 64 i.toNat :=
  (BitVec.ofNat_toNat 64 i).symm

/-! ## Arithmetic -/

theorem ofNat_toNat_self (x : Word) : BitVec.ofNat 64 x.toNat = x := by rw [BitVec.ofNat_toNat, BitVec.setWidth_eq]

theorem add_eq_ofNat (x y : Word) : x + y = BitVec.ofNat 64 (x.toNat + y.toNat) := by
  rw [BitVec.ofNat_add, ofNat_toNat_self, ofNat_toNat_self]

theorem mul_eq_ofNat (x y : Word) : x * y = BitVec.ofNat 64 (x.toNat * y.toNat) := by
  rw [BitVec.ofNat_mul, ofNat_toNat_self, ofNat_toNat_self]

theorem ofInt_toNat (x : Word) : BitVec.ofInt 64 (x.toNat : Int) = x := by
  rw [BitVec.ofInt_natCast, ofNat_toNat_self]

theorem sub_eq_ofInt (x y : Word) : x - y = BitVec.ofInt 64 ((x.toNat : Int) - y.toNat) := by
  rw [Int.sub_eq_add_neg, BitVec.ofInt_add, BitVec.ofInt_neg, ofInt_toNat, ofInt_toNat, BitVec.sub_eq_add_neg]

theorem add_signExtend_eq_ofInt {w : Nat} (hw : 0 < w) (x : Word) (i : BitVec w) :
    x + i.signExtend 64 = BitVec.ofInt 64 ((x.toNat : Int) + signedOf w i.toNat) := by
  rw [BitVec.ofInt_add, ofInt_toNat, signExtend_eq_ofInt hw]

theorem eq_zero_iff_toNat (y : Word) : y = 0 ↔ y.toNat = 0 := BitVec.toNat_inj.symm

/-- The operands whose quotient no signed word holds. -/
theorem overflow_operands {x y : Word} (hover : x.toNat = 2 ^ 63 ∧ y.toNat = 2 ^ 64 - 1) :
    x = BitVec.ofNat 64 (2 ^ 63) ∧ y = BitVec.ofNat 64 (2 ^ 64 - 1) :=
  ⟨BitVec.eq_of_toNat_eq hover.1, BitVec.eq_of_toNat_eq hover.2⟩

/-- The overflowing quotient needs no case of its own: 2^63 wraps to the word the table names. -/
theorem divW_eq (x y : Word) :
    divW x y = if y.toNat = 0 then BitVec.ofNat 64 (2 ^ 64 - 1)
      else if x.toNat = 2 ^ 63 ∧ y.toNat = 2 ^ 64 - 1 then BitVec.ofNat 64 (2 ^ 63)
      else BitVec.ofInt 64 (x.toInt.tdiv y.toInt) := by
  simp only [divW, eq_zero_iff_toNat]
  by_cases hover : x.toNat = 2 ^ 63 ∧ y.toNat = 2 ^ 64 - 1
  · obtain ⟨rfl, rfl⟩ := overflow_operands hover
    decide
  · rw [if_neg hover]
    rfl

theorem divzW_eq (x y : Word) :
    divzW x y = if y.toNat = 0 then BitVec.ofNat 64 (2 ^ 64 - 1) else BitVec.ofNat 64 (x.toNat / y.toNat) := by
  simp only [divzW, eq_zero_iff_toNat, BitVec.udiv_def]
  rfl

theorem remW_eq (x y : Word) :
    remW x y = if y.toNat = 0 then x
      else if x.toNat = 2 ^ 63 ∧ y.toNat = 2 ^ 64 - 1 then 0
      else BitVec.ofInt 64 (x.toInt - y.toInt * x.toInt.tdiv y.toInt) := by
  simp only [remW, eq_zero_iff_toNat, Int.tmod_def]
  by_cases hover : x.toNat = 2 ^ 63 ∧ y.toNat = 2 ^ 64 - 1
  · obtain ⟨rfl, rfl⟩ := overflow_operands hover
    decide
  · rw [if_neg hover]

theorem remzW_eq (x y : Word) :
    remzW x y = if y.toNat = 0 then x else BitVec.ofNat 64 (x.toNat % y.toNat) := by
  simp only [remzW, eq_zero_iff_toNat, BitVec.umod_def]

/-! ## Minimum and maximum -/

/-- Two conditions that differ only where the choice makes no difference choose alike. -/
theorem ite_eq_ite_of_imp {p q : Prop} [Decidable p] [Decidable q] {a b : Word} (hpq : p → q) (hqp : q → p ∨ a = b) :
    (if p then a else b) = if q then a else b := by
  by_cases hq : q
  · rw [if_pos hq]
    rcases hqp hq with hp | hab
    · rw [if_pos hp]
    · rw [hab, ite_self]
  · rw [if_neg hq, if_neg fun hp => hq (hpq hp)]

theorem minS_eq (x y : Word) : (if x.slt y then x else y) = if x.toInt ≤ y.toInt then x else y := by
  simp only [BitVec.slt_iff_toInt_lt]
  exact ite_eq_ite_of_imp Int.le_of_lt fun h => (Int.lt_or_eq_of_le h).imp_right BitVec.eq_of_toInt_eq

theorem maxS_eq (x y : Word) : (if x.slt y then y else x) = if x.toInt ≤ y.toInt then y else x := by
  simp only [BitVec.slt_iff_toInt_lt]
  exact ite_eq_ite_of_imp Int.le_of_lt fun h => (Int.lt_or_eq_of_le h).imp_right fun e => (BitVec.eq_of_toInt_eq e).symm

theorem minZ_eq (x y : Word) : (if x.ult y then x else y) = if x.toNat ≤ y.toNat then x else y := by
  simp only [BitVec.ult_iff_toNat_lt]
  exact ite_eq_ite_of_imp Nat.le_of_lt fun h => (Nat.lt_or_eq_of_le h).imp_right BitVec.eq_of_toNat_eq

theorem maxZ_eq (x y : Word) : (if x.ult y then y else x) = if x.toNat ≤ y.toNat then y else x := by
  simp only [BitVec.ult_iff_toNat_lt]
  exact ite_eq_ite_of_imp Nat.le_of_lt fun h => (Nat.lt_or_eq_of_le h).imp_right fun e => (BitVec.eq_of_toNat_eq e).symm

/-! ## Shifts and rotation -/

theorem shl_eq_ofNat (x : Word) (n : Nat) : x <<< n = BitVec.ofNat 64 (x.toNat * 2 ^ n) :=
  BitVec.eq_of_toNat_eq (by rw [BitVec.toNat_shiftLeft, BitVec.toNat_ofNat, Nat.shiftLeft_eq])

theorem shr_eq_ofNat (x : Word) (n : Nat) : x >>> n = BitVec.ofNat 64 (x.toNat / 2 ^ n) := by
  rw [← Nat.shiftRight_eq_div_pow, ← BitVec.toNat_ushiftRight, ofNat_toNat_self]

theorem sarW_eq (x : Word) (n : Nat) : sarW x n = BitVec.ofInt 64 (x.toInt / 2 ^ n) := by
  rw [sarW, BitVec.sshiftRight_eq, Int.shiftRight_eq_div_pow]
  norm_cast

/-- The two parts of a rotated word have no bit in common. -/
theorem shl_and_shr_eq_zero (x : Word) {n : Nat} (hn : n ≤ 64) : x <<< n &&& x >>> (64 - n) = 0#64 := by
  apply BitVec.eq_of_getLsbD_eq
  intro j hj
  rw [BitVec.getLsbD_and, BitVec.getLsbD_shiftLeft, BitVec.getLsbD_ushiftRight, BitVec.getLsbD_zero]
  by_cases hlow : j < n
  · simp [hlow]
  · rw [BitVec.getLsbD_of_ge x (64 - n + j) (by omega), Bool.and_false]

/-- A rotation is a sum: the parts share no bit, so their OR carries nothing. -/
theorem rotW_eq (x : Word) {n : Nat} (hn : n < 64) :
    rotW x n = if n = 0 then x else BitVec.ofNat 64 (x.toNat * 2 ^ n + x.toNat / 2 ^ (64 - n)) := by
  rw [rotW, BitVec.rotateLeft_def, Nat.mod_eq_of_lt hn]
  split
  case isTrue h0 => rw [h0, BitVec.shiftLeft_zero, BitVec.ushiftRight_eq_zero (Nat.le_refl 64), BitVec.or_zero]
  case isFalse h0 =>
    have hdisjoint := shl_and_shr_eq_zero x (Nat.le_of_lt hn)
    rw [← BitVec.add_eq_or_of_and_eq_zero _ _ hdisjoint, shl_eq_ofNat, shr_eq_ofNat, BitVec.ofNat_add]

theorem shlW_shiftCount (x y : Word) : shlW x (shiftCount y) = BitVec.ofNat 64 (x.toNat * 2 ^ (y.toNat % 64)) := by
  rw [shiftCount_eq, shlW, shl_eq_ofNat]

theorem shrW_shiftCount (x y : Word) : shrW x (shiftCount y) = BitVec.ofNat 64 (x.toNat / 2 ^ (y.toNat % 64)) := by
  rw [shiftCount_eq, shrW, shr_eq_ofNat]

theorem sarW_shiftCount (x y : Word) : sarW x (shiftCount y) = BitVec.ofInt 64 (x.toInt / 2 ^ (y.toNat % 64)) := by
  rw [shiftCount_eq, sarW_eq]

theorem rotW_shiftCount (x y : Word) :
    rotW x (shiftCount y) =
      let n := y.toNat % 64
      if n = 0 then x else BitVec.ofNat 64 (x.toNat * 2 ^ n + x.toNat / 2 ^ (64 - n)) := by
  rw [shiftCount_eq, rotW_eq x (Nat.mod_lt _ (by decide))]

/-! ## Counting bits -/

/-- CLZ by the power of two below which x lies and the one it reaches. -/
theorem clzW_spec (x : Word) :
    ∃ n ≤ 64, clzW x = BitVec.ofNat 64 n ∧ x.toNat < 2 ^ (64 - n) ∧ (n < 64 → 2 ^ (63 - n) ≤ x.toNat) := by
  by_cases hx : x = 0
  · exact ⟨64, Nat.le_refl 64, if_pos hx, by simp [hx], fun h => absurd h (Nat.lt_irrefl 64)⟩
  · have hne : x.toNat ≠ 0 := fun h => hx ((eq_zero_iff_toNat x).mpr h)
    have hlog : x.toNat.log2 < 64 := (Nat.log2_lt hne).mpr x.isLt
    refine ⟨63 - x.toNat.log2, by omega, if_neg hx, ?_, fun _ => ?_⟩
    · rw [show 64 - (63 - x.toNat.log2) = x.toNat.log2 + 1 by omega]
      exact Nat.lt_log2_self
    · rw [show 63 - (63 - x.toNat.log2) = x.toNat.log2 by omega]
      exact Nat.log2_self_le hne

/-- CTZ by the power of two that divides x and the one bit above it. -/
theorem trailing_spec (x n : Nat) :
    trailing x n ≤ n ∧ x % 2 ^ trailing x n = 0 ∧ (trailing x n < n → x / 2 ^ trailing x n % 2 = 1) := by
  induction n generalizing x with
  | zero => simp [trailing, Nat.mod_one]
  | succ n ih =>
    obtain ⟨hle, hzero, hone⟩ := ih (x / 2)
    unfold trailing
    split
    case isTrue hodd => simp [Nat.mod_one, hodd]
    case isFalse heven =>
      have hsplit : 2 ^ (1 + trailing (x / 2) n) = 2 * 2 ^ trailing (x / 2) n := by rw [Nat.pow_add, Nat.pow_one]
      refine ⟨by omega, ?_, fun hlt => ?_⟩
      · rw [hsplit, Nat.mod_mul, hzero]
        omega
      · rw [hsplit, ← Nat.div_div_eq_div_mul]
        exact hone (by omega)

theorem popcount_eq_countP (x n : Nat) : popcount x n = (List.range n).countP fun i => x.testBit i := by
  induction n generalizing x with
  | zero => rfl
  | succ n ih =>
    have hbit : x % 2 = if x.testBit 0 = true then 1 else 0 := by
      rw [Nat.testBit_zero]
      rcases Nat.mod_two_eq_zero_or_one x with h | h <;> simp [h]
    rw [popcount, ih, List.range_succ_eq_map, List.countP_cons, List.countP_map, hbit, Nat.add_comm]
    simp only [Function.comp_def, Nat.testBit_succ]

/-! ## Fields -/

/-- The widths of SEXT and ZEXT by their codes (R55, R113). -/
theorem extWidth_of_mem {f : BitVec 2} {w : Nat} (hw : (f, w) ∈ [((0 : BitVec 2), 8), (1, 16), (2, 32)]) :
    extWidth f = w := by
  simp only [List.mem_cons, Prod.mk.injEq, List.not_mem_nil, or_false] at hw
  rcases hw with ⟨rfl, rfl⟩ | ⟨rfl, rfl⟩ | ⟨rfl, rfl⟩ <;> rfl

theorem extWidth_pos (f : BitVec 2) : 0 < extWidth f := by
  unfold extWidth
  split
  · decide
  · split <;> decide

theorem sextW_eq {w : Nat} (hw : 0 < w) (x : Word) : sextW w x = BitVec.ofInt 64 (signedOf w x.toNat) := by
  rw [signedOf_eq_toInt hw, BitVec.ofNat_toNat]
  rfl

theorem zextW_eq (w : Nat) (x : Word) : zextW w x = BitVec.ofNat 64 (x.toNat % 2 ^ w) := by
  rw [zextW, ← BitVec.toNat_setWidth, BitVec.ofNat_toNat]

theorem bfxW_eq (x y : Word) :
    bfxW x y = BitVec.ofNat 64 (x.toNat / 2 ^ (y.toNat % 64) % 2 ^ min (y.toNat / 256 % 128) 64) := by
  rw [bfxW, fieldLo_eq, fieldWidth_eq]

theorem bfiMask_eq (y : Word) :
    bfiMask y = BitVec.ofNat 64 ((2 ^ min (y.toNat / 256 % 128) 64 - 1) * 2 ^ (y.toNat % 64)) := by
  rw [bfiMask, fieldLo_eq, fieldWidth_eq]

theorem append_eq_ofNat (hi : BitVec 8) (lo : BitVec 56) :
    (hi ++ lo : Word) = BitVec.ofNat 64 (hi.toNat * 2 ^ 56 + lo.toNat) := by
  apply BitVec.eq_of_toNat_eq
  rw [BitVec.toNat_append, ← Nat.shiftLeft_add_eq_or_of_lt lo.isLt, Nat.shiftLeft_eq, BitVec.toNat_ofNat, Nat.mod_eq_of_lt]
  omega

theorem addaW_eq (x y : Word) :
    addaW x y = BitVec.ofNat 64 (x.toNat / 2 ^ 56 * 2 ^ 56 + (x.toNat % 2 ^ 56 + y.toNat) % 2 ^ 56) := by
  have htag : x.toNat / 2 ^ 56 % 2 ^ 8 = x.toNat / 2 ^ 56 := Nat.mod_eq_of_lt (by omega)
  rw [addaW, append_eq_ofNat, BitVec.toNat_add, BitVec.extractLsb'_toNat, BitVec.extractLsb'_toNat,
    BitVec.extractLsb'_toNat, Nat.shiftRight_eq_div_pow, htag, Nat.shiftRight_zero, Nat.shiftRight_zero, Nat.add_mod_mod]

theorem tagsW_eq (x y : Word) :
    tagsW x y = BitVec.ofNat 64 (y.toNat % 256 * 2 ^ 56 + x.toNat % 2 ^ 56) := by
  rw [tagsW, append_eq_ofNat, BitVec.extractLsb'_toNat, BitVec.extractLsb'_toNat, Nat.shiftRight_zero, Nat.shiftRight_zero]

/-- A bit of a halfword of ones. -/
theorem getLsbD_halfword (j : Nat) : (0xFFFF : Word).getLsbD j = decide (j < 16) := by
  rw [show (0xFFFF : Word) = BitVec.ofNat 64 (2 ^ 16 - 1) from rfl, BitVec.getLsbD_ofNat, Nat.testBit_two_pow_sub_one,
    ← Bool.decide_and]
  exact decide_eq_decide.mpr (by omega)

/-- A halfword between a higher and a lower part of a number. -/
theorem halfword_parts (high i low k : Nat) :
    high * 2 ^ (k + 16) + i * 2 ^ k + low = 2 ^ k * (2 ^ 16 * high + i) + low := by
  rw [Nat.pow_add, Nat.mul_add, Nat.mul_comm high, Nat.mul_assoc, Nat.mul_comm i]

/-- MOVK bit by bit: below, in and above the halfword it replaces. -/
theorem movkW_eq (old : Word) (h : BitVec 2) (i : BitVec 16) :
    movkW old h i = BitVec.ofNat 64 (old.toNat / 2 ^ (16 * h.toNat + 16) * 2 ^ (16 * h.toNat + 16) +
      i.toNat * 2 ^ (16 * h.toNat) + old.toNat % 2 ^ (16 * h.toNat)) := by
  rw [movkW]
  generalize 16 * h.toNat = k
  apply BitVec.eq_of_getLsbD_eq
  intro j hj
  rw [halfword_parts, BitVec.getLsbD_ofNat, Nat.testBit_two_pow_mul_add _ (Nat.mod_lt _ (Nat.two_pow_pos k)),
    Nat.testBit_two_pow_mul_add _ i.isLt]
  simp only [BitVec.getLsbD_or, BitVec.getLsbD_and, BitVec.getLsbD_not, BitVec.getLsbD_shiftLeft, BitVec.getLsbD_setWidth,
    getLsbD_halfword, Nat.testBit_mod_two_pow, Nat.testBit_div_two_pow, BitVec.testBit_toNat, hj, decide_true, Bool.true_and]
  by_cases hlow : j < k
  · simp [hlow]
  by_cases hmid : j - k < 16
  · simp [hlow, hmid, show j - k < 64 by omega]
  · have habove : i.getLsbD (j - k) = false := BitVec.getLsbD_of_ge i _ (by omega)
    simp [hlow, hmid, habove, show j - k - 16 + (k + 16) = j by omega]

end Sys2Proof.Proofs.ScalarValues
end

section
/-! SUPPORT. The scalar arithmetic, immediate, move, compare and predicate instructions (R113, R115 to R117): each ends with
the result of its function on its source values. -/

namespace Sys2Proof.Proofs.ScalarInstructions

open Sys2Proof.Machine Sys2Proof.Proofs.InstructionEnd Sys2Proof.Proofs.ScalarValues

/-! ## Arithmetic, immediates and moves -/

section Results

variable {s : State} {d a b : Reg}

theorem alu2_ready (hready : Ready (.abd d a b) s) (f : Word → Word → Word) :
    s.alu2 d a b f = s.doneWith (.abd d a b) (f (s.source (.abd d a b) 0) (s.source (.abd d a b) 1)) :=
  issue_doneWith hready rfl fun vals _ => f (op vals 0) (op vals 1)

theorem alu1_ready (hready : Ready (.ad d a) s) (f : Word → Word) :
    s.alu1 d a f = s.doneWith (.ad d a) (f (s.source (.ad d a) 0)) :=
  issue_doneWith hready rfl fun vals _ => f (op vals 0)

/-- An instruction of one source whose function is known has that result. -/
theorem exec_alu1 {i : Instr} {f : Word → Word} (hexec : exec i s = .next (s.alu1 d a f)) (hready : Ready (.ad d a) s)
    {v : Word} (hvalue : f (s.source (.ad d a) 0) = v) : exec i s = .next (s.doneWith (.ad d a) v) := by
  rw [hexec, alu1_ready hready, hvalue]

end Results

/-- A row of a table of members of two sources: the member writes a function of its sources that agrees with the row's
formula. -/
def Computes (row : (Reg → Reg → Reg → Instr) × (Word → Word → Word)) : Prop :=
  ∃ f, (∀ x y, f x y = row.2 x y) ∧ ∀ d a b s, exec (row.1 d a b) s = .next (s.alu2 d a b f)

theorem aluTable_computes : ∀ row ∈ aluTable, Computes row := by
  simp only [aluTable, List.forall_mem_cons, List.not_mem_nil, false_imp_iff, implies_true, and_true]
  refine ⟨?add, ?sub, ?mul, ?mulh, ?mulhz, ?div, ?divz, ?rem, ?remz, ?and, ?or, ?xor, ?andn, ?shl, ?shr, ?sar, ?rot,
    ?min, ?max, ?minz, ?maxz, ?bfx, ?adda, ?tags⟩
  case add => exact ⟨_, add_eq_ofNat, fun _ _ _ _ => rfl⟩
  case sub => exact ⟨_, sub_eq_ofInt, fun _ _ _ _ => rfl⟩
  case mul => exact ⟨_, mul_eq_ofNat, fun _ _ _ _ => rfl⟩
  case mulh => exact ⟨mulhW, fun _ _ => rfl, fun _ _ _ _ => rfl⟩
  case mulhz => exact ⟨mulhzW, fun _ _ => rfl, fun _ _ _ _ => rfl⟩
  case div => exact ⟨_, divW_eq, fun _ _ _ _ => rfl⟩
  case divz => exact ⟨_, divzW_eq, fun _ _ _ _ => rfl⟩
  case rem => exact ⟨_, remW_eq, fun _ _ _ _ => rfl⟩
  case remz => exact ⟨_, remzW_eq, fun _ _ _ _ => rfl⟩
  case and => exact ⟨(· &&& ·), fun _ _ => rfl, fun _ _ _ _ => rfl⟩
  case or => exact ⟨(· ||| ·), fun _ _ => rfl, fun _ _ _ _ => rfl⟩
  case xor => exact ⟨(· ^^^ ·), fun _ _ => rfl, fun _ _ _ _ => rfl⟩
  case andn => exact ⟨fun x y => x &&& ~~~y, fun _ _ => rfl, fun _ _ _ _ => rfl⟩
  case shl => exact ⟨_, shlW_shiftCount, fun _ _ _ _ => rfl⟩
  case shr => exact ⟨_, shrW_shiftCount, fun _ _ _ _ => rfl⟩
  case sar => exact ⟨_, sarW_shiftCount, fun _ _ _ _ => rfl⟩
  case rot => exact ⟨_, rotW_shiftCount, fun _ _ _ _ => rfl⟩
  case min => exact ⟨_, minS_eq, fun _ _ _ _ => rfl⟩
  case max => exact ⟨_, maxS_eq, fun _ _ _ _ => rfl⟩
  case minz => exact ⟨_, minZ_eq, fun _ _ _ _ => rfl⟩
  case maxz => exact ⟨_, maxZ_eq, fun _ _ _ _ => rfl⟩
  case bfx => exact ⟨_, bfxW_eq, fun _ _ _ _ => rfl⟩
  case adda => exact ⟨_, addaW_eq, fun _ _ _ _ => rfl⟩
  case tags => exact ⟨_, tagsW_eq, fun _ _ _ _ => rfl⟩

theorem exec_of_computes {row : (Reg → Reg → Reg → Instr) × (Word → Word → Word)} (hrow : Computes row) {d a b : Reg}
    {s : State} (hready : Ready (.abd d a b) s) :
    exec (row.1 d a b) s =
      .next (s.doneWith (.abd d a b) (row.2 (s.source (.abd d a b) 0) (s.source (.abd d a b) 1))) := by
  obtain ⟨f, hvalue, hexec⟩ := hrow
  rw [hexec, alu2_ready hready, hvalue]

theorem exec_sel {d a b : Reg} {s : State} (p : PReg) (hready : Ready (.abd d a b) s) :
    exec (.sel d a b p) s =
      .next (s.doneWith (.abd d a b) (s.source (.abd d a b) (if s.cur.predicate p = true then 0 else 1))) := by
  have hexec : exec (.sel d a b p) s = .next (s.alu2 d a b fun x y => if s.cur.predicate p then x else y) := rfl
  rw [hexec, alu2_ready hready, apply_ite (s.source (.abd d a b))]

theorem exec_bfi {d a b : Reg} {s : State} (hready : Ready { srcs := [a, b], dst := some d, dsrc := some d } s) :
    exec (.bfi d a b) s = .next (s.doneWith { srcs := [a, b], dst := some d, dsrc := some d }
      (bfiW (s.cur.reg d) (s.source { srcs := [a, b], dst := some d, dsrc := some d } 0)
        (s.source { srcs := [a, b], dst := some d, dsrc := some d } 1))) :=
  congrArg Host.Outcome.next (issue_doneWith hready rfl fun vals t => bfiW (t.cur.reg d) (op vals 0) (op vals 1))

theorem exec_movz {d : Reg} {s : State} (h : BitVec 2) (i : BitVec 16) (hready : Ready { dst := some d } s) :
    exec (.movz d h i) s = .next (s.doneWith { dst := some d } (i.setWidth 64 <<< (16 * h.toNat))) :=
  congrArg Host.Outcome.next (issue_doneWith hready rfl fun _ _ => i.setWidth 64 <<< (16 * h.toNat))

theorem exec_movk {d : Reg} {s : State} (h : BitVec 2) (i : BitVec 16) (hready : Ready { dst := some d, dsrc := some d } s) :
    exec (.movk d h i) s = .next (s.doneWith { dst := some d, dsrc := some d } (movkW (s.cur.reg d) h i)) :=
  congrArg Host.Outcome.next (issue_doneWith hready rfl fun _ t => movkW (t.cur.reg d) h i)

/-- Settles O3: each member writes its function of the source values, and the function agrees with its row of R113 or R115
as `ScalarValues` has it. -/
theorem aluResults : Obligations.AluResults := by
  refine ⟨⟨?table, fun _ _ _ p _ hready => exec_sel p hready, ?bfi, ?unary⟩, ?immediates⟩
  case table =>
    intro row hrow d a b s hready
    exact exec_of_computes (aluTable_computes row hrow) hready
  case bfi =>
    intro d a b s hready
    dsimp only
    rw [exec_bfi hready, bfiW, bfiMask_eq, fieldLo_eq, shl_eq_ofNat]
  case unary =>
    intro d a s hready
    dsimp only
    refine ⟨?clz, ?ctz, exec_alu1 rfl hready ?popc, exec_alu1 rfl hready (shr_eq_ofNat _ 56), ?ext⟩
    case clz =>
      obtain ⟨n, hn, hvalue, habove, htop⟩ := clzW_spec (s.source (.ad d a) 0)
      exact ⟨n, hn, exec_alu1 rfl hready hvalue, habove, htop⟩
    case ctz =>
      obtain ⟨hn, hbelow, hlow⟩ := trailing_spec (s.source (.ad d a) 0).toNat 64
      exact ⟨_, hn, exec_alu1 rfl hready rfl, hbelow, hlow⟩
    case popc => exact congrArg (BitVec.ofNat 64) (popcount_eq_countP _ 64)
    case ext =>
      intro f _ w hw
      obtain rfl := extWidth_of_mem hw
      exact ⟨exec_alu1 rfl hready (sextW_eq (extWidth_pos f) _), exec_alu1 rfl hready (zextW_eq _ _)⟩
  case immediates =>
    intro d a i n h s
    refine ⟨fun hready => ?register, fun hready => ?movz, fun hready => ?movk⟩
    case register =>
      dsimp only
      refine ⟨?addi, ?andi, ?ori, ?xori, ?shli, ?shri, ?sari, ?roti⟩
      case addi => exact exec_alu1 rfl hready (add_signExtend_eq_ofInt (by decide) _ i)
      case andi => exact exec_alu1 rfl hready (by rw [setWidth_eq_ofNat])
      case ori => exact exec_alu1 rfl hready (by rw [setWidth_eq_ofNat])
      case xori => exact exec_alu1 rfl hready (by rw [setWidth_eq_ofNat])
      case shli => exact exec_alu1 rfl hready (shl_eq_ofNat _ _)
      case shri => exact exec_alu1 rfl hready (shr_eq_ofNat _ _)
      case sari => exact exec_alu1 rfl hready (sarW_eq _ _)
      case roti => exact exec_alu1 rfl hready (rotW_eq _ n.isLt)
    case movz =>
      rw [exec_movz h i hready, shl_eq_ofNat, BitVec.toNat_setWidth_of_le (by decide)]
    case movk =>
      dsimp only
      rw [exec_movk h i hready, movkW_eq]

/-! ## Compares and predicates -/

/-- The conditions of R116 by their codes. -/
def condTable (x y : Word) : List (Nat × Bool) :=
  [(0, decide (x = y)), (1, !decide (x = y)), (2, decide (x.toInt < y.toInt)), (3, !decide (x.toInt < y.toInt)),
   (4, decide (x.toNat < y.toNat)), (5, !decide (x.toNat < y.toNat)), (6, decide (x.toInt ≤ y.toInt)),
   (7, !decide (x.toInt ≤ y.toInt)), (8, decide (x.toNat ≤ y.toNat)), (9, !decide (x.toNat ≤ y.toNat)),
   (10, !decide (x &&& y = 0))]

theorem condHolds_of_mem_condTable (x y : Word) : ∀ e ∈ condTable x y, condHolds e.1 x y = e.2 := by
  simp [condTable, condHolds, BitVec.slt_eq_decide, BitVec.sle_eq_decide, BitVec.ult_eq_decide, BitVec.ule_eq_decide]

/-- A row of a compare's own codes, where they are rows of the table. -/
theorem condHolds_of_rows {k : Nat} {x y : Word} {rows : List (BitVec k × Bool)} {c : BitVec k} {r : Bool}
    (hmem : (c, r) ∈ rows) (hrows : rows.map (Prod.map BitVec.toNat id) ⊆ condTable x y) :
    condHolds c.toNat x y = r :=
  condHolds_of_mem_condTable x y (c.toNat, r) (hrows (List.mem_map_of_mem (f := Prod.map BitVec.toNat id) hmem))

theorem exec_cmp {d : PReg} {a b : Reg} {s : State} (c : BitVec 4) (hready : Ready { srcs := [a, b] } s) :
    exec (.cmp d a b c) s = .next (s.doneWithPred { srcs := [a, b] } d
      (condHolds c.toNat (s.source { srcs := [a, b] } 0) (s.source { srcs := [a, b] } 1))) :=
  congrArg Host.Outcome.next (issue_doneWithPred hready rfl d fun vals _ => condHolds c.toNat (op vals 0) (op vals 1))

theorem exec_cmpi {d : PReg} {a : Reg} {s : State} (c : BitVec 3) (i : BitVec 15) (hready : Ready { srcs := [a] } s) :
    exec (.cmpi d c a i) s = .next (s.doneWithPred { srcs := [a] } d
      (condHolds c.toNat (s.source { srcs := [a] } 0) (BitVec.ofInt 64 (signedOf 15 i.toNat)))) := by
  rw [← signExtend_eq_ofInt (by decide)]
  exact congrArg Host.Outcome.next
    (issue_doneWithPred hready rfl d fun vals _ => condHolds c.toNat (op vals 0) (i.signExtend 64))

theorem plog_ready {s : State} (d p q : PReg) (f : Bool → Bool → Bool) (hready : Ready {} s) :
    s.plog d p q f = s.doneWithPred {} d (f (s.cur.predicate p) (s.cur.predicate q)) :=
  issue_doneWithPred hready rfl d fun _ t => f (t.cur.predicate p) (t.cur.predicate q)

/-- Settles O4: the rows of CMP are the table of R116 and those of CMPI its first eight; PLOG is a function of two
predicates. -/
theorem comparesAndPredicates : Obligations.ComparesAndPredicates := by
  intro d p q a b k i s
  refine ⟨fun hready => ?cmp, fun hready => ?cmpi, fun hready => ?plog⟩
  case cmp =>
    intro x y c r hmem
    rw [exec_cmp c hready, condHolds_of_rows hmem (List.Subset.refl (condTable x y))]
  case cmpi =>
    intro x y r hmem
    rw [exec_cmpi k i hready, condHolds_of_rows hmem (List.take_subset 8 (condTable x y))]
  case plog =>
    have hend := fun f => congrArg (Host.Outcome.next : State → Out) (plog_ready d p q f hready)
    exact ⟨hend _, hend _, hend _, hend _, hend _⟩

end Sys2Proof.Proofs.ScalarInstructions
end
